-- ==== Sys2Proof/Word.lean ====
section
/-! DEFINITION. The word types of the Norino N4 model and the sparse map type its state is made of. -/

namespace Sys2Proof

/-- A 64-bit register or operand value (R78). -/
abbrev Word := BitVec 64

/-- One byte. -/
abbrev Byte := BitVec 8

/-- A sparse map by number: pairs in strictly rising order of their key. A key that is absent stands
for the default value that the reader of the map names. -/
abbrev SMap (α : Type) := List (Nat × α)

end Sys2Proof
end

