-- ==== Sys2Proof/Syntax.lean ====
section
/-! DEFINITION. The steps of the Norino N4: one constructor of `Instr` for each row of the table of operations and
events (spec/opcode_table.json). The instructions of the opcode map (R228) carry a header and their operands; the
events carry what names the unit and the message. -/

namespace Sys2Proof

/-- Length of an instruction word (R217, R218). -/
inductive Len where
  | w64 | w96 | w128
  deriving DecidableEq, Repr

/-- The header of an instruction that is not its opcode: its length and its switch marker (R218). -/
structure Hdr where
  len : Len
  sw : Bool
  deriving DecidableEq, Repr

/-- A scalar operand: direct xn, or relative x[ix+d] (R78, R224). -/
inductive XReg where
  | dir (n : BitVec 6)
  | rel (d : BitVec 5)
  deriving DecidableEq, Repr

/-- A vector operand: short, long, or a stream standing in for it (R224). -/
inductive VReg where
  | v (n : BitVec 5)
  | w (n : BitVec 4)
  | s (n : BitVec 3)
  deriving DecidableEq, Repr

/-- Data of a load or store: scalar, or vector when the type is .b128 (R250). -/
inductive DReg where
  | x (r : XReg)
  | v (r : VReg)
  deriving DecidableEq, Repr

/-- Predicate p0..p7. -/
abbrev PReg := BitVec 3
/-- Accumulator tile a0..a7. -/
abbrev AReg := BitVec 3
/-- Stream s0..s7. -/
abbrev SReg := BitVec 3
/-- Polynomial accumulator h0..h3. -/
abbrev HReg := BitVec 2
/-- Monitor m0..m3. -/
abbrev MReg := BitVec 2
/-- Copy channel c0..c3. -/
abbrev CReg := BitVec 2

/-- Thread state registers (R85, R224). -/
inductive TReg where
  | tstat | tcause | tepc | tval | xbase | xcount | seq | cringh | stallhw | stallage
  deriving DecidableEq, Repr

/-- Types of R223. -/
inductive Ty where
  | i8 | i16 | i32 | i64 | n8 | n16 | n32 | n64 | f64 | f32 | f16 | bf16 | e4m3 | e5m2 | tw8
  | b8 | b16 | b32 | b64 | b128
  deriving DecidableEq, Repr

/-- Operators of keyed updates (R102). -/
inductive MOp where
  | rep | add | addsI | addsN | fadd | faddx | minI | minN | maxI | maxN | fmin | fmax | amax
  | or | and | xor | rowx | ins
  deriving DecidableEq, Repr

/-- Scopes (R134). -/
inductive Scope where
  | thread | core | cluster | die | device | system
  deriving DecidableEq, Repr

/-- Rounding modes (R204). -/
inductive Rm where
  | rne | rtz | rdn | rup | rna
  deriving DecidableEq, Repr

/-- Engine classes of `fence.x` (R148, R228). -/
inductive Engine where
  | co | cp | mx | gp | cl | fl
  deriving DecidableEq, Repr

/-- Index field of gathers and scatters (R223): width, signedness, scale exponent. -/
structure Idx where
  iw : BitVec 2
  is : Bool
  isc : BitVec 3
  deriving DecidableEq, Repr

/-- A continuation record (R42). The model's own field: `owner` tells which unit goes on with it (R44); 0 in a record that
starts a unit. -/
structure Record where
  pc : BitVec 57
  prio : BitVec 8
  ctx : BitVec 9
  xcount : BitVec 7
  pin : Bool
  launch : BitVec 32
  vui : BitVec 32
  queue : BitVec 12
  node : BitVec 20
  arg1 : Word
  arg2 : Word
  arg3 : Word
  arg4 : Word
  arg5 : Word
  owner : Nat
  deriving DecidableEq, Repr

/-- An entry of a run (R101). `key`, `op`, `w`, `tent` (ST), `trp`, `psn`, `wexp`, `task` and the 128-bit value are
the fields of the layout; `ord` is the ordering kind carried with the update (R104). The model's own fields: `units`
names the units that emitted the updates combined in the entry (R117, R142), `age` the cycle of its core at which the
oldest of them entered its run (R107), `mark` the apply point it is marked for (R115). -/
structure Entry where
  key : Word
  op : MOp
  w : Bool
  tent : Bool
  trp : Bool
  psn : Bool
  wexp : BitVec 8
  task : BitVec 40
  val : BitVec 128
  ord : BitVec 2
  units : List Nat
  age : Nat
  mark : Bool
  deriving DecidableEq, Repr

/-- Why a task aborts (R123). -/
inductive AbortWhy where
  | page (die ctx va : Nat)   -- a page that is not resident: the resume record waits for it (R46)
  | refused                   -- a translation refused at once: the unit ends with FAULTS + 1 (R369)
  | cancel                    -- a cancel found the thread waiting (R51)
  | keyErase                  -- a KEYERASE of a key slot of its pages (R38)
  | kill                      -- a paddock kill (R177)
  | teardown                  -- a teardown of its context (R69)
  | pairing                   -- a pairing mismatch (R68)
  | vacate                    -- a vacate whose grace expired (R64)
  | double                    -- a double fault (R182)
  | migration (die ctx va : Nat)  -- a migration freeze: the record waits for the page at its new home (R170)
  deriving DecidableEq, Repr

/-- Cause of a negative acknowledgement (R22). -/
inductive NackCause where
  | paddock | moved | cancelled | routeLost
  deriving DecidableEq, Repr

/-- Who consumes a sector read (R175), in the order of its rows. -/
inductive Consumer where
  | core (core : Nat) (fetch : Bool) (task : BitVec 40)
  | yard
  | window
  | get
  | flue
  | scrub
  | walk
  | engine
  | prefetch
  deriving DecidableEq, Repr

/-- A barrier point (R269). -/
inductive BarPoint where
  | core (n : Nat)
  | cluster (n : Nat)
  | die (n : Nat)
  | device
  deriving DecidableEq, Repr

/-- One monitor's contribution to a generation (R270). -/
structure MonContrib where
  sum : BitVec 128
  ref : BitVec 128
  bound : Word
  mexp : BitVec 8
  ovf : Bool
  en : Bool
  deriving DecidableEq, Repr

/-- An arrival at a barrier point (R269, R270): who, its N, its mask, and the core's four monitors. -/
structure Arrival where
  core : Nat
  slot : Nat
  n : BitVec 32
  mask : BitVec 4
  mons : List MonContrib
  deriving DecidableEq, Repr

/-- A contribution to an xmax exchange (R292). -/
structure Contribution where
  exch : Nat
  core : Nat
  slot : Nat
  ty : Ty
  value : Word
  deriving DecidableEq, Repr

/-- A message of `msend` on its way to a mailbox (R95, R340). -/
structure MailMsg where
  target : Nat
  low : Bool
  data : BitVec 512
  core : Nat
  slot : Nat
  ctx : BitVec 9
  deriving DecidableEq, Repr

/-- Where a drain's request has arrived (R265). -/
inductive DrainAt where
  | shed (cluster : Nat)
  | yard (die : Nat)
  deriving DecidableEq, Repr

/-- A drain's request: the named bytes, the place it has reached, its scope, and whether it applies faddx (R265). -/
structure DrainReq where
  at' : DrainAt
  ctx : BitVec 9
  base : Nat
  len : Nat
  scope : Scope
  apply : Bool
  core : Nat
  slot : Nat
  deriving DecidableEq, Repr

/-- What a counter operation does (R49 to R51, R339). -/
inductive CtrAct where
  | add (count target : BitVec 32)
  | done                        -- COUNT + 1, a done suspension
  | ended (cancelled : Bool)    -- COUNT + 1 with CANCELS + 1 or FAULTS + 1
  | target                      -- TARGET + 1
  | faults (n : Nat)            -- FAULTS + n
  | cancels                     -- CANCELS + 1
  | counted (n : Nat) (faults : Nat)  -- COUNT + n and FAULTS + faults (R326 to R330)
  | cancel                      -- the cancel operation
  | propagate (faults cancels : Nat)  -- from a child that reached its TARGET
  | wait (r : Record)           -- a counter wait to be parked
  | ready (units : BitVec 32)   -- a graph node becomes ready (R52)
  deriving DecidableEq, Repr

/-- A counter operation: the entry, what it does, and the NODE and QUEUE of the record whose end caused it (R52). -/
structure CtrOp where
  ctx : BitVec 9
  index : BitVec 32
  act : CtrAct
  node : BitVec 20
  queue : BitVec 12
  deriving DecidableEq, Repr

/-- A get row that has come back (R326): the core, the offset, the bytes, the counter, whether it was refused,
and the part that it came from. -/
structure GetRow where
  core : Nat
  slot : Nat
  offset : Nat
  data : List Byte
  ref : Word
  refused : Bool
  part : BitVec 10
  deriving DecidableEq, Repr

/-- A spawn message (R22, R63, R338): the sending part, the target core and the record. -/
structure SpawnMsg where
  src : BitVec 10
  target : Nat
  record : Record
  deriving DecidableEq, Repr

/-- A collective step message (R22, R330); `whole` once its last part has arrived. -/
structure CollMsg where
  src : BitVec 10
  ctx : BitVec 9
  id : BitVec 16
  tag : BitVec 16
  flag : BitVec 32
  whole : Bool
  data : List Byte
  deriving DecidableEq, Repr

/-- A host access to BAR2 or BAR4 (R28, R31): offset, length and data of the TLP, its PASID and privilege. -/
structure HostAccess where
  read : Bool
  offset : Nat
  size : Nat
  data : List Byte
  pasid : Option (BitVec 20)
  priv : Bool
  deriving DecidableEq, Repr

/-- Registers that a host or Dolzia write reaches (R4): those without behaviour of their own. -/
inductive HostReg where
  | bar0 (offset : Nat)
  | route (n : Nat)
  | lnkst (n : Nat)
  deriving DecidableEq, Repr

/-- Redfish requests (R39). -/
inductive Redfish where
  | power | ready | bootst | temperature
  | lifeRead (recSection : Nat)
  | orderlyOff
  deriving DecidableEq, Repr

/-- The steps of the part (spec/opcode_table.json). The header of an instruction (R218) and what an event carries
(`Ev`) stand beside it in the state. -/
inductive Instr where
  -- R232
  | add (ty : Ty) (a b c : XReg)
  | sub (ty : Ty) (a b c : XReg)
  | mul (ty : Ty) (a b c : XReg)
  | mulh (ty : Ty) (a b c : XReg)
  | div (ty : Ty) (a b c : XReg)
  | rem (ty : Ty) (a b c : XReg)
  | min (ty : Ty) (a b c : XReg)
  | max (ty : Ty) (a b c : XReg)
  | abs (ty : Ty) (a b : XReg)
  | addImm (ty : Ty) (a b : XReg) (imm : Word)
  | subImm (ty : Ty) (a b : XReg) (imm : Word)
  | mulImm (ty : Ty) (a b : XReg) (imm : Word)
  | minImm (ty : Ty) (a b : XReg) (imm : Word)
  | maxImm (ty : Ty) (a b : XReg) (imm : Word)
  -- R233
  | and (ty : Ty) (a b c : XReg)
  | or (ty : Ty) (a b c : XReg)
  | xor (ty : Ty) (a b c : XReg)
  | andn (ty : Ty) (a b c : XReg)
  | orn (ty : Ty) (a b c : XReg)
  | xnor (ty : Ty) (a b c : XReg)
  | andImm (ty : Ty) (a b : XReg) (imm : Word)
  | orImm (ty : Ty) (a b : XReg) (imm : Word)
  | xorImm (ty : Ty) (a b : XReg) (imm : Word)
  | sll (ty : Ty) (a b c : XReg)
  | srl (ty : Ty) (a b c : XReg)
  | sra (ty : Ty) (a b c : XReg)
  | rol (ty : Ty) (a b c : XReg)
  | ror (ty : Ty) (a b c : XReg)
  | sllImm (ty : Ty) (a b : XReg) (imm : Word)
  | srlImm (ty : Ty) (a b : XReg) (imm : Word)
  | sraImm (ty : Ty) (a b : XReg) (imm : Word)
  | rolImm (ty : Ty) (a b : XReg) (imm : Word)
  | rorImm (ty : Ty) (a b : XReg) (imm : Word)
  -- R234
  | bext (ty : Ty) (a b c d : XReg)
  | bextz (ty : Ty) (a b c d : XReg)
  | bins (ty : Ty) (a b c d : XReg)
  | clz (ty : Ty) (a b : XReg)
  | ctz (ty : Ty) (a b : XReg)
  | popc (ty : Ty) (a b : XReg)
  | bswap (ty : Ty) (a b : XReg)
  -- R235
  | lea (a b c : XReg) (isc : BitVec 3)
  -- R236
  | cmpEq (ty : Ty) (a : PReg) (b c : XReg)
  | cmpNe (ty : Ty) (a : PReg) (b c : XReg)
  | cmpLt (ty : Ty) (a : PReg) (b c : XReg)
  | cmpLe (ty : Ty) (a : PReg) (b c : XReg)
  | cmpGt (ty : Ty) (a : PReg) (b c : XReg)
  | cmpGe (ty : Ty) (a : PReg) (b c : XReg)
  | cmpEqImm (ty : Ty) (a : PReg) (b : XReg) (imm : Word)
  | cmpNeImm (ty : Ty) (a : PReg) (b : XReg) (imm : Word)
  | cmpLtImm (ty : Ty) (a : PReg) (b : XReg) (imm : Word)
  | cmpLeImm (ty : Ty) (a : PReg) (b : XReg) (imm : Word)
  | cmpGtImm (ty : Ty) (a : PReg) (b : XReg) (imm : Word)
  | cmpGeImm (ty : Ty) (a : PReg) (b : XReg) (imm : Word)
  -- R237
  | pand (a b c : PReg)
  | por (a b c : PReg)
  | pxor (a b c : PReg)
  | pandn (a b c : PReg)
  | pnot (a b : PReg)
  -- R238
  | sel (a : XReg) (b : PReg) (c d : XReg)
  | movXX (a b : XReg)
  | movXP (a : XReg) (b : PReg)
  | movPX (a : PReg) (b : XReg)
  | li (a : XReg) (imm : Word)
  -- R239
  | khash (a b : XReg)
  -- R240
  | br (a : PReg) (imm : Word)
  | brn (a : PReg) (imm : Word)
  -- R241
  | jr (b : XReg)
  | call (a : XReg) (imm : Word)
  | callr (a b : XReg)
  | ret (b : XReg)
  -- R242
  | loop (a : XReg) (imm : Word)
  -- R226
  | rep (count : BitVec 6) (mask : BitVec 4)
  -- R244
  | ixset (b : XReg) (imm : Word)
  | ixadd (b : XReg) (imm : Word)
  | ixget (a : XReg)
  -- R245
  | mfts (a : XReg) (b : TReg)
  | mtts (a : TReg) (b : XReg)
  -- R246
  | rdcyc (a : XReg)
  -- R247
  | brk (imm : Word)
  | trap (imm : Word)
  -- R253
  | ld (ty : Ty) (a : DReg) (b : XReg) (imm : Word)
  | ldIndexed (ty : Ty) (a : DReg) (b c : XReg) (isc : BitVec 3)
  -- R256
  | ldLs (ty : Ty) (a : DReg) (b : XReg) (imm : Word)
  | ldHandleDisp (ty : Ty) (a : DReg) (b : XReg) (imm : Word)
  | ldHandleReg (ty : Ty) (a : DReg) (b c : XReg)
  -- R257
  | st (ty : Ty) (op : MOp) (t : Bool) (a : DReg) (b : XReg) (imm : Word)
  | stIndexed (ty : Ty) (op : MOp) (t : Bool) (a : DReg) (b c : XReg) (isc : BitVec 3)
  -- R256
  | stLs (ty : Ty) (a : DReg) (b : XReg) (imm : Word)
  | stHandleDisp (ty : Ty) (a : DReg) (b : XReg) (imm : Word)
  | stHandleReg (ty : Ty) (a : DReg) (b c : XReg)
  -- R259
  | fetch (ty : Ty) (op : MOp) (a b c : XReg)
  -- R260
  | gather (ty : Ty) (a : VReg) (b : XReg) (c : VReg) (idx : Idx)
  | scatter (ty : Ty) (op : MOp) (t : Bool) (a : VReg) (b : XReg) (c : VReg) (idx : Idx)
  -- R262
  | ldt (ty : Ty) (a : VReg) (b c : XReg)
  -- R263
  | unpk (ty ty2 : Ty) (rm : Rm) (a b : VReg) (c : XReg)
  -- R264
  | prefetch (b : XReg) (imm : Word)
  -- R265
  | drain (sc : Scope) (b c : XReg)
  | drainApply (sc : Scope) (b c : XReg)
  -- R267
  | fenceRel (sc : Scope)
  | fenceAcq (sc : Scope)
  | fenceAr (sc : Scope)
  | fenceSc (sc : Scope)
  -- R268
  | fenceX (ea eb : Engine)
  -- R269
  | bar (sc : Scope) (b : XReg) (imm : BitVec 23)
  -- R273
  | hgive (b c : XReg)
  -- R274
  | htake (a b : XReg)
  -- R279
  | vaddF (ty : Ty) (rm : Rm) (a b c : VReg)
  | vsubF (ty : Ty) (rm : Rm) (a b c : VReg)
  | vmulF (ty : Ty) (rm : Rm) (a b c : VReg)
  | vdiv (ty : Ty) (rm : Rm) (a b c : VReg)
  | vminF (ty : Ty) (a b c : VReg)
  | vmaxF (ty : Ty) (a b c : VReg)
  | vabsF (ty : Ty) (a b : VReg)
  | vneg (ty : Ty) (a b : VReg)
  | vsqrt (ty : Ty) (rm : Rm) (a b : VReg)
  -- R280
  | vfma (ty : Ty) (rm : Rm) (a b c d : VReg)
  | vfms (ty : Ty) (rm : Rm) (a b c d : VReg)
  | vfnma (ty : Ty) (rm : Rm) (a b c d : VReg)
  -- R281
  | vaddI (ty : Ty) (a b c : VReg)
  | vsubI (ty : Ty) (a b c : VReg)
  | vmulI (ty : Ty) (a b c : VReg)
  | vminI (ty : Ty) (a b c : VReg)
  | vmaxI (ty : Ty) (a b c : VReg)
  | vabsI (ty : Ty) (a b : VReg)
  | vadds (ty : Ty) (a b c : VReg)
  | vsubs (ty : Ty) (a b c : VReg)
  | vand (ty : Ty) (a b c : VReg)
  | vor (ty : Ty) (a b c : VReg)
  | vxor (ty : Ty) (a b c : VReg)
  | vsll (ty : Ty) (a b c : VReg)
  | vsrl (ty : Ty) (a b c : VReg)
  | vsra (ty : Ty) (a b c : VReg)
  -- R282
  | vexp (ty : Ty) (rm : Rm) (a b : VReg)
  | vlog (ty : Ty) (rm : Rm) (a b : VReg)
  | vrcp (ty : Ty) (rm : Rm) (a b : VReg)
  | vrsqrt (ty : Ty) (rm : Rm) (a b : VReg)
  | vtanh (ty : Ty) (rm : Rm) (a b : VReg)
  | vsig (ty : Ty) (rm : Rm) (a b : VReg)
  -- R283
  | vcmpEq (ty : Ty) (a b c : VReg)
  | vcmpNe (ty : Ty) (a b c : VReg)
  | vcmpLt (ty : Ty) (a b c : VReg)
  | vcmpLe (ty : Ty) (a b c : VReg)
  | vcmpGt (ty : Ty) (a b c : VReg)
  | vcmpGe (ty : Ty) (a b c : VReg)
  -- R284
  | vsel (ty : Ty) (a b c d : VReg)
  -- R285
  | vperm (ty : Ty) (a b c : VReg)
  | vshuf (ty : Ty) (a b c d : VReg)
  | vbcast (ty : Ty) (a : VReg) (b : XReg)
  | vrot (ty : Ty) (a b : VReg) (c : XReg)
  -- R286
  | vredadd (ty : Ty) (rm : Rm) (a : XReg) (b : VReg)
  | vredmax (ty : Ty) (a : XReg) (b : VReg)
  | vredmin (ty : Ty) (a : XReg) (b : VReg)
  -- R287
  | cvt (ty ty2 : Ty) (rm : Rm) (a b : VReg) (c : XReg)
  -- R289
  | cvtn (ty2 : Ty) (rm : Rm) (a b : VReg) (c d : XReg)
  -- R290
  | vquant (ty2 : Ty) (rm : Rm) (a b : VReg) (c d : XReg)
  -- R292
  | xmax (ty : Ty) (a : XReg) (b : VReg)
  -- R293
  | sbupd (b : VReg) (c d : XReg)
  -- R294
  | vhash (ty : Ty) (a b : VReg) (c : XReg)
  -- R295
  | vbcmp (a : XReg) (b c : VReg) (d : XReg)
  -- R296
  | vmov (a b : VReg)
  | vins (ty : Ty) (a : VReg) (b c : XReg)
  | vext (ty : Ty) (a : XReg) (b : VReg) (c : XReg)
  -- R302
  | mma (ty ty2 : Ty) (a : AReg) (b c d : XReg)
  -- R303
  | mmas (ty2 : Ty) (a : AReg) (b c d e : XReg) (imm : BitVec 18)
  -- R307
  | mmt (ty : Ty) (a : AReg) (b c d e f : XReg) (imm : BitVec 18)
  -- R311
  | azero (a : AReg)
  | aspill (a : XReg) (b : AReg)
  | afill (a : AReg) (b : XReg)
  | aadd (ty : Ty) (rm : Rm) (a b c : AReg)
  -- R312
  | aread (ty : Ty) (pair : Bool) (rm : Rm) (a : VReg) (b : AReg) (c d : XReg)
  -- R313
  | skset (b c : XReg)
  | skget (a : XReg)
  -- R304
  | topk (ty : Ty) (a b c d : XReg)
  -- R309
  | mvh (ty ty2 : Ty) (a : AReg) (b c d e : XReg) (imm : BitVec 18)
  -- R314
  | sbld (b c : XReg)
  | sbst (b c : XReg)
  -- R321
  | sopen (ty : Ty) (a : SReg) (b : XReg)
  | sadv (a : SReg) (b : XReg)
  | stend (a : PReg) (b : SReg)
  | sclose (a : SReg)
  | fopen (ty : Ty) (a : SReg) (b : XReg)
  -- R323
  | cpyLl (a : CReg) (b c d e : XReg) (imm : BitVec 18)
  | cpyGl (a : CReg) (b c d e : XReg) (imm : BitVec 18)
  | cpyLg (ty : Ty) (op : MOp) (t : Bool) (a : CReg) (b c d e : XReg) (imm : BitVec 18)
  | cpyDist (a : CReg) (c d e : XReg) (imm : BitVec 18)
  -- R324
  | cpwp (a : XReg) (b : CReg)
  | cpwait (a : XReg) (b : CReg)
  | dpat (b : CReg) (c : XReg)
  -- R326
  | get (a b c d e : XReg)
  -- R327
  | put (ty : Ty) (op : MOp) (a b c d e : XReg)
  -- R330
  | coll (ty : Ty) (op : MOp) (a b c d e f : XReg)
  -- R338
  | post (a b c : XReg)
  | spawn (a b c : XReg)
  -- R339
  | ctwait (b : XReg)
  | ctadd (b c d : XReg)
  | ctcancel (b : XReg)
  | ctread (a b c : XReg)
  -- R340
  | msend (b c d : XReg)
  | mrecv (a b c : XReg)
  -- R335
  | fqrd (a b : XReg)
  -- R342
  | mset (a : MReg) (b : XReg)
  | mref (a : MReg) (b c : XReg)
  | mclr (a : MReg)
  | mrd (a : XReg) (b : MReg) (c : XReg)
  -- R344
  | hset (a : HReg) (b c : XReg)
  -- R345
  | hmul (rm : Rm) (a : HReg) (b c : XReg)
  -- R346
  | hdiv (rm : Rm) (a : HReg) (b c : XReg)
  -- R347
  | hprod (rm : Rm) (a b c : HReg)
  -- R344
  | hscale (a : HReg) (b : XReg)
  -- R348
  | hrd (rm : Rm) (a : XReg) (b : HReg) (c : XReg)
  | hwr (rm : Rm) (a : HReg) (b c : XReg)
  -- R344
  | hdeg (a : HReg) (b : XReg)
  -- R350
  | svCtab (b c d : XReg)
  | svQrec (b c : XReg)
  | svQprio (b c : XReg)
  | svGstart (b c : XReg)
  | svTeardown (b : XReg)
  | svRht (b c : XReg)
  | svDph (b c : XReg)
  | svPtbr (b c : XReg)
  | svPtw (b c : XReg)
  | svTinv (b c : XReg)
  | svPres (b c : XReg)
  | svPref (b c : XReg)
  | svMigr (b c d : XReg)
  | svHint (b c d : XReg)
  | svFq (b c d : XReg)
  | svSfq (b c : XReg)
  | svFlue (c : XReg)
  | svVac (c d : XReg)
  | svVrel (b : XReg)
  | svPdk (b c : XReg)
  | svKill (b : XReg)
  | svPrel (b : XReg)
  | svLspr (b c d : XReg)
  | svSpb (b c : XReg)
  | svHtab (b c d : XReg)
  | svYov (b c d : XReg)
  -- R248
  | nop
  -- R266
  | commit
  -- R278
  | vmodeShort
  | vmodeLong
  -- R336
  | done
  | yield
  | wfw
  | lend
  -- R334
  | tret
  -- events
  | powerOn
  | bootStepComplete
  | powerOff
  | issueThrottlingEntry
  | issueThrottlingExit
  | overtempPowerOff
  | flitReceive
  | stopFlagClear
  | ackReceive
  | nakReceive
  | ackTimeout
  | alternateResend
  | portUp
  | putUpdateReceive
  | getRequestServe
  | getRowWrite
  | putAckReceive
  | negativeAckReceive
  | spawnArrival
  | spawnAnswerReceive
  | collectiveMessageArrival
  | collectiveReceiveStep
  | poolWindowAccess
  | memoryWindowWrite
  | memoryWindowRead
  | watchArm
  | registerWrite
  | quote
  | idcert
  | keyxch
  | keyimport
  | keygen
  | keyerase
  | liferead
  | redfishRequest
  | lifetimeRecordWrite
  | dispatcherCycle
  | heldInsertEntry
  | recordArrivalAtManger
  | mangerCancel
  | counterOperation
  | nodeReadyInsert
  | deferredPhaseClose
  | vacateGraceExpiry
  | rectangleEmpty
  | exactRestore
  | teardownComplete
  | windowHashCompare
  | barrelIssue
  | coprocessorDispatch
  | coprocessorComplete
  | copFaultDetect
  | groupEnd
  | mmtChunkComplete
  | longContextGrant
  | scaleSetArrival
  | xmaxExchangeComplete
  | mailboxArrival
  | mailboxRetry
  | copyBlockDelivery
  | copyPendResume
  | stallHighwaterMoveout
  | stallAgeMoveout
  | shedAgeMoveout
  | shedFillMoveout
  | shedMoveRetry
  | yardEntry
  | movedReroute
  | yardFillApply
  | yardSpill
  | yardRefill
  | yardFull
  | yardFullClear
  | releaseApply
  | commitPrepare
  | prepareAnswer
  | commitFlip
  | flipAcknowledge
  | taskAbort
  | abortNoticeArrival
  | sosAcknowledge
  | loadResultReturn
  | fetchHomeStep
  | mergeFaultRecordArrival
  | pageFaultService
  | migrationComplete
  | fluePageVisit
  | fluePassEnd
  | sectorRead
  | scrub
  | paddockKill
  | paddockKillReport
  | barrierGenerationOpen
  | postArrival
  | barrierArrival
  | xmaxContributionArrival
  | drainRequestArrival
  deriving DecidableEq, Repr

/-- An event that has come about, with what names the unit and the message: one constructor per event of the table. -/
inductive Ev where
  | powerOn
  | bootStepComplete
  | powerOff
  | issueThrottlingEntry
  | issueThrottlingExit
  | overtempPowerOff
  | flitReceive (port : Nat) (flit : BitVec 512)
  | stopFlagClear (port : Nat) (cls : BitVec 3)
  | ackReceive (port : Nat) (seq : BitVec 8)
  | nakReceive (port : Nat) (seq : BitVec 8)
  | ackTimeout (port : Nat)
  | alternateResend (port : Nat) (cls : BitVec 3)
  | portUp (port : Nat)
  | putUpdateReceive (src : BitVec 10) (body : List Byte)
  | getRequestServe (src : BitVec 10) (body : List Byte)
  | getRowWrite (g : GetRow)
  | putAckReceive (src : BitVec 10) (ref : Word) (count : BitVec 32)
  | negativeAckReceive (src : BitVec 10) (ref : Word) (cause : NackCause)
  | spawnArrival (m : SpawnMsg)
  | spawnAnswerReceive (src : BitVec 10) (status : BitVec 64)
  | collectiveMessageArrival (m : CollMsg)
  | collectiveReceiveStep (core : Nat) (slot : Nat)
  | poolWindowAccess (a : HostAccess)
  | memoryWindowWrite (a : HostAccess)
  | memoryWindowRead (a : HostAccess)
  | watchArm (n : Nat)
  | registerWrite (r : HostReg) (value : Word)
  | quote
  | idcert
  | keyxch
  | keyimport
  | keygen
  | keyerase
  | liferead
  | redfishRequest (q : Redfish)
  | lifetimeRecordWrite
  | dispatcherCycle
  | heldInsertEntry (q : Nat)
  | recordArrivalAtManger (cluster : Nat) (key : Word)
  | mangerCancel (cluster : Nat) (ctx : Nat) (index : Nat)
  | counterOperation (op : CtrOp)
  | nodeReadyInsert
  | deferredPhaseClose (die : Nat) (ctx : Nat)
  | vacateGraceExpiry (core : Nat) (slot : Nat)
  | rectangleEmpty (rect : Word)
  | exactRestore (core : Nat) (slot : Nat)
  | teardownComplete (ctx : Nat)
  | windowHashCompare (core : Nat) (slot : Nat)
  | barrelIssue (core : Nat)
  | coprocessorDispatch (core : Nat)
  | coprocessorComplete (core : Nat) (slot : Nat) (n : BitVec 32)
  | copFaultDetect (core : Nat) (slot : Nat) (n : BitVec 32) (swizzle : Bool)
  | groupEnd (core : Nat) (slot : Nat)
  | mmtChunkComplete (core : Nat) (slot : Nat)
  | longContextGrant (cluster : Nat)
  | scaleSetArrival (core : Nat) (value : BitVec 10)
  | xmaxExchangeComplete (cluster : Nat) (n : Nat)
  | mailboxArrival (m : MailMsg)
  | mailboxRetry (core : Nat) (slot : Nat)
  | copyBlockDelivery (core : Nat) (chan : Nat)
  | copyPendResume (core : Nat) (chan : Nat)
  | stallHighwaterMoveout (core : Nat)
  | stallAgeMoveout (core : Nat)
  | shedAgeMoveout (cluster : Nat) (key : Word)
  | shedFillMoveout (cluster : Nat)
  | shedMoveRetry (cluster : Nat) (key : Word)
  | yardEntry (die : Nat) (e : Entry) (src : Nat)
  | movedReroute (e : Entry) (src : Nat)
  | yardFillApply (die : Nat)
  | yardSpill (die : Nat)
  | yardRefill (die : Nat)
  | yardFull (die : Nat)
  | yardFullClear (die : Nat)
  | releaseApply (die : Nat) (unit : Nat) (core : Nat) (slot : Nat)
  | commitPrepare (core : Nat) (slot : Nat)
  | prepareAnswer (core : Nat) (slot : Nat) (good : Bool)
  | commitFlip (core : Nat) (slot : Nat) (task : BitVec 40)
  | flipAcknowledge (core : Nat) (slot : Nat) (task : BitVec 40)
  | taskAbort (core : Nat) (slot : Nat) (why : AbortWhy)
  | abortNoticeArrival (task : BitVec 40) (why : AbortWhy)
  | sosAcknowledge (core : Nat) (slot : Nat) (unit : Nat) (good : Bool)
  | loadResultReturn (core : Nat) (slot : Nat) (tag : Nat)
  | fetchHomeStep (core : Nat) (slot : Nat)
  | mergeFaultRecordArrival (task : BitVec 40) (launch : BitVec 32) (num : Word) (ctx : Nat)
  | pageFaultService (die : Nat) (ctx : Nat) (va : Nat) (cause : Nat)
  | migrationComplete (ctx : Nat) (va : Nat)
  | fluePageVisit
  | fluePassEnd
  | sectorRead (sector : Nat) (consumer : Consumer)
  | scrub
  | paddockKill (n : Nat)
  | paddockKillReport (n : Nat) (count : Nat)
  | barrierGenerationOpen (point : BarPoint) (ctx : Nat) (g : Nat)
  | postArrival (core : Nat) (slot : Nat) (queue : Nat) (r : Record)
  | barrierArrival (point : BarPoint) (ctx : Nat) (g : Nat) (a : Arrival)
  | xmaxContributionArrival (cluster : Nat) (c : Contribution)
  | drainRequestArrival (d : DrainReq)
  deriving DecidableEq, Repr

/-- The row of the table that an event is. -/
def Ev.instr : Ev → Instr
  | .powerOn => .powerOn
  | .bootStepComplete => .bootStepComplete
  | .powerOff => .powerOff
  | .issueThrottlingEntry => .issueThrottlingEntry
  | .issueThrottlingExit => .issueThrottlingExit
  | .overtempPowerOff => .overtempPowerOff
  | .flitReceive _ _ => .flitReceive
  | .stopFlagClear _ _ => .stopFlagClear
  | .ackReceive _ _ => .ackReceive
  | .nakReceive _ _ => .nakReceive
  | .ackTimeout _ => .ackTimeout
  | .alternateResend _ _ => .alternateResend
  | .portUp _ => .portUp
  | .putUpdateReceive _ _ => .putUpdateReceive
  | .getRequestServe _ _ => .getRequestServe
  | .getRowWrite _ => .getRowWrite
  | .putAckReceive _ _ _ => .putAckReceive
  | .negativeAckReceive _ _ _ => .negativeAckReceive
  | .spawnArrival _ => .spawnArrival
  | .spawnAnswerReceive _ _ => .spawnAnswerReceive
  | .collectiveMessageArrival _ => .collectiveMessageArrival
  | .collectiveReceiveStep _ _ => .collectiveReceiveStep
  | .poolWindowAccess _ => .poolWindowAccess
  | .memoryWindowWrite _ => .memoryWindowWrite
  | .memoryWindowRead _ => .memoryWindowRead
  | .watchArm _ => .watchArm
  | .registerWrite _ _ => .registerWrite
  | .quote => .quote
  | .idcert => .idcert
  | .keyxch => .keyxch
  | .keyimport => .keyimport
  | .keygen => .keygen
  | .keyerase => .keyerase
  | .liferead => .liferead
  | .redfishRequest _ => .redfishRequest
  | .lifetimeRecordWrite => .lifetimeRecordWrite
  | .dispatcherCycle => .dispatcherCycle
  | .heldInsertEntry _ => .heldInsertEntry
  | .recordArrivalAtManger _ _ => .recordArrivalAtManger
  | .mangerCancel _ _ _ => .mangerCancel
  | .counterOperation _ => .counterOperation
  | .nodeReadyInsert => .nodeReadyInsert
  | .deferredPhaseClose _ _ => .deferredPhaseClose
  | .vacateGraceExpiry _ _ => .vacateGraceExpiry
  | .rectangleEmpty _ => .rectangleEmpty
  | .exactRestore _ _ => .exactRestore
  | .teardownComplete _ => .teardownComplete
  | .windowHashCompare _ _ => .windowHashCompare
  | .barrelIssue _ => .barrelIssue
  | .coprocessorDispatch _ => .coprocessorDispatch
  | .coprocessorComplete _ _ _ => .coprocessorComplete
  | .copFaultDetect _ _ _ _ => .copFaultDetect
  | .groupEnd _ _ => .groupEnd
  | .mmtChunkComplete _ _ => .mmtChunkComplete
  | .longContextGrant _ => .longContextGrant
  | .scaleSetArrival _ _ => .scaleSetArrival
  | .xmaxExchangeComplete _ _ => .xmaxExchangeComplete
  | .mailboxArrival _ => .mailboxArrival
  | .mailboxRetry _ _ => .mailboxRetry
  | .copyBlockDelivery _ _ => .copyBlockDelivery
  | .copyPendResume _ _ => .copyPendResume
  | .stallHighwaterMoveout _ => .stallHighwaterMoveout
  | .stallAgeMoveout _ => .stallAgeMoveout
  | .shedAgeMoveout _ _ => .shedAgeMoveout
  | .shedFillMoveout _ => .shedFillMoveout
  | .shedMoveRetry _ _ => .shedMoveRetry
  | .yardEntry _ _ _ => .yardEntry
  | .movedReroute _ _ => .movedReroute
  | .yardFillApply _ => .yardFillApply
  | .yardSpill _ => .yardSpill
  | .yardRefill _ => .yardRefill
  | .yardFull _ => .yardFull
  | .yardFullClear _ => .yardFullClear
  | .releaseApply _ _ _ _ => .releaseApply
  | .commitPrepare _ _ => .commitPrepare
  | .prepareAnswer _ _ _ => .prepareAnswer
  | .commitFlip _ _ _ => .commitFlip
  | .flipAcknowledge _ _ _ => .flipAcknowledge
  | .taskAbort _ _ _ => .taskAbort
  | .abortNoticeArrival _ _ => .abortNoticeArrival
  | .sosAcknowledge _ _ _ _ => .sosAcknowledge
  | .loadResultReturn _ _ _ => .loadResultReturn
  | .fetchHomeStep _ _ => .fetchHomeStep
  | .mergeFaultRecordArrival _ _ _ _ => .mergeFaultRecordArrival
  | .pageFaultService _ _ _ _ => .pageFaultService
  | .migrationComplete _ _ => .migrationComplete
  | .fluePageVisit => .fluePageVisit
  | .fluePassEnd => .fluePassEnd
  | .sectorRead _ _ => .sectorRead
  | .scrub => .scrub
  | .paddockKill _ => .paddockKill
  | .paddockKillReport _ _ => .paddockKillReport
  | .barrierGenerationOpen _ _ _ => .barrierGenerationOpen
  | .postArrival _ _ _ _ => .postArrival
  | .barrierArrival _ _ _ _ => .barrierArrival
  | .xmaxContributionArrival _ _ => .xmaxContributionArrival
  | .drainRequestArrival _ => .drainRequestArrival

end Sys2Proof
end

