-- ==== Sys2Proof/WellFormed.lean ====
section
/-! DEFINITION. Which instructions the encoding admits: the checks of R227 steps 5 and 6 on the operands, types,
operators and immediates of each instruction (R220 to R224, R251 and the tables of the instruction chapters). -/

namespace Sys2Proof

/-- Signed integer types. -/
def Ty.isSigned : Ty → Bool
  | .i8 | .i16 | .i32 | .i64 => true
  | _ => false

/-- Unsigned integer types. -/
def Ty.isNat : Ty → Bool
  | .n8 | .n16 | .n32 | .n64 => true
  | _ => false

/-- Integer types, .i and .n. -/
def Ty.isInt (t : Ty) : Bool := t.isSigned || t.isNat

/-- The lane types without arithmetic, .b8 to .b64. -/
def Ty.isRaw : Ty → Bool
  | .b8 | .b16 | .b32 | .b64 => true
  | _ => false

/-- The wide floating types (R279). -/
def Ty.isFloat : Ty → Bool
  | .f64 | .f32 | .f16 | .bf16 => true
  | _ => false

/-- Width of a type in bytes (R223, R276). -/
def Ty.bytes : Ty → Nat
  | .i8 | .n8 | .b8 | .e4m3 | .e5m2 | .tw8 => 1
  | .i16 | .n16 | .b16 | .f16 | .bf16 => 2
  | .i32 | .n32 | .b32 | .f32 => 4
  | .i64 | .n64 | .b64 | .f64 => 8
  | .b128 => 16

/-- Width of a type in bits. -/
def Ty.width (t : Ty) : Nat := 8 * t.bytes

/-- Types of a load (R251). -/
def Ty.loads (t : Ty) : Bool := t.isInt || t.isFloat || t.isRaw || t == .b128

/-- Types of a global store (R251). -/
def Ty.stores : Ty → Bool
  | .i32 | .i64 | .n32 | .n64 | .f32 | .f64 | .b32 | .b64 | .b128 => true
  | _ => false

/-- Narrow types that `unpk` and the matrix unit widen (R263, R298). -/
def Ty.unpacks : Ty → Bool
  | .e4m3 | .e5m2 | .i8 | .n8 | .tw8 => true
  | _ => false

/-- Types of `cvt` (R287). -/
def Ty.converts (t : Ty) : Bool := t.isFloat || (t.isInt && 2 ≤ t.bytes)

/-- Types of `sopen` (R321). -/
def Ty.streams (t : Ty) : Bool := (t.isInt || t.isFloat || t.isRaw) && 2 ≤ t.bytes

/-- The operator and type pairs of a keyed store, with its trap modifier (R222, R251). -/
def storeOk (ty : Ty) (op : MOp) (t : Bool) : Bool :=
  ty.stores &&
  match op with
  | .rep | .ins => !t
  | .add => ty.isInt && !t
  | .addsI => ty.isSigned
  | .addsN => ty.isNat
  | .minI | .maxI => ty.isSigned && !t
  | .minN | .maxN => ty.isNat && !t
  | .fadd | .faddx | .rowx | .fmin | .fmax | .amax => ty.isFloat && !t
  | .or | .and | .xor => !ty.isInt && !ty.isFloat && !t

/-- The operator and type pairs of `coll` (R329). The signedness of an operator and of its type agree (R222).
DEDUCED (log 20): `or`, `and` and `xor` take every type of `coll`, whose types hold no .b type. -/
def collOk (ty : Ty) (op : MOp) : Bool :=
  (ty == .i32 || ty == .i64 || ty == .n32 || ty == .n64 || ty == .f32 || ty == .f64) &&
  match op with
  | .add => ty.isInt
  | .addsI | .minI | .maxI => ty.isSigned
  | .addsN | .minN | .maxN => ty.isNat
  | .fadd | .fmin | .fmax | .amax => ty.isFloat
  | .or | .and | .xor => true
  | .rep | .faddx | .rowx | .ins => false

/-- The accumulator and operand A types that an encoding may pair (R298). -/
def accOk (acc opA : Ty) : Bool :=
  match acc with
  | .f64 => opA == .f64
  | .f32 => opA == .f16 || opA == .bf16 || opA.unpacks
  | _ => false

/-- A tile named for .f64 accumulation is even (R200). -/
def tileOk (f64 : Bool) (a : AReg) : Bool := !f64 || a.toNat % 2 == 0

/-- A field that refuses the stream encoding (R224). -/
def VReg.plain : VReg → Bool
  | .s _ => false
  | _ => true

/-- Data of a load or store is of vector class exactly when the type is .b128 (R250). -/
def DReg.fits (d : DReg) (ty : Ty) : Bool :=
  match d with
  | .x _ => ty != .b128
  | .v r => ty == .b128 && r.plain

/-- The types and, in short mode, the last register of `ldt` (R262). -/
def ldtOk (ty : Ty) (a : VReg) : Bool :=
  (ty == .b8 || ty == .b16 || ty == .b32) &&
  match a with
  | .v n => n.toNat + 2 * ty.bytes ≤ 32
  | .w _ => true
  | .s _ => false

/-- The types of `aread` and its TNR operand, which is x0 but for .b8 (R299, R312). -/
def areadOk (ty : Ty) (pair : Bool) (d : XReg) : Bool :=
  match ty with
  | .f64 => pair && d == .dir 0
  | .f32 | .f16 | .bf16 => d == .dir 0
  | .b8 => true
  | _ => false

/-- IMM [17:1] of a copy start is zero, and its mirror word operand is x0 without WPE (R322). -/
def wpOk (e : XReg) (imm : BitVec 18) : Bool := imm.toNat < 2 && (imm == 1 || e == .dir 0)

/-- The immediate of a format I instruction fits its length (R221). -/
def fitsI (h : Hdr) (imm : Word) : Bool :=
  match h.len with
  | .w64 => (imm.truncate 23).signExtend 64 == imm
  | .w96 => (imm.truncate 55).signExtend 64 == imm
  | .w128 => true

/-- The immediate of a format L instruction fits its length (R221). -/
def fitsL (h : Hdr) (imm : Word) : Bool :=
  match h.len with
  | .w64 => (imm.truncate 41).signExtend 64 == imm
  | _ => true

/-- Format X has no 64-bit form (R220). -/
def Hdr.extended (h : Hdr) : Bool := h.len != .w64

/-- The instruction is one that the encoding admits. An event carries no encoding and is always well formed. -/
def Instr.wf (h : Hdr) : Instr → Bool
  | .nop => true
  | .add ty _ _ _ => ty.isInt
  | .sub ty _ _ _ => ty.isInt
  | .mul ty _ _ _ => ty.isInt
  | .mulh ty _ _ _ => ty.isInt
  | .div ty _ _ _ => ty.isInt
  | .rem ty _ _ _ => ty.isInt
  | .min ty _ _ _ => ty.isInt
  | .max ty _ _ _ => ty.isInt
  | .abs ty _ _ => ty.isSigned
  | .addImm ty _ _ imm => fitsI h imm && ty.isInt
  | .subImm ty _ _ imm => fitsI h imm && ty.isInt
  | .mulImm ty _ _ imm => fitsI h imm && ty.isInt
  | .minImm ty _ _ imm => fitsI h imm && ty.isInt
  | .maxImm ty _ _ imm => fitsI h imm && ty.isInt
  | .and ty _ _ _ => ty.isRaw
  | .or ty _ _ _ => ty.isRaw
  | .xor ty _ _ _ => ty.isRaw
  | .andn ty _ _ _ => ty.isRaw
  | .orn ty _ _ _ => ty.isRaw
  | .xnor ty _ _ _ => ty.isRaw
  | .andImm ty _ _ imm => fitsI h imm && ty.isRaw
  | .orImm ty _ _ imm => fitsI h imm && ty.isRaw
  | .xorImm ty _ _ imm => fitsI h imm && ty.isRaw
  | .sll ty _ _ _ => (ty.isInt || ty.isRaw)
  | .srl ty _ _ _ => (ty.isInt || ty.isRaw)
  | .sra ty _ _ _ => (ty.isInt || ty.isRaw)
  | .rol ty _ _ _ => (ty.isInt || ty.isRaw)
  | .ror ty _ _ _ => (ty.isInt || ty.isRaw)
  | .sllImm ty _ _ imm => fitsI h imm && (ty.isInt || ty.isRaw)
  | .srlImm ty _ _ imm => fitsI h imm && (ty.isInt || ty.isRaw)
  | .sraImm ty _ _ imm => fitsI h imm && (ty.isInt || ty.isRaw)
  | .rolImm ty _ _ imm => fitsI h imm && (ty.isInt || ty.isRaw)
  | .rorImm ty _ _ imm => fitsI h imm && (ty.isInt || ty.isRaw)
  | .bext ty _ _ _ _ => (ty == .i64 || ty == .n64)
  | .bextz ty _ _ _ _ => (ty == .i64 || ty == .n64)
  | .bins ty _ _ _ _ => (ty == .i64 || ty == .n64)
  | .clz ty _ _ => ty.isInt
  | .ctz ty _ _ => ty.isInt
  | .popc ty _ _ => ty.isInt
  | .bswap ty _ _ => (ty.isInt && 2 ≤ ty.bytes)
  | .lea _ _ _ isc => isc.toNat < 5
  | .cmpEq ty _ _ _ => ty.isInt
  | .cmpNe ty _ _ _ => ty.isInt
  | .cmpLt ty _ _ _ => ty.isInt
  | .cmpLe ty _ _ _ => ty.isInt
  | .cmpGt ty _ _ _ => ty.isInt
  | .cmpGe ty _ _ _ => ty.isInt
  | .cmpEqImm ty _ _ imm => fitsI h imm && ty.isInt
  | .cmpNeImm ty _ _ imm => fitsI h imm && ty.isInt
  | .cmpLtImm ty _ _ imm => fitsI h imm && ty.isInt
  | .cmpLeImm ty _ _ imm => fitsI h imm && ty.isInt
  | .cmpGtImm ty _ _ imm => fitsI h imm && ty.isInt
  | .cmpGeImm ty _ _ imm => fitsI h imm && ty.isInt
  | .pand _ _ _ => true
  | .por _ _ _ => true
  | .pxor _ _ _ => true
  | .pandn _ _ _ => true
  | .pnot _ _ => true
  | .sel _ _ _ _ => true
  | .movXX _ _ => true
  | .movXP _ _ => true
  | .movPX _ _ => true
  | .li _ imm => fitsL h imm
  | .khash _ _ => true
  | .br _ imm => fitsL h imm
  | .brn _ imm => fitsL h imm
  | .jr _ => true
  | .call _ imm => fitsL h imm
  | .callr _ _ => true
  | .ret _ => true
  | .loop _ imm => fitsI h imm
  | .rep _ _ => !h.sw
  | .ixset _ imm => fitsI h imm
  | .ixadd _ imm => fitsI h imm
  | .ixget _ => true
  | .mfts _ _ => true
  | .mtts _ _ => true
  | .rdcyc _ => true
  | .brk imm => fitsL h imm
  | .trap imm => fitsL h imm
  | .ld ty a _ imm => fitsI h imm && a.fits ty && ty.loads
  | .ldIndexed ty a _ _ isc => a.fits ty && ty.loads && isc.toNat < 5
  | .ldLs ty a _ imm => fitsI h imm && a.fits ty && ty.loads
  | .ldHandleDisp ty a _ imm => fitsI h imm && a.fits ty && ty.loads
  | .ldHandleReg ty a _ _ => a.fits ty && ty.loads
  | .st ty op t a _ imm => fitsI h imm && a.fits ty && storeOk ty op t
  | .stIndexed ty op t a _ _ isc => a.fits ty && storeOk ty op t && isc.toNat < 5
  | .stLs ty a _ imm => fitsI h imm && a.fits ty && ty.loads
  | .stHandleDisp ty a _ imm => fitsI h imm && a.fits ty && ty.loads
  | .stHandleReg ty a _ _ => a.fits ty && ty.loads
  | .fetch ty op _ _ _ => (storeOk ty op false && ty != .b128 && op != .rowx && op != .ins)
  | .gather ty a _ c idx => a.plain && c.plain && (ty.loads && ty != .b128) && idx.isc.toNat < 5
  | .scatter ty op t a _ c idx => a.plain && c.plain && (storeOk ty op t && ty != .b128) && idx.isc.toNat < 5
  | .ldt ty a _ _ => a.plain && ldtOk ty a
  | .unpk ty ty2 _ a b _ => a.plain && b.plain && ((ty == .f16 || ty == .bf16 || ty == .f32) && ty2.unpacks)
  | .prefetch _ imm => fitsI h imm
  | .drain _ _ _ => true
  | .drainApply _ _ _ => true
  | .commit => true
  | .fenceRel _ => true
  | .fenceAcq _ => true
  | .fenceAr _ => true
  | .fenceSc _ => true
  | .fenceX _ _ => true
  | .bar sc _ _ => (sc != .thread)
  | .hgive _ _ => true
  | .htake _ _ => true
  | .vmodeShort => true
  | .vmodeLong => true
  | .vaddF ty _ _ _ _ => ty.isFloat
  | .vsubF ty _ _ _ _ => ty.isFloat
  | .vmulF ty _ _ _ _ => ty.isFloat
  | .vdiv ty _ _ _ _ => ty.isFloat
  | .vminF ty _ _ _ => ty.isFloat
  | .vmaxF ty _ _ _ => ty.isFloat
  | .vabsF ty _ _ => ty.isFloat
  | .vneg ty _ _ => ty.isFloat
  | .vsqrt ty _ _ _ => ty.isFloat
  | .vfma ty _ _ _ _ _ => ty.isFloat
  | .vfms ty _ _ _ _ _ => ty.isFloat
  | .vfnma ty _ _ _ _ _ => ty.isFloat
  | .vaddI ty _ _ _ => ty.isInt
  | .vsubI ty _ _ _ => ty.isInt
  | .vmulI ty _ _ _ => ty.isInt
  | .vminI ty _ _ _ => ty.isInt
  | .vmaxI ty _ _ _ => ty.isInt
  | .vabsI ty _ _ => ty.isSigned
  | .vadds ty _ _ _ => ty.isInt
  | .vsubs ty _ _ _ => ty.isInt
  | .vand ty _ _ _ => (ty.isInt || ty.isRaw)
  | .vor ty _ _ _ => (ty.isInt || ty.isRaw)
  | .vxor ty _ _ _ => (ty.isInt || ty.isRaw)
  | .vsll ty _ _ _ => ty.isInt
  | .vsrl ty _ _ _ => ty.isInt
  | .vsra ty _ _ _ => ty.isInt
  | .vexp ty _ _ _ => (ty.isFloat && ty != .f64)
  | .vlog ty _ _ _ => (ty.isFloat && ty != .f64)
  | .vrcp ty _ _ _ => (ty.isFloat && ty != .f64)
  | .vrsqrt ty _ _ _ => (ty.isFloat && ty != .f64)
  | .vtanh ty _ _ _ => (ty.isFloat && ty != .f64)
  | .vsig ty _ _ _ => (ty.isFloat && ty != .f64)
  | .vcmpEq ty a b c => a.plain && b.plain && c.plain && (ty.isInt || ty.isFloat)
  | .vcmpNe ty a b c => a.plain && b.plain && c.plain && (ty.isInt || ty.isFloat)
  | .vcmpLt ty a b c => a.plain && b.plain && c.plain && (ty.isInt || ty.isFloat)
  | .vcmpLe ty a b c => a.plain && b.plain && c.plain && (ty.isInt || ty.isFloat)
  | .vcmpGt ty a b c => a.plain && b.plain && c.plain && (ty.isInt || ty.isFloat)
  | .vcmpGe ty a b c => a.plain && b.plain && c.plain && (ty.isInt || ty.isFloat)
  | .vsel ty a b c d => a.plain && b.plain && c.plain && d.plain && ty.isRaw
  | .vperm ty a b c => a.plain && b.plain && c.plain && ty.isRaw
  | .vshuf ty a b c d => a.plain && b.plain && c.plain && d.plain && ty.isRaw
  | .vbcast ty a _ => a.plain && ty.isRaw
  | .vrot ty a b _ => a.plain && b.plain && ty.isRaw
  | .vredadd ty rm _ b => b.plain && (ty.isFloat || (ty.isInt && rm == .rne))
  | .vredmax ty _ b => b.plain && (ty.isInt || ty.isFloat)
  | .vredmin ty _ b => b.plain && (ty.isInt || ty.isFloat)
  | .cvt ty ty2 _ _ _ _ => (ty.converts && ty2.converts)
  | .cvtn ty2 _ a b _ _ => a.plain && b.plain && (ty2 == .f32 || ty2 == .f16 || ty2 == .bf16)
  | .vquant ty2 _ a b _ _ => a.plain && b.plain && (ty2 == .f32 || ty2 == .f16 || ty2 == .bf16)
  | .xmax ty _ b => b.plain && (ty == .f32 || ty == .f16 || ty == .bf16 || ty == .i32 || ty == .n32)
  | .sbupd b _ _ => b.plain
  | .vhash ty a b _ => a.plain && b.plain && (ty == .b32 || ty == .b64)
  | .vbcmp _ b c _ => b.plain && c.plain
  | .vmov a b => a.plain && b.plain
  | .vins ty a _ _ => a.plain && (ty.isInt || ty.isFloat || ty.isRaw)
  | .vext ty _ b _ => b.plain && (ty.isInt || ty.isFloat || ty.isRaw)
  | .mma ty ty2 a _ _ _ => (accOk ty ty2 && tileOk (ty == .f64) a)
  | .mmas ty2 _ _ _ _ _ imm => h.extended && (accOk .f32 ty2 && imm.toNat < 4)
  | .mmt ty a _ _ _ _ _ imm => h.extended && ((ty == .f32 || ty == .f64) && tileOk (ty == .f64) a && imm.toNat < 2048)
  | .azero _ => true
  | .aspill _ _ => true
  | .afill _ _ => true
  | .aadd ty _ a b c => ((ty == .f32 || ty == .f64) && tileOk (ty == .f64) a && tileOk (ty == .f64) b && tileOk (ty == .f64) c)
  | .aread ty pair _ a b _ d => a.plain && (areadOk ty pair d && tileOk pair b)
  | .skset _ _ => true
  | .skget _ => true
  | .topk ty _ _ _ _ => (accOk .f32 ty)
  | .mvh ty ty2 a _ _ _ _ imm => h.extended && (accOk ty ty2 && tileOk (ty == .f64) a && imm.toNat < 512)
  | .sbld _ _ => true
  | .sbst _ _ => true
  | .sopen ty _ _ => ty.streams
  | .sadv _ _ => true
  | .stend _ _ => true
  | .sclose _ => true
  | .fopen ty _ _ => ty.isFloat
  | .cpyLl _ _ _ _ e imm => h.extended && wpOk e imm
  | .cpyGl _ _ _ _ e imm => h.extended && wpOk e imm
  | .cpyLg ty op t _ _ _ _ e imm => h.extended && (storeOk ty op t && ty != .b128 && wpOk e imm)
  | .cpyDist _ _ _ e imm => h.extended && wpOk e imm
  | .cpwp _ _ => true
  | .cpwait _ _ => true
  | .dpat _ _ => true
  | .get _ _ _ _ _ => h.extended
  | .put ty op _ _ _ _ _ => h.extended && (storeOk ty op false && ty != .b128)
  | .coll ty op _ _ _ _ _ _ => h.extended && collOk ty op
  | .done => true
  | .yield => true
  | .wfw => true
  | .lend => true
  | .post _ _ _ => h.extended
  | .spawn _ _ _ => h.extended
  | .ctwait _ => true
  | .ctadd _ _ _ => true
  | .ctcancel _ => true
  | .ctread _ _ _ => true
  | .msend _ _ _ => true
  | .mrecv _ _ _ => true
  | .tret => true
  | .fqrd _ _ => true
  | .mset _ _ => true
  | .mref _ _ _ => true
  | .mclr _ => true
  | .mrd _ _ _ => true
  | .hset _ _ _ => true
  | .hmul _ _ _ _ => true
  | .hdiv _ _ _ _ => true
  | .hprod _ _ _ _ => true
  | .hscale _ _ => true
  | .hrd _ _ _ _ => true
  | .hwr _ _ _ _ => true
  | .hdeg _ _ => true
  | .svCtab _ _ _ => true
  | .svQrec _ _ => true
  | .svQprio _ _ => true
  | .svGstart _ _ => true
  | .svTeardown _ => true
  | .svRht _ _ => true
  | .svDph _ _ => true
  | .svPtbr _ _ => true
  | .svPtw _ _ => true
  | .svTinv _ _ => true
  | .svPres _ _ => true
  | .svPref _ _ => true
  | .svMigr _ _ _ => true
  | .svHint _ _ _ => true
  | .svFq _ _ _ => true
  | .svSfq _ _ => true
  | .svFlue _ => true
  | .svVac _ _ => true
  | .svVrel _ => true
  | .svPdk _ _ => true
  | .svKill _ => true
  | .svPrel _ => true
  | .svLspr _ _ _ => true
  | .svSpb _ _ => true
  | .svHtab _ _ _ => true
  | .svYov _ _ _ => true
  | .powerOn => true
  | .bootStepComplete => true
  | .powerOff => true
  | .issueThrottlingEntry => true
  | .issueThrottlingExit => true
  | .overtempPowerOff => true
  | .flitReceive => true
  | .stopFlagClear => true
  | .ackReceive => true
  | .nakReceive => true
  | .ackTimeout => true
  | .alternateResend => true
  | .portUp => true
  | .putUpdateReceive => true
  | .getRequestServe => true
  | .getRowWrite => true
  | .putAckReceive => true
  | .negativeAckReceive => true
  | .spawnArrival => true
  | .spawnAnswerReceive => true
  | .collectiveMessageArrival => true
  | .collectiveReceiveStep => true
  | .poolWindowAccess => true
  | .memoryWindowWrite => true
  | .memoryWindowRead => true
  | .watchArm => true
  | .registerWrite => true
  | .quote => true
  | .idcert => true
  | .keyxch => true
  | .keyimport => true
  | .keygen => true
  | .keyerase => true
  | .liferead => true
  | .redfishRequest => true
  | .lifetimeRecordWrite => true
  | .dispatcherCycle => true
  | .heldInsertEntry => true
  | .recordArrivalAtManger => true
  | .mangerCancel => true
  | .counterOperation => true
  | .nodeReadyInsert => true
  | .deferredPhaseClose => true
  | .vacateGraceExpiry => true
  | .rectangleEmpty => true
  | .exactRestore => true
  | .teardownComplete => true
  | .windowHashCompare => true
  | .barrelIssue => true
  | .coprocessorDispatch => true
  | .coprocessorComplete => true
  | .copFaultDetect => true
  | .groupEnd => true
  | .mmtChunkComplete => true
  | .longContextGrant => true
  | .scaleSetArrival => true
  | .xmaxExchangeComplete => true
  | .mailboxArrival => true
  | .mailboxRetry => true
  | .copyBlockDelivery => true
  | .copyPendResume => true
  | .stallHighwaterMoveout => true
  | .stallAgeMoveout => true
  | .shedAgeMoveout => true
  | .shedFillMoveout => true
  | .shedMoveRetry => true
  | .yardEntry => true
  | .movedReroute => true
  | .yardFillApply => true
  | .yardSpill => true
  | .yardRefill => true
  | .yardFull => true
  | .yardFullClear => true
  | .releaseApply => true
  | .commitPrepare => true
  | .prepareAnswer => true
  | .commitFlip => true
  | .flipAcknowledge => true
  | .taskAbort => true
  | .abortNoticeArrival => true
  | .sosAcknowledge => true
  | .loadResultReturn => true
  | .fetchHomeStep => true
  | .mergeFaultRecordArrival => true
  | .pageFaultService => true
  | .migrationComplete => true
  | .fluePageVisit => true
  | .fluePassEnd => true
  | .sectorRead => true
  | .scrub => true
  | .paddockKill => true
  | .paddockKillReport => true
  | .barrierGenerationOpen => true
  | .postArrival => true
  | .barrierArrival => true
  | .xmaxContributionArrival => true
  | .drainRequestArrival => true

end Sys2Proof
end

