-- ==== Sys2Proof/Decode.lean ====
section
/-! DEFINITION. Decoding of instruction words (R217 to R229) and the encoder, from the same tables. -/

namespace Sys2Proof

/-- `n` bits of `w` from bit `lo` up. -/
def bitsOf (w lo n : Nat) : Nat := w / 2 ^ lo % 2 ^ n

/-- Number of bits of a length (R218). -/
def Len.bits : Len → Nat
  | .w64 => 64
  | .w96 => 96
  | .w128 => 128

/-- Number of bytes of a length. -/
def Len.bytes (l : Len) : Nat := l.bits / 8

/-- LEN code (R218). -/
def Len.code : Len → Nat
  | .w64 => 0
  | .w96 => 1
  | .w128 => 2

/-- The length that LEN bits name; 0b11 is ILLEGAL_LEN. -/
def lenOf : Nat → Option Len
  | 0 => some .w64
  | 1 => some .w96
  | 2 => some .w128
  | _ => none

/-- TY code (R223). -/
def Ty.code : Ty → Nat
  | .i8 => 0x00 | .i16 => 0x01 | .i32 => 0x02 | .i64 => 0x03
  | .n8 => 0x04 | .n16 => 0x05 | .n32 => 0x06 | .n64 => 0x07
  | .f64 => 0x08 | .f32 => 0x09 | .f16 => 0x0A | .bf16 => 0x0B
  | .e4m3 => 0x0C | .e5m2 => 0x0D | .tw8 => 0x0E
  | .b8 => 0x10 | .b16 => 0x11 | .b32 => 0x12 | .b64 => 0x13 | .b128 => 0x14

/-- The type of a TY code; 0x0F and 0x15 to 0x1F are reserved (R223). -/
def tyOf : Nat → Option Ty
  | 0x00 => some .i8 | 0x01 => some .i16 | 0x02 => some .i32 | 0x03 => some .i64
  | 0x04 => some .n8 | 0x05 => some .n16 | 0x06 => some .n32 | 0x07 => some .n64
  | 0x08 => some .f64 | 0x09 => some .f32 | 0x0A => some .f16 | 0x0B => some .bf16
  | 0x0C => some .e4m3 | 0x0D => some .e5m2 | 0x0E => some .tw8
  | 0x10 => some .b8 | 0x11 => some .b16 | 0x12 => some .b32 | 0x13 => some .b64 | 0x14 => some .b128
  | _ => none

/-- Operator code (R102). -/
def MOp.code : MOp → Nat
  | .rep => 0x00 | .add => 0x01 | .addsI => 0x02 | .addsN => 0x03 | .fadd => 0x04 | .faddx => 0x05
  | .minI => 0x06 | .minN => 0x07 | .maxI => 0x08 | .maxN => 0x09 | .fmin => 0x0A | .fmax => 0x0B
  | .amax => 0x0C | .or => 0x0D | .and => 0x0E | .xor => 0x0F | .rowx => 0x10 | .ins => 0x11

/-- The operator of a code; 0x12 to 0x1F are reserved (R102). -/
def opOf : Nat → Option MOp
  | 0x00 => some .rep | 0x01 => some .add | 0x02 => some .addsI | 0x03 => some .addsN | 0x04 => some .fadd
  | 0x05 => some .faddx | 0x06 => some .minI | 0x07 => some .minN | 0x08 => some .maxI | 0x09 => some .maxN
  | 0x0A => some .fmin | 0x0B => some .fmax | 0x0C => some .amax | 0x0D => some .or | 0x0E => some .and
  | 0x0F => some .xor | 0x10 => some .rowx | 0x11 => some .ins
  | _ => none

/-- RM code (R204). -/
def Rm.code : Rm → Nat
  | .rne => 0 | .rtz => 1 | .rdn => 2 | .rup => 3 | .rna => 4

/-- The rounding mode of an RM code; 5 to 7 are reserved (R204). -/
def rmOf : Nat → Option Rm
  | 0 => some .rne | 1 => some .rtz | 2 => some .rdn | 3 => some .rup | 4 => some .rna
  | _ => none

/-- SC code (R223). -/
def Scope.code : Scope → Nat
  | .thread => 1 | .core => 2 | .cluster => 3 | .die => 4 | .device => 5 | .system => 6

/-- The scope of an SC code; 0 and 7 are ILLEGAL_OP (R223). -/
def scOf : Nat → Option Scope
  | 1 => some .thread | 2 => some .core | 3 => some .cluster | 4 => some .die | 5 => some .device | 6 => some .system
  | _ => none

/-- Class code of `fence.x` (R228). -/
def Engine.code : Engine → Nat
  | .co => 0 | .cp => 1 | .mx => 2 | .gp => 3 | .cl => 4 | .fl => 5

/-- The class of a code; 6 and above are refused (R228, R268). -/
def engOf : Nat → Option Engine
  | 0 => some .co | 1 => some .cp | 2 => some .mx | 3 => some .gp | 4 => some .cl | 5 => some .fl
  | _ => none

/-- The source of `aread`: an FP40 tile (0) or an FP64 pair (.f64) (R312). -/
def pairOf : Nat → Option Bool
  | 0x00 => some false
  | 0x08 => some true
  | _ => none

/-- Thread-state code (R224). -/
def TReg.code : TReg → Nat
  | .tstat => 0 | .tcause => 1 | .tepc => 2 | .tval => 3 | .xbase => 4 | .xcount => 5 | .seq => 6
  | .cringh => 7 | .stallhw => 8 | .stallage => 9

/-- The thread state register of a code (R224). -/
def treg : Nat → Option TReg
  | 0 => some .tstat | 1 => some .tcause | 2 => some .tepc | 3 => some .tval | 4 => some .xbase
  | 5 => some .xcount | 6 => some .seq | 7 => some .cringh | 8 => some .stallhw | 9 => some .stallage
  | _ => none

/-- Encoding of a scalar field (R224). -/
def XReg.code : XReg → Nat
  | .dir n => n.toNat
  | .rel d => 64 + d.toNat

/-- A scalar field: 0b0nn_nnnn or 0b10d_dddd (R224). No scalar field accepts a stream (R319). -/
def xreg (v : Nat) : Option XReg :=
  if v < 64 then some (.dir (BitVec.ofNat 6 v)) else if v < 96 then some (.rel (BitVec.ofNat 5 (v - 64))) else none

/-- Encoding of a vector field (R224). -/
def VReg.code : VReg → Nat
  | .v n => n.toNat
  | .w n => 32 + n.toNat
  | .s n => 96 + n.toNat

/-- A vector field: 0b00n_nnnn, 0b010_nnnn or 0b110_0sss (R224). -/
def vreg (v : Nat) : Option VReg :=
  if v < 32 then some (.v (BitVec.ofNat 5 v)) else if v < 48 then some (.w (BitVec.ofNat 4 (v - 32)))
  else if 96 ≤ v ∧ v < 104 then some (.s (BitVec.ofNat 3 (v - 96))) else none

/-- A stream field: 0b110_0sss (R224). -/
def sreg (v : Nat) : Option SReg := if 96 ≤ v ∧ v < 104 then some (BitVec.ofNat 3 (v - 96)) else none

/-- A field of eight names: accumulator or predicate (R224). -/
def r3 (v : Nat) : Option (BitVec 3) := if v < 8 then some (BitVec.ofNat 3 v) else none

/-- A field of four names: polynomial, monitor or copy channel (R224). -/
def r2 (v : Nat) : Option (BitVec 2) := if v < 4 then some (BitVec.ofNat 2 v) else none

/-- Data of a load or store: vector class for .b128, scalar otherwise (R250). -/
def dreg (ty : Ty) (v : Nat) : Option DReg :=
  if ty = .b128 then (vreg v).map .v else (xreg v).map .x

/-- Encoding of a data field. -/
def DReg.code : DReg → Nat
  | .x r => r.code
  | .v r => r.code

/-- The scalar operand of a data field. -/
def DReg.xregs : DReg → List XReg
  | .x r => [r]
  | .v _ => []

/-- The vector operand of a data field. -/
def DReg.vregs : DReg → List VReg
  | .x _ => []
  | .v r => [r]

/-- The six formats (R220). -/
inductive Fmt where
  | q | i | l | g | x | p
  deriving DecidableEq, Repr

/-- The four modifier layouts (R222). -/
inductive Lay where
  | mem | arith | sync | none
  deriving DecidableEq, Repr

/-- Class of a register field, as the repeat prefix steps it (R224, R226): `ap` accumulator or predicate, `hh`
polynomial, `mc` monitor or channel, `d` scalar or vector by the type. -/
inductive Cls where
  | x | v | s | ap | hh | mc | t | d | unused
  deriving DecidableEq, Repr

/-- One cell of the opcode map (R228). -/
structure Cell where
  fmt : Fmt
  lay : Lay
  cls : List Cls
  deriving DecidableEq, Repr

/-- The fields of an instruction word, as numbers (R218, R220, R222). `imm` holds the bits of the immediate field
with the EXT bits above it; IMM of format X; unused fields are 0. -/
structure Fields where
  len : Len
  sw : Bool
  opc : Nat
  fn : Nat
  a : Nat
  b : Nat
  c : Nat
  d : Nat
  e : Nat
  f : Nat
  ty : Nat
  rm : Nat
  ty2 : Nat
  op : Nat
  t : Bool
  sc : Nat
  idx : Nat
  imm : Nat
  count : Nat
  mask : Nat
  deriving DecidableEq, Repr

/-- The fields of a word that names nothing beyond its header. -/
def Fields.empty (h : Hdr) (opc fn : Nat) : Fields where
  len := h.len
  sw := h.sw
  opc := opc
  fn := fn
  a := 0
  b := 0
  c := 0
  d := 0
  e := 0
  f := 0
  ty := 0
  rm := 0
  ty2 := 0
  op := 0
  t := false
  sc := 0
  idx := 0
  imm := 0
  count := 0
  mask := 0

/-- The header fields of a word (R218). -/
def header (len : Len) (w : Nat) : Fields :=
  Fields.empty ⟨len, bitsOf w 2 1 == 1⟩ (bitsOf w 3 8) (bitsOf w 11 5)

/-- Reads a modifier field `m` in a layout; `long` is MOD20, otherwise MOD11. A nonzero reserved bit refuses (R222). -/
def readMod (long : Bool) (lay : Lay) (m : Nat) (f : Fields) : Option Fields :=
  match lay with
  | .mem => if m < 2 ^ 11 then some { f with ty := m % 32, op := m / 32 % 32, t := m / 1024 % 2 == 1 } else none
  | .arith =>
    if long then
      if m < 2 ^ 13 then some { f with ty := m % 32, rm := m / 32 % 8, ty2 := m / 256 } else none
    else if m < 2 ^ 8 then some { f with ty := m % 32, rm := m / 32 } else none
  | .sync => if m < 8 then some { f with sc := m } else none
  | .none => if m = 0 then some f else none

/-- Writes a modifier field in a layout (R222). -/
def writeMod (long : Bool) (lay : Lay) (f : Fields) : Nat :=
  match lay with
  | .mem => f.ty + 32 * f.op + 1024 * f.t.toNat
  | .arith => if long then f.ty + 32 * f.rm + 256 * f.ty2 else f.ty + 32 * f.rm
  | .sync => f.sc
  | .none => 0

/-- Reads the fields of a word of a format and a layout; reserved bits and an EXT that must be zero refuse (R220).
`w` holds the word's bits and nothing above them. -/
def unpack (fmt : Fmt) (lay : Lay) (len : Len) (w : Nat) : Option Fields :=
  let h := header len w
  let r := { h with a := bitsOf w 16 7, b := bitsOf w 23 7, c := bitsOf w 30 7, d := bitsOf w 37 7 }
  match fmt with
  | .q => if w < 2 ^ 64 then readMod true lay (bitsOf w 44 20) r else none
  | .x =>
    if len = .w64 then none
    else if w < 2 ^ 96 then
      readMod true lay (bitsOf w 44 20) { r with e := bitsOf w 64 7, f := bitsOf w 71 7, imm := bitsOf w 78 18 }
    else none
  | .i => readMod false lay (bitsOf w 30 11) { h with a := r.a, b := r.b, imm := w / 2 ^ 41 }
  | .l => some { h with a := r.a, imm := w / 2 ^ 23 }
  | .g =>
    if w < 2 ^ 54 then readMod false lay (bitsOf w 37 11) { h with a := r.a, b := r.b, c := r.c, idx := w / 2 ^ 48 }
    else none
  | .p => if w < 2 ^ 26 then some { h with count := bitsOf w 16 6, mask := bitsOf w 22 4 } else none

/-- The word of a set of fields in a format and a layout (R220). -/
def pack (fmt : Fmt) (lay : Lay) (f : Fields) : Nat :=
  let h := f.len.code + 4 * f.sw.toNat + 8 * f.opc + 2 ^ 11 * f.fn
  match fmt with
  | .q => h + 2 ^ 16 * f.a + 2 ^ 23 * f.b + 2 ^ 30 * f.c + 2 ^ 37 * f.d + 2 ^ 44 * writeMod true lay f
  | .x =>
    h + 2 ^ 16 * f.a + 2 ^ 23 * f.b + 2 ^ 30 * f.c + 2 ^ 37 * f.d + 2 ^ 44 * writeMod true lay f
      + 2 ^ 64 * f.e + 2 ^ 71 * f.f + 2 ^ 78 * f.imm
  | .i => h + 2 ^ 16 * f.a + 2 ^ 23 * f.b + 2 ^ 30 * writeMod false lay f + 2 ^ 41 * f.imm
  | .l => h + 2 ^ 16 * f.a + 2 ^ 23 * f.imm
  | .g => h + 2 ^ 16 * f.a + 2 ^ 23 * f.b + 2 ^ 30 * f.c + 2 ^ 37 * writeMod false lay f + 2 ^ 48 * f.idx
  | .p => h + 2 ^ 16 * f.count + 2 ^ 22 * f.mask

/-- The immediate of format I (R221): IMM sign-extended, or EXT and IMM wrapped to 64 bits. -/
def immI (len : Len) (v : Nat) : Word :=
  match len with
  | .w64 => (BitVec.ofNat 23 v).signExtend 64
  | .w96 => (BitVec.ofNat 55 v).signExtend 64
  | .w128 => BitVec.ofNat 64 v

/-- The immediate of format L (R221). -/
def immL (len : Len) (v : Nat) : Word :=
  match len with
  | .w64 => (BitVec.ofNat 41 v).signExtend 64
  | _ => BitVec.ofNat 64 v

/-- The bits of a format I immediate with its EXT, sign copies above bit 63. -/
def rawI (len : Len) (v : Word) : Nat :=
  match len with
  | .w64 => (v.truncate 23).toNat
  | .w96 => (v.truncate 55).toNat
  | .w128 => (v.signExtend 87).toNat

/-- The bits of a format L immediate with its EXT. -/
def rawL (len : Len) (v : Word) : Nat :=
  match len with
  | .w64 => (v.truncate 41).toNat
  | .w96 => (v.signExtend 73).toNat
  | .w128 => (v.signExtend 105).toNat

/-- The format, the modifier layout and the field classes of each cell of the opcode map (R228). -/
def cellOf (opc fn : Nat) : Option Cell :=
  match opc with
  | 0x01 => match fn with
    | 0 => some ⟨.q, .none, [.unused, .unused, .unused, .unused]⟩
    | _ => none
  | 0x02 => match fn with
    | 0 => some ⟨.q, .arith, [.x, .x, .x, .unused]⟩
    | 1 => some ⟨.q, .arith, [.x, .x, .x, .unused]⟩
    | 2 => some ⟨.q, .arith, [.x, .x, .x, .unused]⟩
    | 3 => some ⟨.q, .arith, [.x, .x, .x, .unused]⟩
    | 4 => some ⟨.q, .arith, [.x, .x, .x, .unused]⟩
    | 5 => some ⟨.q, .arith, [.x, .x, .x, .unused]⟩
    | 6 => some ⟨.q, .arith, [.x, .x, .x, .unused]⟩
    | 7 => some ⟨.q, .arith, [.x, .x, .x, .unused]⟩
    | 8 => some ⟨.q, .arith, [.x, .x, .unused, .unused]⟩
    | _ => none
  | 0x03 => match fn with
    | 0 => some ⟨.i, .arith, [.x, .x, .unused, .unused]⟩
    | 1 => some ⟨.i, .arith, [.x, .x, .unused, .unused]⟩
    | 2 => some ⟨.i, .arith, [.x, .x, .unused, .unused]⟩
    | 6 => some ⟨.i, .arith, [.x, .x, .unused, .unused]⟩
    | 7 => some ⟨.i, .arith, [.x, .x, .unused, .unused]⟩
    | _ => none
  | 0x04 => match fn with
    | 0 => some ⟨.q, .arith, [.x, .x, .x, .unused]⟩
    | 1 => some ⟨.q, .arith, [.x, .x, .x, .unused]⟩
    | 2 => some ⟨.q, .arith, [.x, .x, .x, .unused]⟩
    | 3 => some ⟨.q, .arith, [.x, .x, .x, .unused]⟩
    | 4 => some ⟨.q, .arith, [.x, .x, .x, .unused]⟩
    | 5 => some ⟨.q, .arith, [.x, .x, .x, .unused]⟩
    | _ => none
  | 0x05 => match fn with
    | 0 => some ⟨.i, .arith, [.x, .x, .unused, .unused]⟩
    | 1 => some ⟨.i, .arith, [.x, .x, .unused, .unused]⟩
    | 2 => some ⟨.i, .arith, [.x, .x, .unused, .unused]⟩
    | _ => none
  | 0x06 => match fn with
    | 0 => some ⟨.q, .arith, [.x, .x, .x, .unused]⟩
    | 1 => some ⟨.q, .arith, [.x, .x, .x, .unused]⟩
    | 2 => some ⟨.q, .arith, [.x, .x, .x, .unused]⟩
    | 3 => some ⟨.q, .arith, [.x, .x, .x, .unused]⟩
    | 4 => some ⟨.q, .arith, [.x, .x, .x, .unused]⟩
    | _ => none
  | 0x07 => match fn with
    | 0 => some ⟨.i, .arith, [.x, .x, .unused, .unused]⟩
    | 1 => some ⟨.i, .arith, [.x, .x, .unused, .unused]⟩
    | 2 => some ⟨.i, .arith, [.x, .x, .unused, .unused]⟩
    | 3 => some ⟨.i, .arith, [.x, .x, .unused, .unused]⟩
    | 4 => some ⟨.i, .arith, [.x, .x, .unused, .unused]⟩
    | _ => none
  | 0x08 => match fn with
    | 0 => some ⟨.q, .arith, [.x, .x, .x, .x]⟩
    | 1 => some ⟨.q, .arith, [.x, .x, .x, .x]⟩
    | 2 => some ⟨.q, .arith, [.x, .x, .x, .x]⟩
    | 3 => some ⟨.q, .arith, [.x, .x, .unused, .unused]⟩
    | 4 => some ⟨.q, .arith, [.x, .x, .unused, .unused]⟩
    | 5 => some ⟨.q, .arith, [.x, .x, .unused, .unused]⟩
    | 6 => some ⟨.q, .arith, [.x, .x, .unused, .unused]⟩
    | _ => none
  | 0x09 => match fn with
    | 0 => some ⟨.g, .arith, [.x, .x, .x, .unused]⟩
    | _ => none
  | 0x0A => match fn with
    | 0 => some ⟨.q, .arith, [.ap, .x, .x, .unused]⟩
    | 1 => some ⟨.q, .arith, [.ap, .x, .x, .unused]⟩
    | 2 => some ⟨.q, .arith, [.ap, .x, .x, .unused]⟩
    | 3 => some ⟨.q, .arith, [.ap, .x, .x, .unused]⟩
    | 4 => some ⟨.q, .arith, [.ap, .x, .x, .unused]⟩
    | 5 => some ⟨.q, .arith, [.ap, .x, .x, .unused]⟩
    | _ => none
  | 0x0B => match fn with
    | 0 => some ⟨.i, .arith, [.ap, .x, .unused, .unused]⟩
    | 1 => some ⟨.i, .arith, [.ap, .x, .unused, .unused]⟩
    | 2 => some ⟨.i, .arith, [.ap, .x, .unused, .unused]⟩
    | 3 => some ⟨.i, .arith, [.ap, .x, .unused, .unused]⟩
    | 4 => some ⟨.i, .arith, [.ap, .x, .unused, .unused]⟩
    | 5 => some ⟨.i, .arith, [.ap, .x, .unused, .unused]⟩
    | _ => none
  | 0x0C => match fn with
    | 0 => some ⟨.q, .none, [.ap, .ap, .ap, .unused]⟩
    | 1 => some ⟨.q, .none, [.ap, .ap, .ap, .unused]⟩
    | 2 => some ⟨.q, .none, [.ap, .ap, .ap, .unused]⟩
    | 3 => some ⟨.q, .none, [.ap, .ap, .ap, .unused]⟩
    | 4 => some ⟨.q, .none, [.ap, .ap, .unused, .unused]⟩
    | _ => none
  | 0x0D => match fn with
    | 0 => some ⟨.q, .arith, [.x, .ap, .x, .x]⟩
    | _ => none
  | 0x0E => match fn with
    | 0 => some ⟨.q, .arith, [.x, .x, .unused, .unused]⟩
    | 1 => some ⟨.q, .arith, [.x, .ap, .unused, .unused]⟩
    | 2 => some ⟨.q, .arith, [.ap, .x, .unused, .unused]⟩
    | _ => none
  | 0x0F => match fn with
    | 0 => some ⟨.l, .none, [.x, .unused, .unused, .unused]⟩
    | _ => none
  | 0x10 => match fn with
    | 0 => some ⟨.q, .none, [.x, .x, .unused, .unused]⟩
    | _ => none
  | 0x18 => match fn with
    | 0 => some ⟨.l, .none, [.ap, .unused, .unused, .unused]⟩
    | 1 => some ⟨.l, .none, [.ap, .unused, .unused, .unused]⟩
    | _ => none
  | 0x19 => match fn with
    | 0 => some ⟨.q, .none, [.unused, .x, .unused, .unused]⟩
    | _ => none
  | 0x1A => match fn with
    | 0 => some ⟨.l, .none, [.x, .unused, .unused, .unused]⟩
    | _ => none
  | 0x1B => match fn with
    | 0 => some ⟨.q, .none, [.x, .x, .unused, .unused]⟩
    | 1 => some ⟨.q, .none, [.unused, .x, .unused, .unused]⟩
    | _ => none
  | 0x1C => match fn with
    | 0 => some ⟨.i, .none, [.x, .unused, .unused, .unused]⟩
    | _ => none
  | 0x1D => match fn with
    | 0 => some ⟨.p, .none, [.unused, .unused, .unused, .unused]⟩
    | _ => none
  | 0x1E => match fn with
    | 0 => some ⟨.i, .none, [.unused, .x, .unused, .unused]⟩
    | 1 => some ⟨.i, .none, [.unused, .x, .unused, .unused]⟩
    | 2 => some ⟨.i, .none, [.x, .unused, .unused, .unused]⟩
    | _ => none
  | 0x1F => match fn with
    | 0 => some ⟨.q, .none, [.x, .t, .unused, .unused]⟩
    | 1 => some ⟨.q, .none, [.t, .x, .unused, .unused]⟩
    | _ => none
  | 0x20 => match fn with
    | 0 => some ⟨.q, .none, [.x, .unused, .unused, .unused]⟩
    | _ => none
  | 0x21 => match fn with
    | 0 => some ⟨.l, .none, [.unused, .unused, .unused, .unused]⟩
    | _ => none
  | 0x22 => match fn with
    | 0 => some ⟨.l, .none, [.unused, .unused, .unused, .unused]⟩
    | _ => none
  | 0x40 => match fn with
    | 0 => some ⟨.i, .mem, [.d, .x, .unused, .unused]⟩
    | _ => none
  | 0x41 => match fn with
    | 0 => some ⟨.g, .mem, [.d, .x, .x, .unused]⟩
    | _ => none
  | 0x42 => match fn with
    | 0 => some ⟨.i, .mem, [.d, .x, .unused, .unused]⟩
    | _ => none
  | 0x43 => match fn with
    | 0 => some ⟨.i, .mem, [.d, .x, .unused, .unused]⟩
    | 1 => some ⟨.q, .mem, [.d, .x, .x, .unused]⟩
    | _ => none
  | 0x44 => match fn with
    | 0 => some ⟨.i, .mem, [.d, .x, .unused, .unused]⟩
    | _ => none
  | 0x45 => match fn with
    | 0 => some ⟨.g, .mem, [.d, .x, .x, .unused]⟩
    | _ => none
  | 0x46 => match fn with
    | 0 => some ⟨.i, .mem, [.d, .x, .unused, .unused]⟩
    | _ => none
  | 0x47 => match fn with
    | 0 => some ⟨.i, .mem, [.d, .x, .unused, .unused]⟩
    | 1 => some ⟨.q, .mem, [.d, .x, .x, .unused]⟩
    | _ => none
  | 0x48 => match fn with
    | 0 => some ⟨.q, .mem, [.x, .x, .x, .unused]⟩
    | _ => none
  | 0x49 => match fn with
    | 0 => some ⟨.g, .mem, [.v, .x, .v, .unused]⟩
    | _ => none
  | 0x4A => match fn with
    | 0 => some ⟨.g, .mem, [.v, .x, .v, .unused]⟩
    | _ => none
  | 0x4B => match fn with
    | 0 => some ⟨.q, .arith, [.v, .x, .x, .unused]⟩
    | _ => none
  | 0x4C => match fn with
    | 0 => some ⟨.q, .arith, [.v, .v, .x, .unused]⟩
    | _ => none
  | 0x4D => match fn with
    | 0 => some ⟨.i, .none, [.unused, .x, .unused, .unused]⟩
    | _ => none
  | 0x4E => match fn with
    | 0 => some ⟨.q, .sync, [.unused, .x, .x, .unused]⟩
    | 1 => some ⟨.q, .sync, [.unused, .x, .x, .unused]⟩
    | _ => none
  | 0x50 => match fn with
    | 0 => some ⟨.q, .none, [.unused, .unused, .unused, .unused]⟩
    | _ => none
  | 0x51 => match fn with
    | 0 => some ⟨.q, .sync, [.unused, .unused, .unused, .unused]⟩
    | 1 => some ⟨.q, .sync, [.unused, .unused, .unused, .unused]⟩
    | 2 => some ⟨.q, .sync, [.unused, .unused, .unused, .unused]⟩
    | 3 => some ⟨.q, .sync, [.unused, .unused, .unused, .unused]⟩
    | 4 => some ⟨.i, .none, [.unused, .unused, .unused, .unused]⟩
    | _ => none
  | 0x52 => match fn with
    | 0 => some ⟨.i, .sync, [.unused, .x, .unused, .unused]⟩
    | _ => none
  | 0x53 => match fn with
    | 0 => some ⟨.q, .none, [.unused, .x, .x, .unused]⟩
    | 1 => some ⟨.q, .none, [.x, .x, .unused, .unused]⟩
    | _ => none
  | 0x70 => match fn with
    | 0 => some ⟨.q, .none, [.unused, .unused, .unused, .unused]⟩
    | 1 => some ⟨.q, .none, [.unused, .unused, .unused, .unused]⟩
    | _ => none
  | 0x71 => match fn with
    | 0 => some ⟨.q, .arith, [.v, .v, .v, .unused]⟩
    | 1 => some ⟨.q, .arith, [.v, .v, .v, .unused]⟩
    | 2 => some ⟨.q, .arith, [.v, .v, .v, .unused]⟩
    | 3 => some ⟨.q, .arith, [.v, .v, .v, .unused]⟩
    | 4 => some ⟨.q, .arith, [.v, .v, .v, .unused]⟩
    | 5 => some ⟨.q, .arith, [.v, .v, .v, .unused]⟩
    | 6 => some ⟨.q, .arith, [.v, .v, .unused, .unused]⟩
    | 7 => some ⟨.q, .arith, [.v, .v, .unused, .unused]⟩
    | 8 => some ⟨.q, .arith, [.v, .v, .unused, .unused]⟩
    | _ => none
  | 0x72 => match fn with
    | 0 => some ⟨.q, .arith, [.v, .v, .v, .v]⟩
    | 1 => some ⟨.q, .arith, [.v, .v, .v, .v]⟩
    | 2 => some ⟨.q, .arith, [.v, .v, .v, .v]⟩
    | _ => none
  | 0x73 => match fn with
    | 0 => some ⟨.q, .arith, [.v, .v, .v, .unused]⟩
    | 1 => some ⟨.q, .arith, [.v, .v, .v, .unused]⟩
    | 2 => some ⟨.q, .arith, [.v, .v, .v, .unused]⟩
    | 3 => some ⟨.q, .arith, [.v, .v, .v, .unused]⟩
    | 4 => some ⟨.q, .arith, [.v, .v, .v, .unused]⟩
    | 5 => some ⟨.q, .arith, [.v, .v, .unused, .unused]⟩
    | 6 => some ⟨.q, .arith, [.v, .v, .v, .unused]⟩
    | 7 => some ⟨.q, .arith, [.v, .v, .v, .unused]⟩
    | 8 => some ⟨.q, .arith, [.v, .v, .v, .unused]⟩
    | 9 => some ⟨.q, .arith, [.v, .v, .v, .unused]⟩
    | 10 => some ⟨.q, .arith, [.v, .v, .v, .unused]⟩
    | 11 => some ⟨.q, .arith, [.v, .v, .v, .unused]⟩
    | 12 => some ⟨.q, .arith, [.v, .v, .v, .unused]⟩
    | 13 => some ⟨.q, .arith, [.v, .v, .v, .unused]⟩
    | _ => none
  | 0x74 => match fn with
    | 0 => some ⟨.q, .arith, [.v, .v, .unused, .unused]⟩
    | 1 => some ⟨.q, .arith, [.v, .v, .unused, .unused]⟩
    | 2 => some ⟨.q, .arith, [.v, .v, .unused, .unused]⟩
    | 3 => some ⟨.q, .arith, [.v, .v, .unused, .unused]⟩
    | 4 => some ⟨.q, .arith, [.v, .v, .unused, .unused]⟩
    | 5 => some ⟨.q, .arith, [.v, .v, .unused, .unused]⟩
    | _ => none
  | 0x75 => match fn with
    | 0 => some ⟨.q, .arith, [.v, .v, .v, .unused]⟩
    | 1 => some ⟨.q, .arith, [.v, .v, .v, .unused]⟩
    | 2 => some ⟨.q, .arith, [.v, .v, .v, .unused]⟩
    | 3 => some ⟨.q, .arith, [.v, .v, .v, .unused]⟩
    | 4 => some ⟨.q, .arith, [.v, .v, .v, .unused]⟩
    | 5 => some ⟨.q, .arith, [.v, .v, .v, .unused]⟩
    | _ => none
  | 0x76 => match fn with
    | 0 => some ⟨.q, .arith, [.v, .v, .v, .v]⟩
    | _ => none
  | 0x77 => match fn with
    | 0 => some ⟨.q, .arith, [.v, .v, .v, .unused]⟩
    | 1 => some ⟨.q, .arith, [.v, .v, .v, .v]⟩
    | 2 => some ⟨.q, .arith, [.v, .x, .unused, .unused]⟩
    | 3 => some ⟨.q, .arith, [.v, .v, .x, .unused]⟩
    | _ => none
  | 0x78 => match fn with
    | 0 => some ⟨.q, .arith, [.x, .v, .unused, .unused]⟩
    | 1 => some ⟨.q, .arith, [.x, .v, .unused, .unused]⟩
    | 2 => some ⟨.q, .arith, [.x, .v, .unused, .unused]⟩
    | _ => none
  | 0x79 => match fn with
    | 0 => some ⟨.q, .arith, [.v, .v, .x, .unused]⟩
    | 1 => some ⟨.q, .arith, [.v, .v, .x, .x]⟩
    | _ => none
  | 0x7A => match fn with
    | 0 => some ⟨.q, .arith, [.v, .v, .x, .x]⟩
    | _ => none
  | 0x7B => match fn with
    | 0 => some ⟨.q, .arith, [.x, .v, .unused, .unused]⟩
    | _ => none
  | 0x7C => match fn with
    | 0 => some ⟨.q, .arith, [.unused, .v, .x, .x]⟩
    | _ => none
  | 0x7D => match fn with
    | 0 => some ⟨.q, .arith, [.v, .v, .x, .unused]⟩
    | 1 => some ⟨.q, .arith, [.x, .v, .v, .x]⟩
    | _ => none
  | 0x7E => match fn with
    | 0 => some ⟨.q, .arith, [.v, .v, .unused, .unused]⟩
    | 1 => some ⟨.q, .arith, [.v, .x, .x, .unused]⟩
    | 2 => some ⟨.q, .arith, [.x, .v, .x, .unused]⟩
    | _ => none
  | 0xA0 => match fn with
    | 0 => some ⟨.q, .arith, [.ap, .x, .x, .x]⟩
    | _ => none
  | 0xA1 => match fn with
    | 0 => some ⟨.x, .arith, [.ap, .x, .x, .x]⟩
    | _ => none
  | 0xA2 => match fn with
    | 0 => some ⟨.x, .arith, [.ap, .x, .x, .x]⟩
    | _ => none
  | 0xA3 => match fn with
    | 0 => some ⟨.q, .arith, [.ap, .unused, .unused, .unused]⟩
    | 1 => some ⟨.q, .arith, [.x, .ap, .unused, .unused]⟩
    | 2 => some ⟨.q, .arith, [.ap, .x, .unused, .unused]⟩
    | 3 => some ⟨.q, .arith, [.ap, .ap, .ap, .unused]⟩
    | 4 => some ⟨.q, .arith, [.v, .ap, .x, .x]⟩
    | _ => none
  | 0xA4 => match fn with
    | 0 => some ⟨.q, .none, [.unused, .x, .x, .unused]⟩
    | 1 => some ⟨.q, .none, [.x, .unused, .unused, .unused]⟩
    | _ => none
  | 0xA5 => match fn with
    | 0 => some ⟨.q, .arith, [.x, .x, .x, .x]⟩
    | _ => none
  | 0xA6 => match fn with
    | 0 => some ⟨.x, .arith, [.ap, .x, .x, .x]⟩
    | _ => none
  | 0xA7 => match fn with
    | 0 => some ⟨.q, .none, [.unused, .x, .x, .unused]⟩
    | 1 => some ⟨.q, .none, [.unused, .x, .x, .unused]⟩
    | _ => none
  | 0xC0 => match fn with
    | 0 => some ⟨.q, .arith, [.s, .x, .unused, .unused]⟩
    | 1 => some ⟨.q, .arith, [.s, .x, .unused, .unused]⟩
    | 2 => some ⟨.q, .arith, [.ap, .s, .unused, .unused]⟩
    | 3 => some ⟨.q, .arith, [.s, .unused, .unused, .unused]⟩
    | 4 => some ⟨.q, .arith, [.s, .x, .unused, .unused]⟩
    | _ => none
  | 0xC1 => match fn with
    | 0 => some ⟨.x, .mem, [.mc, .x, .x, .x]⟩
    | 1 => some ⟨.x, .mem, [.mc, .x, .x, .x]⟩
    | 2 => some ⟨.x, .mem, [.mc, .x, .x, .x]⟩
    | 3 => some ⟨.x, .mem, [.mc, .unused, .x, .x]⟩
    | _ => none
  | 0xC2 => match fn with
    | 0 => some ⟨.q, .none, [.x, .mc, .unused, .unused]⟩
    | 1 => some ⟨.q, .none, [.x, .mc, .unused, .unused]⟩
    | 2 => some ⟨.q, .none, [.unused, .mc, .x, .unused]⟩
    | _ => none
  | 0xC3 => match fn with
    | 0 => some ⟨.x, .mem, [.x, .x, .x, .x]⟩
    | 1 => some ⟨.x, .mem, [.x, .x, .x, .x]⟩
    | _ => none
  | 0xC4 => match fn with
    | 0 => some ⟨.x, .mem, [.x, .x, .x, .x]⟩
    | _ => none
  | 0xD0 => match fn with
    | 0 => some ⟨.q, .none, [.unused, .unused, .unused, .unused]⟩
    | 1 => some ⟨.q, .none, [.unused, .unused, .unused, .unused]⟩
    | 2 => some ⟨.q, .none, [.unused, .unused, .unused, .unused]⟩
    | 3 => some ⟨.q, .none, [.unused, .unused, .unused, .unused]⟩
    | _ => none
  | 0xD1 => match fn with
    | 0 => some ⟨.x, .none, [.x, .x, .x, .unused]⟩
    | 1 => some ⟨.x, .none, [.x, .x, .x, .unused]⟩
    | _ => none
  | 0xD2 => match fn with
    | 0 => some ⟨.q, .none, [.unused, .x, .unused, .unused]⟩
    | 1 => some ⟨.q, .none, [.unused, .x, .x, .x]⟩
    | 2 => some ⟨.q, .none, [.unused, .x, .unused, .unused]⟩
    | 3 => some ⟨.q, .none, [.x, .x, .x, .unused]⟩
    | _ => none
  | 0xD3 => match fn with
    | 0 => some ⟨.q, .none, [.unused, .x, .x, .x]⟩
    | 1 => some ⟨.q, .none, [.x, .x, .x, .unused]⟩
    | _ => none
  | 0xD4 => match fn with
    | 0 => some ⟨.q, .none, [.unused, .unused, .unused, .unused]⟩
    | 1 => some ⟨.q, .none, [.x, .x, .unused, .unused]⟩
    | _ => none
  | 0xD5 => match fn with
    | 0 => some ⟨.q, .none, [.mc, .x, .unused, .unused]⟩
    | 1 => some ⟨.q, .none, [.mc, .x, .x, .unused]⟩
    | 2 => some ⟨.q, .none, [.mc, .unused, .unused, .unused]⟩
    | 3 => some ⟨.q, .none, [.x, .mc, .x, .unused]⟩
    | _ => none
  | 0xD6 => match fn with
    | 0 => some ⟨.q, .arith, [.hh, .x, .x, .unused]⟩
    | 1 => some ⟨.q, .arith, [.hh, .x, .x, .unused]⟩
    | 2 => some ⟨.q, .arith, [.hh, .x, .x, .unused]⟩
    | 3 => some ⟨.q, .arith, [.hh, .hh, .hh, .unused]⟩
    | 4 => some ⟨.q, .arith, [.hh, .x, .unused, .unused]⟩
    | 5 => some ⟨.q, .arith, [.x, .hh, .x, .unused]⟩
    | 6 => some ⟨.q, .arith, [.hh, .x, .x, .unused]⟩
    | 7 => some ⟨.q, .arith, [.hh, .x, .unused, .unused]⟩
    | _ => none
  | 0xE0 => match fn with
    | 0 => some ⟨.q, .none, [.unused, .x, .x, .x]⟩
    | 1 => some ⟨.q, .none, [.unused, .x, .x, .unused]⟩
    | 2 => some ⟨.q, .none, [.unused, .x, .x, .unused]⟩
    | 3 => some ⟨.q, .none, [.unused, .x, .x, .unused]⟩
    | 4 => some ⟨.q, .none, [.unused, .x, .unused, .unused]⟩
    | 5 => some ⟨.q, .none, [.unused, .x, .x, .unused]⟩
    | 6 => some ⟨.q, .none, [.unused, .x, .x, .unused]⟩
    | 7 => some ⟨.q, .none, [.unused, .x, .x, .unused]⟩
    | 8 => some ⟨.q, .none, [.unused, .x, .x, .unused]⟩
    | 9 => some ⟨.q, .none, [.unused, .x, .x, .unused]⟩
    | 10 => some ⟨.q, .none, [.unused, .x, .x, .unused]⟩
    | 11 => some ⟨.q, .none, [.unused, .x, .x, .unused]⟩
    | 12 => some ⟨.q, .none, [.unused, .x, .x, .x]⟩
    | 13 => some ⟨.q, .none, [.unused, .x, .x, .x]⟩
    | 14 => some ⟨.q, .none, [.unused, .x, .x, .x]⟩
    | 15 => some ⟨.q, .none, [.unused, .x, .x, .unused]⟩
    | 16 => some ⟨.q, .none, [.unused, .unused, .x, .unused]⟩
    | 17 => some ⟨.q, .none, [.unused, .unused, .x, .x]⟩
    | 18 => some ⟨.q, .none, [.unused, .x, .unused, .unused]⟩
    | 19 => some ⟨.q, .none, [.unused, .x, .x, .unused]⟩
    | 20 => some ⟨.q, .none, [.unused, .x, .unused, .unused]⟩
    | 21 => some ⟨.q, .none, [.unused, .x, .unused, .unused]⟩
    | 22 => some ⟨.q, .none, [.unused, .x, .x, .x]⟩
    | 23 => some ⟨.q, .none, [.unused, .x, .x, .unused]⟩
    | 24 => some ⟨.q, .none, [.unused, .x, .x, .x]⟩
    | 25 => some ⟨.q, .none, [.unused, .x, .x, .x]⟩
    | _ => none
  | _ => none

/-- The instructions of OPC 0x01 from their fields. -/
def build01 (k : Fields) : Option Instr :=
    match k.fn with
    | 0 => if k.a == 0 && k.b == 0 && k.c == 0 && k.d == 0 then some (.nop) else none
    | _ => none

/-- The instructions of OPC 0x02 from their fields. -/
def build02 (k : Fields) : Option Instr :=
    match k.fn with
    | 0 => do
        let ty ← tyOf k.ty
        let a ← xreg k.a
        let b ← xreg k.b
        let c ← xreg k.c
        if k.rm == 0 && k.ty2 == 0 && k.d == 0 then some (.add ty a b c) else none
    | 1 => do
        let ty ← tyOf k.ty
        let a ← xreg k.a
        let b ← xreg k.b
        let c ← xreg k.c
        if k.rm == 0 && k.ty2 == 0 && k.d == 0 then some (.sub ty a b c) else none
    | 2 => do
        let ty ← tyOf k.ty
        let a ← xreg k.a
        let b ← xreg k.b
        let c ← xreg k.c
        if k.rm == 0 && k.ty2 == 0 && k.d == 0 then some (.mul ty a b c) else none
    | 3 => do
        let ty ← tyOf k.ty
        let a ← xreg k.a
        let b ← xreg k.b
        let c ← xreg k.c
        if k.rm == 0 && k.ty2 == 0 && k.d == 0 then some (.mulh ty a b c) else none
    | 4 => do
        let ty ← tyOf k.ty
        let a ← xreg k.a
        let b ← xreg k.b
        let c ← xreg k.c
        if k.rm == 0 && k.ty2 == 0 && k.d == 0 then some (.div ty a b c) else none
    | 5 => do
        let ty ← tyOf k.ty
        let a ← xreg k.a
        let b ← xreg k.b
        let c ← xreg k.c
        if k.rm == 0 && k.ty2 == 0 && k.d == 0 then some (.rem ty a b c) else none
    | 6 => do
        let ty ← tyOf k.ty
        let a ← xreg k.a
        let b ← xreg k.b
        let c ← xreg k.c
        if k.rm == 0 && k.ty2 == 0 && k.d == 0 then some (.min ty a b c) else none
    | 7 => do
        let ty ← tyOf k.ty
        let a ← xreg k.a
        let b ← xreg k.b
        let c ← xreg k.c
        if k.rm == 0 && k.ty2 == 0 && k.d == 0 then some (.max ty a b c) else none
    | 8 => do
        let ty ← tyOf k.ty
        let a ← xreg k.a
        let b ← xreg k.b
        if k.rm == 0 && k.ty2 == 0 && k.c == 0 && k.d == 0 then some (.abs ty a b) else none
    | _ => none

/-- The instructions of OPC 0x03 from their fields. -/
def build03 (k : Fields) : Option Instr :=
    match k.fn with
    | 0 => do
        let ty ← tyOf k.ty
        let a ← xreg k.a
        let b ← xreg k.b
        if k.rm == 0 then some (.addImm ty a b (immI k.len k.imm)) else none
    | 1 => do
        let ty ← tyOf k.ty
        let a ← xreg k.a
        let b ← xreg k.b
        if k.rm == 0 then some (.subImm ty a b (immI k.len k.imm)) else none
    | 2 => do
        let ty ← tyOf k.ty
        let a ← xreg k.a
        let b ← xreg k.b
        if k.rm == 0 then some (.mulImm ty a b (immI k.len k.imm)) else none
    | 6 => do
        let ty ← tyOf k.ty
        let a ← xreg k.a
        let b ← xreg k.b
        if k.rm == 0 then some (.minImm ty a b (immI k.len k.imm)) else none
    | 7 => do
        let ty ← tyOf k.ty
        let a ← xreg k.a
        let b ← xreg k.b
        if k.rm == 0 then some (.maxImm ty a b (immI k.len k.imm)) else none
    | _ => none

/-- The instructions of OPC 0x04 from their fields. -/
def build04 (k : Fields) : Option Instr :=
    match k.fn with
    | 0 => do
        let ty ← tyOf k.ty
        let a ← xreg k.a
        let b ← xreg k.b
        let c ← xreg k.c
        if k.rm == 0 && k.ty2 == 0 && k.d == 0 then some (.and ty a b c) else none
    | 1 => do
        let ty ← tyOf k.ty
        let a ← xreg k.a
        let b ← xreg k.b
        let c ← xreg k.c
        if k.rm == 0 && k.ty2 == 0 && k.d == 0 then some (.or ty a b c) else none
    | 2 => do
        let ty ← tyOf k.ty
        let a ← xreg k.a
        let b ← xreg k.b
        let c ← xreg k.c
        if k.rm == 0 && k.ty2 == 0 && k.d == 0 then some (.xor ty a b c) else none
    | 3 => do
        let ty ← tyOf k.ty
        let a ← xreg k.a
        let b ← xreg k.b
        let c ← xreg k.c
        if k.rm == 0 && k.ty2 == 0 && k.d == 0 then some (.andn ty a b c) else none
    | 4 => do
        let ty ← tyOf k.ty
        let a ← xreg k.a
        let b ← xreg k.b
        let c ← xreg k.c
        if k.rm == 0 && k.ty2 == 0 && k.d == 0 then some (.orn ty a b c) else none
    | 5 => do
        let ty ← tyOf k.ty
        let a ← xreg k.a
        let b ← xreg k.b
        let c ← xreg k.c
        if k.rm == 0 && k.ty2 == 0 && k.d == 0 then some (.xnor ty a b c) else none
    | _ => none

/-- The instructions of OPC 0x05 from their fields. -/
def build05 (k : Fields) : Option Instr :=
    match k.fn with
    | 0 => do
        let ty ← tyOf k.ty
        let a ← xreg k.a
        let b ← xreg k.b
        if k.rm == 0 then some (.andImm ty a b (immI k.len k.imm)) else none
    | 1 => do
        let ty ← tyOf k.ty
        let a ← xreg k.a
        let b ← xreg k.b
        if k.rm == 0 then some (.orImm ty a b (immI k.len k.imm)) else none
    | 2 => do
        let ty ← tyOf k.ty
        let a ← xreg k.a
        let b ← xreg k.b
        if k.rm == 0 then some (.xorImm ty a b (immI k.len k.imm)) else none
    | _ => none

/-- The instructions of OPC 0x06 from their fields. -/
def build06 (k : Fields) : Option Instr :=
    match k.fn with
    | 0 => do
        let ty ← tyOf k.ty
        let a ← xreg k.a
        let b ← xreg k.b
        let c ← xreg k.c
        if k.rm == 0 && k.ty2 == 0 && k.d == 0 then some (.sll ty a b c) else none
    | 1 => do
        let ty ← tyOf k.ty
        let a ← xreg k.a
        let b ← xreg k.b
        let c ← xreg k.c
        if k.rm == 0 && k.ty2 == 0 && k.d == 0 then some (.srl ty a b c) else none
    | 2 => do
        let ty ← tyOf k.ty
        let a ← xreg k.a
        let b ← xreg k.b
        let c ← xreg k.c
        if k.rm == 0 && k.ty2 == 0 && k.d == 0 then some (.sra ty a b c) else none
    | 3 => do
        let ty ← tyOf k.ty
        let a ← xreg k.a
        let b ← xreg k.b
        let c ← xreg k.c
        if k.rm == 0 && k.ty2 == 0 && k.d == 0 then some (.rol ty a b c) else none
    | 4 => do
        let ty ← tyOf k.ty
        let a ← xreg k.a
        let b ← xreg k.b
        let c ← xreg k.c
        if k.rm == 0 && k.ty2 == 0 && k.d == 0 then some (.ror ty a b c) else none
    | _ => none

/-- The instructions of OPC 0x07 from their fields. -/
def build07 (k : Fields) : Option Instr :=
    match k.fn with
    | 0 => do
        let ty ← tyOf k.ty
        let a ← xreg k.a
        let b ← xreg k.b
        if k.rm == 0 then some (.sllImm ty a b (immI k.len k.imm)) else none
    | 1 => do
        let ty ← tyOf k.ty
        let a ← xreg k.a
        let b ← xreg k.b
        if k.rm == 0 then some (.srlImm ty a b (immI k.len k.imm)) else none
    | 2 => do
        let ty ← tyOf k.ty
        let a ← xreg k.a
        let b ← xreg k.b
        if k.rm == 0 then some (.sraImm ty a b (immI k.len k.imm)) else none
    | 3 => do
        let ty ← tyOf k.ty
        let a ← xreg k.a
        let b ← xreg k.b
        if k.rm == 0 then some (.rolImm ty a b (immI k.len k.imm)) else none
    | 4 => do
        let ty ← tyOf k.ty
        let a ← xreg k.a
        let b ← xreg k.b
        if k.rm == 0 then some (.rorImm ty a b (immI k.len k.imm)) else none
    | _ => none

/-- The instructions of OPC 0x08 from their fields. -/
def build08 (k : Fields) : Option Instr :=
    match k.fn with
    | 0 => do
        let ty ← tyOf k.ty
        let a ← xreg k.a
        let b ← xreg k.b
        let c ← xreg k.c
        let d ← xreg k.d
        if k.rm == 0 && k.ty2 == 0 then some (.bext ty a b c d) else none
    | 1 => do
        let ty ← tyOf k.ty
        let a ← xreg k.a
        let b ← xreg k.b
        let c ← xreg k.c
        let d ← xreg k.d
        if k.rm == 0 && k.ty2 == 0 then some (.bextz ty a b c d) else none
    | 2 => do
        let ty ← tyOf k.ty
        let a ← xreg k.a
        let b ← xreg k.b
        let c ← xreg k.c
        let d ← xreg k.d
        if k.rm == 0 && k.ty2 == 0 then some (.bins ty a b c d) else none
    | 3 => do
        let ty ← tyOf k.ty
        let a ← xreg k.a
        let b ← xreg k.b
        if k.rm == 0 && k.ty2 == 0 && k.c == 0 && k.d == 0 then some (.clz ty a b) else none
    | 4 => do
        let ty ← tyOf k.ty
        let a ← xreg k.a
        let b ← xreg k.b
        if k.rm == 0 && k.ty2 == 0 && k.c == 0 && k.d == 0 then some (.ctz ty a b) else none
    | 5 => do
        let ty ← tyOf k.ty
        let a ← xreg k.a
        let b ← xreg k.b
        if k.rm == 0 && k.ty2 == 0 && k.c == 0 && k.d == 0 then some (.popc ty a b) else none
    | 6 => do
        let ty ← tyOf k.ty
        let a ← xreg k.a
        let b ← xreg k.b
        if k.rm == 0 && k.ty2 == 0 && k.c == 0 && k.d == 0 then some (.bswap ty a b) else none
    | _ => none

/-- The instructions of OPC 0x09 from their fields. -/
def build09 (k : Fields) : Option Instr :=
    match k.fn with
    | 0 => do
        let a ← xreg k.a
        let b ← xreg k.b
        let c ← xreg k.c
        if k.ty == Ty.i64.code && k.rm == 0 && k.idx % 8 == 0 then some (.lea a b c (BitVec.ofNat 3 (k.idx / 8))) else none
    | _ => none

/-- The instructions of OPC 0x0A from their fields. -/
def build0A (k : Fields) : Option Instr :=
    match k.fn with
    | 0 => do
        let ty ← tyOf k.ty
        let a ← r3 k.a
        let b ← xreg k.b
        let c ← xreg k.c
        if k.rm == 0 && k.ty2 == 0 && k.d == 0 then some (.cmpEq ty a b c) else none
    | 1 => do
        let ty ← tyOf k.ty
        let a ← r3 k.a
        let b ← xreg k.b
        let c ← xreg k.c
        if k.rm == 0 && k.ty2 == 0 && k.d == 0 then some (.cmpNe ty a b c) else none
    | 2 => do
        let ty ← tyOf k.ty
        let a ← r3 k.a
        let b ← xreg k.b
        let c ← xreg k.c
        if k.rm == 0 && k.ty2 == 0 && k.d == 0 then some (.cmpLt ty a b c) else none
    | 3 => do
        let ty ← tyOf k.ty
        let a ← r3 k.a
        let b ← xreg k.b
        let c ← xreg k.c
        if k.rm == 0 && k.ty2 == 0 && k.d == 0 then some (.cmpLe ty a b c) else none
    | 4 => do
        let ty ← tyOf k.ty
        let a ← r3 k.a
        let b ← xreg k.b
        let c ← xreg k.c
        if k.rm == 0 && k.ty2 == 0 && k.d == 0 then some (.cmpGt ty a b c) else none
    | 5 => do
        let ty ← tyOf k.ty
        let a ← r3 k.a
        let b ← xreg k.b
        let c ← xreg k.c
        if k.rm == 0 && k.ty2 == 0 && k.d == 0 then some (.cmpGe ty a b c) else none
    | _ => none

/-- The instructions of OPC 0x0B from their fields. -/
def build0B (k : Fields) : Option Instr :=
    match k.fn with
    | 0 => do
        let ty ← tyOf k.ty
        let a ← r3 k.a
        let b ← xreg k.b
        if k.rm == 0 then some (.cmpEqImm ty a b (immI k.len k.imm)) else none
    | 1 => do
        let ty ← tyOf k.ty
        let a ← r3 k.a
        let b ← xreg k.b
        if k.rm == 0 then some (.cmpNeImm ty a b (immI k.len k.imm)) else none
    | 2 => do
        let ty ← tyOf k.ty
        let a ← r3 k.a
        let b ← xreg k.b
        if k.rm == 0 then some (.cmpLtImm ty a b (immI k.len k.imm)) else none
    | 3 => do
        let ty ← tyOf k.ty
        let a ← r3 k.a
        let b ← xreg k.b
        if k.rm == 0 then some (.cmpLeImm ty a b (immI k.len k.imm)) else none
    | 4 => do
        let ty ← tyOf k.ty
        let a ← r3 k.a
        let b ← xreg k.b
        if k.rm == 0 then some (.cmpGtImm ty a b (immI k.len k.imm)) else none
    | 5 => do
        let ty ← tyOf k.ty
        let a ← r3 k.a
        let b ← xreg k.b
        if k.rm == 0 then some (.cmpGeImm ty a b (immI k.len k.imm)) else none
    | _ => none

/-- The instructions of OPC 0x0C from their fields. -/
def build0C (k : Fields) : Option Instr :=
    match k.fn with
    | 0 => do
        let a ← r3 k.a
        let b ← r3 k.b
        let c ← r3 k.c
        if k.d == 0 then some (.pand a b c) else none
    | 1 => do
        let a ← r3 k.a
        let b ← r3 k.b
        let c ← r3 k.c
        if k.d == 0 then some (.por a b c) else none
    | 2 => do
        let a ← r3 k.a
        let b ← r3 k.b
        let c ← r3 k.c
        if k.d == 0 then some (.pxor a b c) else none
    | 3 => do
        let a ← r3 k.a
        let b ← r3 k.b
        let c ← r3 k.c
        if k.d == 0 then some (.pandn a b c) else none
    | 4 => do
        let a ← r3 k.a
        let b ← r3 k.b
        if k.c == 0 && k.d == 0 then some (.pnot a b) else none
    | _ => none

/-- The instructions of OPC 0x0D from their fields. -/
def build0D (k : Fields) : Option Instr :=
    match k.fn with
    | 0 => do
        let a ← xreg k.a
        let b ← r3 k.b
        let c ← xreg k.c
        let d ← xreg k.d
        if k.ty == Ty.b64.code && k.rm == 0 && k.ty2 == 0 then some (.sel a b c d) else none
    | _ => none

/-- The instructions of OPC 0x0E from their fields. -/
def build0E (k : Fields) : Option Instr :=
    match k.fn with
    | 0 => do
        let a ← xreg k.a
        let b ← xreg k.b
        if k.ty == Ty.b64.code && k.rm == 0 && k.ty2 == 0 && k.c == 0 && k.d == 0 then some (.movXX a b) else none
    | 1 => do
        let a ← xreg k.a
        let b ← r3 k.b
        if k.ty == Ty.b64.code && k.rm == 0 && k.ty2 == 0 && k.c == 0 && k.d == 0 then some (.movXP a b) else none
    | 2 => do
        let a ← r3 k.a
        let b ← xreg k.b
        if k.ty == Ty.b64.code && k.rm == 0 && k.ty2 == 0 && k.c == 0 && k.d == 0 then some (.movPX a b) else none
    | _ => none

/-- The instructions of OPC 0x0F from their fields. -/
def build0F (k : Fields) : Option Instr :=
    match k.fn with
    | 0 => do
        let a ← xreg k.a
        some (.li a (immL k.len k.imm))
    | _ => none

/-- The instructions of OPC 0x10 from their fields. -/
def build10 (k : Fields) : Option Instr :=
    match k.fn with
    | 0 => do
        let a ← xreg k.a
        let b ← xreg k.b
        if k.c == 0 && k.d == 0 then some (.khash a b) else none
    | _ => none

/-- The instructions of OPC 0x18 from their fields. -/
def build18 (k : Fields) : Option Instr :=
    match k.fn with
    | 0 => do
        let a ← r3 k.a
        some (.br a (immL k.len k.imm))
    | 1 => do
        let a ← r3 k.a
        some (.brn a (immL k.len k.imm))
    | _ => none

/-- The instructions of OPC 0x19 from their fields. -/
def build19 (k : Fields) : Option Instr :=
    match k.fn with
    | 0 => do
        let b ← xreg k.b
        if k.a == 0 && k.c == 0 && k.d == 0 then some (.jr b) else none
    | _ => none

/-- The instructions of OPC 0x1A from their fields. -/
def build1A (k : Fields) : Option Instr :=
    match k.fn with
    | 0 => do
        let a ← xreg k.a
        some (.call a (immL k.len k.imm))
    | _ => none

/-- The instructions of OPC 0x1B from their fields. -/
def build1B (k : Fields) : Option Instr :=
    match k.fn with
    | 0 => do
        let a ← xreg k.a
        let b ← xreg k.b
        if k.c == 0 && k.d == 0 then some (.callr a b) else none
    | 1 => do
        let b ← xreg k.b
        if k.a == 0 && k.c == 0 && k.d == 0 then some (.ret b) else none
    | _ => none

/-- The instructions of OPC 0x1C from their fields. -/
def build1C (k : Fields) : Option Instr :=
    match k.fn with
    | 0 => do
        let a ← xreg k.a
        if k.b == 0 then some (.loop a (immI k.len k.imm)) else none
    | _ => none

/-- The instructions of OPC 0x1D from their fields. -/
def build1D (k : Fields) : Option Instr :=
    match k.fn with
    | 0 => some (.rep (BitVec.ofNat 6 k.count) (BitVec.ofNat 4 k.mask))
    | _ => none

/-- The instructions of OPC 0x1E from their fields. -/
def build1E (k : Fields) : Option Instr :=
    match k.fn with
    | 0 => do
        let b ← xreg k.b
        if k.a == 0 then some (.ixset b (immI k.len k.imm)) else none
    | 1 => do
        let b ← xreg k.b
        if k.a == 0 then some (.ixadd b (immI k.len k.imm)) else none
    | 2 => do
        let a ← xreg k.a
        if k.b == 0 && immI k.len k.imm == 0 then some (.ixget a) else none
    | _ => none

/-- The instructions of OPC 0x1F from their fields. -/
def build1F (k : Fields) : Option Instr :=
    match k.fn with
    | 0 => do
        let a ← xreg k.a
        let b ← treg k.b
        if k.c == 0 && k.d == 0 then some (.mfts a b) else none
    | 1 => do
        let a ← treg k.a
        let b ← xreg k.b
        if k.c == 0 && k.d == 0 then some (.mtts a b) else none
    | _ => none

/-- The instructions of OPC 0x20 from their fields. -/
def build20 (k : Fields) : Option Instr :=
    match k.fn with
    | 0 => do
        let a ← xreg k.a
        if k.b == 0 && k.c == 0 && k.d == 0 then some (.rdcyc a) else none
    | _ => none

/-- The instructions of OPC 0x21 from their fields. -/
def build21 (k : Fields) : Option Instr :=
    match k.fn with
    | 0 => if k.a == 0 then some (.brk (immL k.len k.imm)) else none
    | _ => none

/-- The instructions of OPC 0x22 from their fields. -/
def build22 (k : Fields) : Option Instr :=
    match k.fn with
    | 0 => if k.a == 0 then some (.trap (immL k.len k.imm)) else none
    | _ => none

/-- The instructions of OPC 0x40 from their fields. -/
def build40 (k : Fields) : Option Instr :=
    match k.fn with
    | 0 => do
        let ty ← tyOf k.ty
        let a ← dreg ty k.a
        let b ← xreg k.b
        if k.op == 0 && !k.t then some (.ld ty a b (immI k.len k.imm)) else none
    | _ => none

/-- The instructions of OPC 0x41 from their fields. -/
def build41 (k : Fields) : Option Instr :=
    match k.fn with
    | 0 => do
        let ty ← tyOf k.ty
        let a ← dreg ty k.a
        let b ← xreg k.b
        let c ← xreg k.c
        if k.op == 0 && !k.t && k.idx % 8 == 0 then some (.ldIndexed ty a b c (BitVec.ofNat 3 (k.idx / 8))) else none
    | _ => none

/-- The instructions of OPC 0x42 from their fields. -/
def build42 (k : Fields) : Option Instr :=
    match k.fn with
    | 0 => do
        let ty ← tyOf k.ty
        let a ← dreg ty k.a
        let b ← xreg k.b
        if k.op == 0 && !k.t then some (.ldLs ty a b (immI k.len k.imm)) else none
    | _ => none

/-- The instructions of OPC 0x43 from their fields. -/
def build43 (k : Fields) : Option Instr :=
    match k.fn with
    | 0 => do
        let ty ← tyOf k.ty
        let a ← dreg ty k.a
        let b ← xreg k.b
        if k.op == 0 && !k.t then some (.ldHandleDisp ty a b (immI k.len k.imm)) else none
    | 1 => do
        let ty ← tyOf k.ty
        let a ← dreg ty k.a
        let b ← xreg k.b
        let c ← xreg k.c
        if k.op == 0 && !k.t && k.d == 0 then some (.ldHandleReg ty a b c) else none
    | _ => none

/-- The instructions of OPC 0x44 from their fields. -/
def build44 (k : Fields) : Option Instr :=
    match k.fn with
    | 0 => do
        let ty ← tyOf k.ty
        let op ← opOf k.op
        let a ← dreg ty k.a
        let b ← xreg k.b
        some (.st ty op k.t a b (immI k.len k.imm))
    | _ => none

/-- The instructions of OPC 0x45 from their fields. -/
def build45 (k : Fields) : Option Instr :=
    match k.fn with
    | 0 => do
        let ty ← tyOf k.ty
        let op ← opOf k.op
        let a ← dreg ty k.a
        let b ← xreg k.b
        let c ← xreg k.c
        if k.idx % 8 == 0 then some (.stIndexed ty op k.t a b c (BitVec.ofNat 3 (k.idx / 8))) else none
    | _ => none

/-- The instructions of OPC 0x46 from their fields. -/
def build46 (k : Fields) : Option Instr :=
    match k.fn with
    | 0 => do
        let ty ← tyOf k.ty
        let a ← dreg ty k.a
        let b ← xreg k.b
        if k.op == 0 && !k.t then some (.stLs ty a b (immI k.len k.imm)) else none
    | _ => none

/-- The instructions of OPC 0x47 from their fields. -/
def build47 (k : Fields) : Option Instr :=
    match k.fn with
    | 0 => do
        let ty ← tyOf k.ty
        let a ← dreg ty k.a
        let b ← xreg k.b
        if k.op == 0 && !k.t then some (.stHandleDisp ty a b (immI k.len k.imm)) else none
    | 1 => do
        let ty ← tyOf k.ty
        let a ← dreg ty k.a
        let b ← xreg k.b
        let c ← xreg k.c
        if k.op == 0 && !k.t && k.d == 0 then some (.stHandleReg ty a b c) else none
    | _ => none

/-- The instructions of OPC 0x48 from their fields. -/
def build48 (k : Fields) : Option Instr :=
    match k.fn with
    | 0 => do
        let ty ← tyOf k.ty
        let op ← opOf k.op
        let a ← xreg k.a
        let b ← xreg k.b
        let c ← xreg k.c
        if !k.t && k.d == 0 then some (.fetch ty op a b c) else none
    | _ => none

/-- The instructions of OPC 0x49 from their fields. -/
def build49 (k : Fields) : Option Instr :=
    match k.fn with
    | 0 => do
        let ty ← tyOf k.ty
        let a ← vreg k.a
        let b ← xreg k.b
        let c ← vreg k.c
        if k.op == 0 && !k.t then some (.gather ty a b c ⟨BitVec.ofNat 2 k.idx, k.idx / 4 % 2 == 1, BitVec.ofNat 3 (k.idx / 8)⟩) else none
    | _ => none

/-- The instructions of OPC 0x4A from their fields. -/
def build4A (k : Fields) : Option Instr :=
    match k.fn with
    | 0 => do
        let ty ← tyOf k.ty
        let op ← opOf k.op
        let a ← vreg k.a
        let b ← xreg k.b
        let c ← vreg k.c
        some (.scatter ty op k.t a b c ⟨BitVec.ofNat 2 k.idx, k.idx / 4 % 2 == 1, BitVec.ofNat 3 (k.idx / 8)⟩)
    | _ => none

/-- The instructions of OPC 0x4B from their fields. -/
def build4B (k : Fields) : Option Instr :=
    match k.fn with
    | 0 => do
        let ty ← tyOf k.ty
        let a ← vreg k.a
        let b ← xreg k.b
        let c ← xreg k.c
        if k.rm == 0 && k.ty2 == 0 && k.d == 0 then some (.ldt ty a b c) else none
    | _ => none

/-- The instructions of OPC 0x4C from their fields. -/
def build4C (k : Fields) : Option Instr :=
    match k.fn with
    | 0 => do
        let ty ← tyOf k.ty
        let rm ← rmOf k.rm
        let ty2 ← tyOf k.ty2
        let a ← vreg k.a
        let b ← vreg k.b
        let c ← xreg k.c
        if k.d == 0 then some (.unpk ty ty2 rm a b c) else none
    | _ => none

/-- The instructions of OPC 0x4D from their fields. -/
def build4D (k : Fields) : Option Instr :=
    match k.fn with
    | 0 => do
        let b ← xreg k.b
        if k.a == 0 then some (.prefetch b (immI k.len k.imm)) else none
    | _ => none

/-- The instructions of OPC 0x4E from their fields. -/
def build4E (k : Fields) : Option Instr :=
    match k.fn with
    | 0 => do
        let sc ← scOf k.sc
        let b ← xreg k.b
        let c ← xreg k.c
        if k.a == 0 && k.d == 0 then some (.drain sc b c) else none
    | 1 => do
        let sc ← scOf k.sc
        let b ← xreg k.b
        let c ← xreg k.c
        if k.a == 0 && k.d == 0 then some (.drainApply sc b c) else none
    | _ => none

/-- The instructions of OPC 0x50 from their fields. -/
def build50 (k : Fields) : Option Instr :=
    match k.fn with
    | 0 => if k.a == 0 && k.b == 0 && k.c == 0 && k.d == 0 then some (.commit) else none
    | _ => none

/-- The instructions of OPC 0x51 from their fields. -/
def build51 (k : Fields) : Option Instr :=
    match k.fn with
    | 0 => do
        let sc ← scOf k.sc
        if k.a == 0 && k.b == 0 && k.c == 0 && k.d == 0 then some (.fenceRel sc) else none
    | 1 => do
        let sc ← scOf k.sc
        if k.a == 0 && k.b == 0 && k.c == 0 && k.d == 0 then some (.fenceAcq sc) else none
    | 2 => do
        let sc ← scOf k.sc
        if k.a == 0 && k.b == 0 && k.c == 0 && k.d == 0 then some (.fenceAr sc) else none
    | 3 => do
        let sc ← scOf k.sc
        if k.a == 0 && k.b == 0 && k.c == 0 && k.d == 0 then some (.fenceSc sc) else none
    | 4 => do
        let ea ← engOf (k.imm % 8)
        let eb ← engOf (k.imm / 8)
        if k.a == 0 && k.b == 0 then some (.fenceX ea eb) else none
    | _ => none

/-- The instructions of OPC 0x52 from their fields. -/
def build52 (k : Fields) : Option Instr :=
    match k.fn with
    | 0 => do
        let sc ← scOf k.sc
        let b ← xreg k.b
        if k.a == 0 && k.imm < 2 ^ 23 then some (.bar sc b (BitVec.ofNat 23 k.imm)) else none
    | _ => none

/-- The instructions of OPC 0x53 from their fields. -/
def build53 (k : Fields) : Option Instr :=
    match k.fn with
    | 0 => do
        let b ← xreg k.b
        let c ← xreg k.c
        if k.a == 0 && k.d == 0 then some (.hgive b c) else none
    | 1 => do
        let a ← xreg k.a
        let b ← xreg k.b
        if k.c == 0 && k.d == 0 then some (.htake a b) else none
    | _ => none

/-- The instructions of OPC 0x70 from their fields. -/
def build70 (k : Fields) : Option Instr :=
    match k.fn with
    | 0 => if k.a == 0 && k.b == 0 && k.c == 0 && k.d == 0 then some (.vmodeShort) else none
    | 1 => if k.a == 0 && k.b == 0 && k.c == 0 && k.d == 0 then some (.vmodeLong) else none
    | _ => none

/-- The instructions of OPC 0x71 from their fields. -/
def build71 (k : Fields) : Option Instr :=
    match k.fn with
    | 0 => do
        let ty ← tyOf k.ty
        let rm ← rmOf k.rm
        let a ← vreg k.a
        let b ← vreg k.b
        let c ← vreg k.c
        if k.ty2 == 0 && k.d == 0 then some (.vaddF ty rm a b c) else none
    | 1 => do
        let ty ← tyOf k.ty
        let rm ← rmOf k.rm
        let a ← vreg k.a
        let b ← vreg k.b
        let c ← vreg k.c
        if k.ty2 == 0 && k.d == 0 then some (.vsubF ty rm a b c) else none
    | 2 => do
        let ty ← tyOf k.ty
        let rm ← rmOf k.rm
        let a ← vreg k.a
        let b ← vreg k.b
        let c ← vreg k.c
        if k.ty2 == 0 && k.d == 0 then some (.vmulF ty rm a b c) else none
    | 3 => do
        let ty ← tyOf k.ty
        let rm ← rmOf k.rm
        let a ← vreg k.a
        let b ← vreg k.b
        let c ← vreg k.c
        if k.ty2 == 0 && k.d == 0 then some (.vdiv ty rm a b c) else none
    | 4 => do
        let ty ← tyOf k.ty
        let a ← vreg k.a
        let b ← vreg k.b
        let c ← vreg k.c
        if k.rm == 0 && k.ty2 == 0 && k.d == 0 then some (.vminF ty a b c) else none
    | 5 => do
        let ty ← tyOf k.ty
        let a ← vreg k.a
        let b ← vreg k.b
        let c ← vreg k.c
        if k.rm == 0 && k.ty2 == 0 && k.d == 0 then some (.vmaxF ty a b c) else none
    | 6 => do
        let ty ← tyOf k.ty
        let a ← vreg k.a
        let b ← vreg k.b
        if k.rm == 0 && k.ty2 == 0 && k.c == 0 && k.d == 0 then some (.vabsF ty a b) else none
    | 7 => do
        let ty ← tyOf k.ty
        let a ← vreg k.a
        let b ← vreg k.b
        if k.rm == 0 && k.ty2 == 0 && k.c == 0 && k.d == 0 then some (.vneg ty a b) else none
    | 8 => do
        let ty ← tyOf k.ty
        let rm ← rmOf k.rm
        let a ← vreg k.a
        let b ← vreg k.b
        if k.ty2 == 0 && k.c == 0 && k.d == 0 then some (.vsqrt ty rm a b) else none
    | _ => none

/-- The instructions of OPC 0x72 from their fields. -/
def build72 (k : Fields) : Option Instr :=
    match k.fn with
    | 0 => do
        let ty ← tyOf k.ty
        let rm ← rmOf k.rm
        let a ← vreg k.a
        let b ← vreg k.b
        let c ← vreg k.c
        let d ← vreg k.d
        if k.ty2 == 0 then some (.vfma ty rm a b c d) else none
    | 1 => do
        let ty ← tyOf k.ty
        let rm ← rmOf k.rm
        let a ← vreg k.a
        let b ← vreg k.b
        let c ← vreg k.c
        let d ← vreg k.d
        if k.ty2 == 0 then some (.vfms ty rm a b c d) else none
    | 2 => do
        let ty ← tyOf k.ty
        let rm ← rmOf k.rm
        let a ← vreg k.a
        let b ← vreg k.b
        let c ← vreg k.c
        let d ← vreg k.d
        if k.ty2 == 0 then some (.vfnma ty rm a b c d) else none
    | _ => none

/-- The instructions of OPC 0x73 from their fields. -/
def build73 (k : Fields) : Option Instr :=
    match k.fn with
    | 0 => do
        let ty ← tyOf k.ty
        let a ← vreg k.a
        let b ← vreg k.b
        let c ← vreg k.c
        if k.rm == 0 && k.ty2 == 0 && k.d == 0 then some (.vaddI ty a b c) else none
    | 1 => do
        let ty ← tyOf k.ty
        let a ← vreg k.a
        let b ← vreg k.b
        let c ← vreg k.c
        if k.rm == 0 && k.ty2 == 0 && k.d == 0 then some (.vsubI ty a b c) else none
    | 2 => do
        let ty ← tyOf k.ty
        let a ← vreg k.a
        let b ← vreg k.b
        let c ← vreg k.c
        if k.rm == 0 && k.ty2 == 0 && k.d == 0 then some (.vmulI ty a b c) else none
    | 3 => do
        let ty ← tyOf k.ty
        let a ← vreg k.a
        let b ← vreg k.b
        let c ← vreg k.c
        if k.rm == 0 && k.ty2 == 0 && k.d == 0 then some (.vminI ty a b c) else none
    | 4 => do
        let ty ← tyOf k.ty
        let a ← vreg k.a
        let b ← vreg k.b
        let c ← vreg k.c
        if k.rm == 0 && k.ty2 == 0 && k.d == 0 then some (.vmaxI ty a b c) else none
    | 5 => do
        let ty ← tyOf k.ty
        let a ← vreg k.a
        let b ← vreg k.b
        if k.rm == 0 && k.ty2 == 0 && k.c == 0 && k.d == 0 then some (.vabsI ty a b) else none
    | 6 => do
        let ty ← tyOf k.ty
        let a ← vreg k.a
        let b ← vreg k.b
        let c ← vreg k.c
        if k.rm == 0 && k.ty2 == 0 && k.d == 0 then some (.vadds ty a b c) else none
    | 7 => do
        let ty ← tyOf k.ty
        let a ← vreg k.a
        let b ← vreg k.b
        let c ← vreg k.c
        if k.rm == 0 && k.ty2 == 0 && k.d == 0 then some (.vsubs ty a b c) else none
    | 8 => do
        let ty ← tyOf k.ty
        let a ← vreg k.a
        let b ← vreg k.b
        let c ← vreg k.c
        if k.rm == 0 && k.ty2 == 0 && k.d == 0 then some (.vand ty a b c) else none
    | 9 => do
        let ty ← tyOf k.ty
        let a ← vreg k.a
        let b ← vreg k.b
        let c ← vreg k.c
        if k.rm == 0 && k.ty2 == 0 && k.d == 0 then some (.vor ty a b c) else none
    | 10 => do
        let ty ← tyOf k.ty
        let a ← vreg k.a
        let b ← vreg k.b
        let c ← vreg k.c
        if k.rm == 0 && k.ty2 == 0 && k.d == 0 then some (.vxor ty a b c) else none
    | 11 => do
        let ty ← tyOf k.ty
        let a ← vreg k.a
        let b ← vreg k.b
        let c ← vreg k.c
        if k.rm == 0 && k.ty2 == 0 && k.d == 0 then some (.vsll ty a b c) else none
    | 12 => do
        let ty ← tyOf k.ty
        let a ← vreg k.a
        let b ← vreg k.b
        let c ← vreg k.c
        if k.rm == 0 && k.ty2 == 0 && k.d == 0 then some (.vsrl ty a b c) else none
    | 13 => do
        let ty ← tyOf k.ty
        let a ← vreg k.a
        let b ← vreg k.b
        let c ← vreg k.c
        if k.rm == 0 && k.ty2 == 0 && k.d == 0 then some (.vsra ty a b c) else none
    | _ => none

/-- The instructions of OPC 0x74 from their fields. -/
def build74 (k : Fields) : Option Instr :=
    match k.fn with
    | 0 => do
        let ty ← tyOf k.ty
        let rm ← rmOf k.rm
        let a ← vreg k.a
        let b ← vreg k.b
        if k.ty2 == 0 && k.c == 0 && k.d == 0 then some (.vexp ty rm a b) else none
    | 1 => do
        let ty ← tyOf k.ty
        let rm ← rmOf k.rm
        let a ← vreg k.a
        let b ← vreg k.b
        if k.ty2 == 0 && k.c == 0 && k.d == 0 then some (.vlog ty rm a b) else none
    | 2 => do
        let ty ← tyOf k.ty
        let rm ← rmOf k.rm
        let a ← vreg k.a
        let b ← vreg k.b
        if k.ty2 == 0 && k.c == 0 && k.d == 0 then some (.vrcp ty rm a b) else none
    | 3 => do
        let ty ← tyOf k.ty
        let rm ← rmOf k.rm
        let a ← vreg k.a
        let b ← vreg k.b
        if k.ty2 == 0 && k.c == 0 && k.d == 0 then some (.vrsqrt ty rm a b) else none
    | 4 => do
        let ty ← tyOf k.ty
        let rm ← rmOf k.rm
        let a ← vreg k.a
        let b ← vreg k.b
        if k.ty2 == 0 && k.c == 0 && k.d == 0 then some (.vtanh ty rm a b) else none
    | 5 => do
        let ty ← tyOf k.ty
        let rm ← rmOf k.rm
        let a ← vreg k.a
        let b ← vreg k.b
        if k.ty2 == 0 && k.c == 0 && k.d == 0 then some (.vsig ty rm a b) else none
    | _ => none

/-- The instructions of OPC 0x75 from their fields. -/
def build75 (k : Fields) : Option Instr :=
    match k.fn with
    | 0 => do
        let ty ← tyOf k.ty
        let a ← vreg k.a
        let b ← vreg k.b
        let c ← vreg k.c
        if k.rm == 0 && k.ty2 == 0 && k.d == 0 then some (.vcmpEq ty a b c) else none
    | 1 => do
        let ty ← tyOf k.ty
        let a ← vreg k.a
        let b ← vreg k.b
        let c ← vreg k.c
        if k.rm == 0 && k.ty2 == 0 && k.d == 0 then some (.vcmpNe ty a b c) else none
    | 2 => do
        let ty ← tyOf k.ty
        let a ← vreg k.a
        let b ← vreg k.b
        let c ← vreg k.c
        if k.rm == 0 && k.ty2 == 0 && k.d == 0 then some (.vcmpLt ty a b c) else none
    | 3 => do
        let ty ← tyOf k.ty
        let a ← vreg k.a
        let b ← vreg k.b
        let c ← vreg k.c
        if k.rm == 0 && k.ty2 == 0 && k.d == 0 then some (.vcmpLe ty a b c) else none
    | 4 => do
        let ty ← tyOf k.ty
        let a ← vreg k.a
        let b ← vreg k.b
        let c ← vreg k.c
        if k.rm == 0 && k.ty2 == 0 && k.d == 0 then some (.vcmpGt ty a b c) else none
    | 5 => do
        let ty ← tyOf k.ty
        let a ← vreg k.a
        let b ← vreg k.b
        let c ← vreg k.c
        if k.rm == 0 && k.ty2 == 0 && k.d == 0 then some (.vcmpGe ty a b c) else none
    | _ => none

/-- The instructions of OPC 0x76 from their fields. -/
def build76 (k : Fields) : Option Instr :=
    match k.fn with
    | 0 => do
        let ty ← tyOf k.ty
        let a ← vreg k.a
        let b ← vreg k.b
        let c ← vreg k.c
        let d ← vreg k.d
        if k.rm == 0 && k.ty2 == 0 then some (.vsel ty a b c d) else none
    | _ => none

/-- The instructions of OPC 0x77 from their fields. -/
def build77 (k : Fields) : Option Instr :=
    match k.fn with
    | 0 => do
        let ty ← tyOf k.ty
        let a ← vreg k.a
        let b ← vreg k.b
        let c ← vreg k.c
        if k.rm == 0 && k.ty2 == 0 && k.d == 0 then some (.vperm ty a b c) else none
    | 1 => do
        let ty ← tyOf k.ty
        let a ← vreg k.a
        let b ← vreg k.b
        let c ← vreg k.c
        let d ← vreg k.d
        if k.rm == 0 && k.ty2 == 0 then some (.vshuf ty a b c d) else none
    | 2 => do
        let ty ← tyOf k.ty
        let a ← vreg k.a
        let b ← xreg k.b
        if k.rm == 0 && k.ty2 == 0 && k.c == 0 && k.d == 0 then some (.vbcast ty a b) else none
    | 3 => do
        let ty ← tyOf k.ty
        let a ← vreg k.a
        let b ← vreg k.b
        let c ← xreg k.c
        if k.rm == 0 && k.ty2 == 0 && k.d == 0 then some (.vrot ty a b c) else none
    | _ => none

/-- The instructions of OPC 0x78 from their fields. -/
def build78 (k : Fields) : Option Instr :=
    match k.fn with
    | 0 => do
        let ty ← tyOf k.ty
        let rm ← rmOf k.rm
        let a ← xreg k.a
        let b ← vreg k.b
        if k.ty2 == 0 && k.c == 0 && k.d == 0 then some (.vredadd ty rm a b) else none
    | 1 => do
        let ty ← tyOf k.ty
        let a ← xreg k.a
        let b ← vreg k.b
        if k.rm == 0 && k.ty2 == 0 && k.c == 0 && k.d == 0 then some (.vredmax ty a b) else none
    | 2 => do
        let ty ← tyOf k.ty
        let a ← xreg k.a
        let b ← vreg k.b
        if k.rm == 0 && k.ty2 == 0 && k.c == 0 && k.d == 0 then some (.vredmin ty a b) else none
    | _ => none

/-- The instructions of OPC 0x79 from their fields. -/
def build79 (k : Fields) : Option Instr :=
    match k.fn with
    | 0 => do
        let ty ← tyOf k.ty
        let rm ← rmOf k.rm
        let ty2 ← tyOf k.ty2
        let a ← vreg k.a
        let b ← vreg k.b
        let c ← xreg k.c
        if k.d == 0 then some (.cvt ty ty2 rm a b c) else none
    | 1 => do
        let rm ← rmOf k.rm
        let ty2 ← tyOf k.ty2
        let a ← vreg k.a
        let b ← vreg k.b
        let c ← xreg k.c
        let d ← xreg k.d
        if k.ty == Ty.b8.code then some (.cvtn ty2 rm a b c d) else none
    | _ => none

/-- The instructions of OPC 0x7A from their fields. -/
def build7A (k : Fields) : Option Instr :=
    match k.fn with
    | 0 => do
        let rm ← rmOf k.rm
        let ty2 ← tyOf k.ty2
        let a ← vreg k.a
        let b ← vreg k.b
        let c ← xreg k.c
        let d ← xreg k.d
        if k.ty == Ty.b8.code then some (.vquant ty2 rm a b c d) else none
    | _ => none

/-- The instructions of OPC 0x7B from their fields. -/
def build7B (k : Fields) : Option Instr :=
    match k.fn with
    | 0 => do
        let ty ← tyOf k.ty
        let a ← xreg k.a
        let b ← vreg k.b
        if k.rm == 0 && k.ty2 == 0 && k.c == 0 && k.d == 0 then some (.xmax ty a b) else none
    | _ => none

/-- The instructions of OPC 0x7C from their fields. -/
def build7C (k : Fields) : Option Instr :=
    match k.fn with
    | 0 => do
        let b ← vreg k.b
        let c ← xreg k.c
        let d ← xreg k.d
        if k.ty == Ty.f32.code && k.rm == 0 && k.ty2 == 0 && k.a == 0 then some (.sbupd b c d) else none
    | _ => none

/-- The instructions of OPC 0x7D from their fields. -/
def build7D (k : Fields) : Option Instr :=
    match k.fn with
    | 0 => do
        let ty ← tyOf k.ty
        let a ← vreg k.a
        let b ← vreg k.b
        let c ← xreg k.c
        if k.rm == 0 && k.ty2 == 0 && k.d == 0 then some (.vhash ty a b c) else none
    | 1 => do
        let a ← xreg k.a
        let b ← vreg k.b
        let c ← vreg k.c
        let d ← xreg k.d
        if k.ty == Ty.b8.code && k.rm == 0 && k.ty2 == 0 then some (.vbcmp a b c d) else none
    | _ => none

/-- The instructions of OPC 0x7E from their fields. -/
def build7E (k : Fields) : Option Instr :=
    match k.fn with
    | 0 => do
        let a ← vreg k.a
        let b ← vreg k.b
        if k.ty == Ty.b64.code && k.rm == 0 && k.ty2 == 0 && k.c == 0 && k.d == 0 then some (.vmov a b) else none
    | 1 => do
        let ty ← tyOf k.ty
        let a ← vreg k.a
        let b ← xreg k.b
        let c ← xreg k.c
        if k.rm == 0 && k.ty2 == 0 && k.d == 0 then some (.vins ty a b c) else none
    | 2 => do
        let ty ← tyOf k.ty
        let a ← xreg k.a
        let b ← vreg k.b
        let c ← xreg k.c
        if k.rm == 0 && k.ty2 == 0 && k.d == 0 then some (.vext ty a b c) else none
    | _ => none

/-- The instructions of OPC 0xA0 from their fields. -/
def buildA0 (k : Fields) : Option Instr :=
    match k.fn with
    | 0 => do
        let ty ← tyOf k.ty
        let ty2 ← tyOf k.ty2
        let a ← r3 k.a
        let b ← xreg k.b
        let c ← xreg k.c
        let d ← xreg k.d
        if k.rm == 0 then some (.mma ty ty2 a b c d) else none
    | _ => none

/-- The instructions of OPC 0xA1 from their fields. -/
def buildA1 (k : Fields) : Option Instr :=
    match k.fn with
    | 0 => do
        let ty2 ← tyOf k.ty2
        let a ← r3 k.a
        let b ← xreg k.b
        let c ← xreg k.c
        let d ← xreg k.d
        let e ← xreg k.e
        if k.ty == Ty.f32.code && k.rm == 0 && k.f == 0 then some (.mmas ty2 a b c d e (BitVec.ofNat 18 k.imm)) else none
    | _ => none

/-- The instructions of OPC 0xA2 from their fields. -/
def buildA2 (k : Fields) : Option Instr :=
    match k.fn with
    | 0 => do
        let ty ← tyOf k.ty
        let a ← r3 k.a
        let b ← xreg k.b
        let c ← xreg k.c
        let d ← xreg k.d
        let e ← xreg k.e
        let f ← xreg k.f
        if k.rm == 0 && k.ty2 == 0 then some (.mmt ty a b c d e f (BitVec.ofNat 18 k.imm)) else none
    | _ => none

/-- The instructions of OPC 0xA3 from their fields. -/
def buildA3 (k : Fields) : Option Instr :=
    match k.fn with
    | 0 => do
        let a ← r3 k.a
        if k.ty == 0 && k.rm == 0 && k.ty2 == 0 && k.b == 0 && k.c == 0 && k.d == 0 then some (.azero a) else none
    | 1 => do
        let a ← xreg k.a
        let b ← r3 k.b
        if k.ty == 0 && k.rm == 0 && k.ty2 == 0 && k.c == 0 && k.d == 0 then some (.aspill a b) else none
    | 2 => do
        let a ← r3 k.a
        let b ← xreg k.b
        if k.ty == 0 && k.rm == 0 && k.ty2 == 0 && k.c == 0 && k.d == 0 then some (.afill a b) else none
    | 3 => do
        let ty ← tyOf k.ty
        let rm ← rmOf k.rm
        let a ← r3 k.a
        let b ← r3 k.b
        let c ← r3 k.c
        if k.ty2 == 0 && k.d == 0 then some (.aadd ty rm a b c) else none
    | 4 => do
        let ty ← tyOf k.ty
        let rm ← rmOf k.rm
        let pair ← pairOf k.ty2
        let a ← vreg k.a
        let b ← r3 k.b
        let c ← xreg k.c
        let d ← xreg k.d
        some (.aread ty pair rm a b c d)
    | _ => none

/-- The instructions of OPC 0xA4 from their fields. -/
def buildA4 (k : Fields) : Option Instr :=
    match k.fn with
    | 0 => do
        let b ← xreg k.b
        let c ← xreg k.c
        if k.a == 0 && k.d == 0 then some (.skset b c) else none
    | 1 => do
        let a ← xreg k.a
        if k.b == 0 && k.c == 0 && k.d == 0 then some (.skget a) else none
    | _ => none

/-- The instructions of OPC 0xA5 from their fields. -/
def buildA5 (k : Fields) : Option Instr :=
    match k.fn with
    | 0 => do
        let ty ← tyOf k.ty
        let a ← xreg k.a
        let b ← xreg k.b
        let c ← xreg k.c
        let d ← xreg k.d
        if k.rm == 0 && k.ty2 == 0 then some (.topk ty a b c d) else none
    | _ => none

/-- The instructions of OPC 0xA6 from their fields. -/
def buildA6 (k : Fields) : Option Instr :=
    match k.fn with
    | 0 => do
        let ty ← tyOf k.ty
        let ty2 ← tyOf k.ty2
        let a ← r3 k.a
        let b ← xreg k.b
        let c ← xreg k.c
        let d ← xreg k.d
        let e ← xreg k.e
        if k.rm == 0 && k.f == 0 then some (.mvh ty ty2 a b c d e (BitVec.ofNat 18 k.imm)) else none
    | _ => none

/-- The instructions of OPC 0xA7 from their fields. -/
def buildA7 (k : Fields) : Option Instr :=
    match k.fn with
    | 0 => do
        let b ← xreg k.b
        let c ← xreg k.c
        if k.a == 0 && k.d == 0 then some (.sbld b c) else none
    | 1 => do
        let b ← xreg k.b
        let c ← xreg k.c
        if k.a == 0 && k.d == 0 then some (.sbst b c) else none
    | _ => none

/-- The instructions of OPC 0xC0 from their fields. -/
def buildC0 (k : Fields) : Option Instr :=
    match k.fn with
    | 0 => do
        let ty ← tyOf k.ty
        let a ← sreg k.a
        let b ← xreg k.b
        if k.rm == 0 && k.ty2 == 0 && k.c == 0 && k.d == 0 then some (.sopen ty a b) else none
    | 1 => do
        let a ← sreg k.a
        let b ← xreg k.b
        if k.ty == 0 && k.rm == 0 && k.ty2 == 0 && k.c == 0 && k.d == 0 then some (.sadv a b) else none
    | 2 => do
        let a ← r3 k.a
        let b ← sreg k.b
        if k.ty == 0 && k.rm == 0 && k.ty2 == 0 && k.c == 0 && k.d == 0 then some (.stend a b) else none
    | 3 => do
        let a ← sreg k.a
        if k.ty == 0 && k.rm == 0 && k.ty2 == 0 && k.b == 0 && k.c == 0 && k.d == 0 then some (.sclose a) else none
    | 4 => do
        let ty ← tyOf k.ty
        let a ← sreg k.a
        let b ← xreg k.b
        if k.rm == 0 && k.ty2 == 0 && k.c == 0 && k.d == 0 then some (.fopen ty a b) else none
    | _ => none

/-- The instructions of OPC 0xC1 from their fields. -/
def buildC1 (k : Fields) : Option Instr :=
    match k.fn with
    | 0 => do
        let a ← r2 k.a
        let b ← xreg k.b
        let c ← xreg k.c
        let d ← xreg k.d
        let e ← xreg k.e
        if k.ty == 0 && k.op == 0 && !k.t && k.f == 0 then some (.cpyLl a b c d e (BitVec.ofNat 18 k.imm)) else none
    | 1 => do
        let a ← r2 k.a
        let b ← xreg k.b
        let c ← xreg k.c
        let d ← xreg k.d
        let e ← xreg k.e
        if k.ty == 0 && k.op == 0 && !k.t && k.f == 0 then some (.cpyGl a b c d e (BitVec.ofNat 18 k.imm)) else none
    | 2 => do
        let ty ← tyOf k.ty
        let op ← opOf k.op
        let a ← r2 k.a
        let b ← xreg k.b
        let c ← xreg k.c
        let d ← xreg k.d
        let e ← xreg k.e
        if k.f == 0 then some (.cpyLg ty op k.t a b c d e (BitVec.ofNat 18 k.imm)) else none
    | 3 => do
        let a ← r2 k.a
        let c ← xreg k.c
        let d ← xreg k.d
        let e ← xreg k.e
        if k.ty == 0 && k.op == 0 && !k.t && k.b == 0 && k.f == 0 then some (.cpyDist a c d e (BitVec.ofNat 18 k.imm)) else none
    | _ => none

/-- The instructions of OPC 0xC2 from their fields. -/
def buildC2 (k : Fields) : Option Instr :=
    match k.fn with
    | 0 => do
        let a ← xreg k.a
        let b ← r2 k.b
        if k.c == 0 && k.d == 0 then some (.cpwp a b) else none
    | 1 => do
        let a ← xreg k.a
        let b ← r2 k.b
        if k.c == 0 && k.d == 0 then some (.cpwait a b) else none
    | 2 => do
        let b ← r2 k.b
        let c ← xreg k.c
        if k.a == 0 && k.d == 0 then some (.dpat b c) else none
    | _ => none

/-- The instructions of OPC 0xC3 from their fields. -/
def buildC3 (k : Fields) : Option Instr :=
    match k.fn with
    | 0 => do
        let a ← xreg k.a
        let b ← xreg k.b
        let c ← xreg k.c
        let d ← xreg k.d
        let e ← xreg k.e
        if k.ty == 0 && k.op == 0 && !k.t && k.f == 0 && k.imm == 0 then some (.get a b c d e) else none
    | 1 => do
        let ty ← tyOf k.ty
        let op ← opOf k.op
        let a ← xreg k.a
        let b ← xreg k.b
        let c ← xreg k.c
        let d ← xreg k.d
        let e ← xreg k.e
        if !k.t && k.f == 0 && k.imm == 0 then some (.put ty op a b c d e) else none
    | _ => none

/-- The instructions of OPC 0xC4 from their fields. -/
def buildC4 (k : Fields) : Option Instr :=
    match k.fn with
    | 0 => do
        let ty ← tyOf k.ty
        let op ← opOf k.op
        let a ← xreg k.a
        let b ← xreg k.b
        let c ← xreg k.c
        let d ← xreg k.d
        let e ← xreg k.e
        let f ← xreg k.f
        if !k.t && k.imm == 0 then some (.coll ty op a b c d e f) else none
    | _ => none

/-- The instructions of OPC 0xD0 from their fields. -/
def buildD0 (k : Fields) : Option Instr :=
    match k.fn with
    | 0 => if k.a == 0 && k.b == 0 && k.c == 0 && k.d == 0 then some (.done) else none
    | 1 => if k.a == 0 && k.b == 0 && k.c == 0 && k.d == 0 then some (.yield) else none
    | 2 => if k.a == 0 && k.b == 0 && k.c == 0 && k.d == 0 then some (.wfw) else none
    | 3 => if k.a == 0 && k.b == 0 && k.c == 0 && k.d == 0 then some (.lend) else none
    | _ => none

/-- The instructions of OPC 0xD1 from their fields. -/
def buildD1 (k : Fields) : Option Instr :=
    match k.fn with
    | 0 => do
        let a ← xreg k.a
        let b ← xreg k.b
        let c ← xreg k.c
        if k.d == 0 && k.e == 0 && k.f == 0 && k.imm == 0 then some (.post a b c) else none
    | 1 => do
        let a ← xreg k.a
        let b ← xreg k.b
        let c ← xreg k.c
        if k.d == 0 && k.e == 0 && k.f == 0 && k.imm == 0 then some (.spawn a b c) else none
    | _ => none

/-- The instructions of OPC 0xD2 from their fields. -/
def buildD2 (k : Fields) : Option Instr :=
    match k.fn with
    | 0 => do
        let b ← xreg k.b
        if k.a == 0 && k.c == 0 && k.d == 0 then some (.ctwait b) else none
    | 1 => do
        let b ← xreg k.b
        let c ← xreg k.c
        let d ← xreg k.d
        if k.a == 0 then some (.ctadd b c d) else none
    | 2 => do
        let b ← xreg k.b
        if k.a == 0 && k.c == 0 && k.d == 0 then some (.ctcancel b) else none
    | 3 => do
        let a ← xreg k.a
        let b ← xreg k.b
        let c ← xreg k.c
        if k.d == 0 then some (.ctread a b c) else none
    | _ => none

/-- The instructions of OPC 0xD3 from their fields. -/
def buildD3 (k : Fields) : Option Instr :=
    match k.fn with
    | 0 => do
        let b ← xreg k.b
        let c ← xreg k.c
        let d ← xreg k.d
        if k.a == 0 then some (.msend b c d) else none
    | 1 => do
        let a ← xreg k.a
        let b ← xreg k.b
        let c ← xreg k.c
        if k.d == 0 then some (.mrecv a b c) else none
    | _ => none

/-- The instructions of OPC 0xD4 from their fields. -/
def buildD4 (k : Fields) : Option Instr :=
    match k.fn with
    | 0 => if k.a == 0 && k.b == 0 && k.c == 0 && k.d == 0 then some (.tret) else none
    | 1 => do
        let a ← xreg k.a
        let b ← xreg k.b
        if k.c == 0 && k.d == 0 then some (.fqrd a b) else none
    | _ => none

/-- The instructions of OPC 0xD5 from their fields. -/
def buildD5 (k : Fields) : Option Instr :=
    match k.fn with
    | 0 => do
        let a ← r2 k.a
        let b ← xreg k.b
        if k.c == 0 && k.d == 0 then some (.mset a b) else none
    | 1 => do
        let a ← r2 k.a
        let b ← xreg k.b
        let c ← xreg k.c
        if k.d == 0 then some (.mref a b c) else none
    | 2 => do
        let a ← r2 k.a
        if k.b == 0 && k.c == 0 && k.d == 0 then some (.mclr a) else none
    | 3 => do
        let a ← xreg k.a
        let b ← r2 k.b
        let c ← xreg k.c
        if k.d == 0 then some (.mrd a b c) else none
    | _ => none

/-- The instructions of OPC 0xD6 from their fields. -/
def buildD6 (k : Fields) : Option Instr :=
    match k.fn with
    | 0 => do
        let a ← r2 k.a
        let b ← xreg k.b
        let c ← xreg k.c
        if k.ty == Ty.f64.code && k.rm == 0 && k.ty2 == 0 && k.d == 0 then some (.hset a b c) else none
    | 1 => do
        let rm ← rmOf k.rm
        let a ← r2 k.a
        let b ← xreg k.b
        let c ← xreg k.c
        if k.ty == Ty.f64.code && k.ty2 == 0 && k.d == 0 then some (.hmul rm a b c) else none
    | 2 => do
        let rm ← rmOf k.rm
        let a ← r2 k.a
        let b ← xreg k.b
        let c ← xreg k.c
        if k.ty == Ty.f64.code && k.ty2 == 0 && k.d == 0 then some (.hdiv rm a b c) else none
    | 3 => do
        let rm ← rmOf k.rm
        let a ← r2 k.a
        let b ← r2 k.b
        let c ← r2 k.c
        if k.ty == Ty.f64.code && k.ty2 == 0 && k.d == 0 then some (.hprod rm a b c) else none
    | 4 => do
        let a ← r2 k.a
        let b ← xreg k.b
        if k.ty == Ty.f64.code && k.rm == 0 && k.ty2 == 0 && k.c == 0 && k.d == 0 then some (.hscale a b) else none
    | 5 => do
        let rm ← rmOf k.rm
        let a ← xreg k.a
        let b ← r2 k.b
        let c ← xreg k.c
        if k.ty == Ty.f64.code && k.ty2 == 0 && k.d == 0 then some (.hrd rm a b c) else none
    | 6 => do
        let rm ← rmOf k.rm
        let a ← r2 k.a
        let b ← xreg k.b
        let c ← xreg k.c
        if k.ty == Ty.f64.code && k.ty2 == 0 && k.d == 0 then some (.hwr rm a b c) else none
    | 7 => do
        let a ← r2 k.a
        let b ← xreg k.b
        if k.ty == Ty.f64.code && k.rm == 0 && k.ty2 == 0 && k.c == 0 && k.d == 0 then some (.hdeg a b) else none
    | _ => none

/-- The instructions of OPC 0xE0 from their fields. -/
def buildE0 (k : Fields) : Option Instr :=
    match k.fn with
    | 0 => do
        let b ← xreg k.b
        let c ← xreg k.c
        let d ← xreg k.d
        if k.a == 0 then some (.svCtab b c d) else none
    | 1 => do
        let b ← xreg k.b
        let c ← xreg k.c
        if k.a == 0 && k.d == 0 then some (.svQrec b c) else none
    | 2 => do
        let b ← xreg k.b
        let c ← xreg k.c
        if k.a == 0 && k.d == 0 then some (.svQprio b c) else none
    | 3 => do
        let b ← xreg k.b
        let c ← xreg k.c
        if k.a == 0 && k.d == 0 then some (.svGstart b c) else none
    | 4 => do
        let b ← xreg k.b
        if k.a == 0 && k.c == 0 && k.d == 0 then some (.svTeardown b) else none
    | 5 => do
        let b ← xreg k.b
        let c ← xreg k.c
        if k.a == 0 && k.d == 0 then some (.svRht b c) else none
    | 6 => do
        let b ← xreg k.b
        let c ← xreg k.c
        if k.a == 0 && k.d == 0 then some (.svDph b c) else none
    | 7 => do
        let b ← xreg k.b
        let c ← xreg k.c
        if k.a == 0 && k.d == 0 then some (.svPtbr b c) else none
    | 8 => do
        let b ← xreg k.b
        let c ← xreg k.c
        if k.a == 0 && k.d == 0 then some (.svPtw b c) else none
    | 9 => do
        let b ← xreg k.b
        let c ← xreg k.c
        if k.a == 0 && k.d == 0 then some (.svTinv b c) else none
    | 10 => do
        let b ← xreg k.b
        let c ← xreg k.c
        if k.a == 0 && k.d == 0 then some (.svPres b c) else none
    | 11 => do
        let b ← xreg k.b
        let c ← xreg k.c
        if k.a == 0 && k.d == 0 then some (.svPref b c) else none
    | 12 => do
        let b ← xreg k.b
        let c ← xreg k.c
        let d ← xreg k.d
        if k.a == 0 then some (.svMigr b c d) else none
    | 13 => do
        let b ← xreg k.b
        let c ← xreg k.c
        let d ← xreg k.d
        if k.a == 0 then some (.svHint b c d) else none
    | 14 => do
        let b ← xreg k.b
        let c ← xreg k.c
        let d ← xreg k.d
        if k.a == 0 then some (.svFq b c d) else none
    | 15 => do
        let b ← xreg k.b
        let c ← xreg k.c
        if k.a == 0 && k.d == 0 then some (.svSfq b c) else none
    | 16 => do
        let c ← xreg k.c
        if k.a == 0 && k.b == 0 && k.d == 0 then some (.svFlue c) else none
    | 17 => do
        let c ← xreg k.c
        let d ← xreg k.d
        if k.a == 0 && k.b == 0 then some (.svVac c d) else none
    | 18 => do
        let b ← xreg k.b
        if k.a == 0 && k.c == 0 && k.d == 0 then some (.svVrel b) else none
    | 19 => do
        let b ← xreg k.b
        let c ← xreg k.c
        if k.a == 0 && k.d == 0 then some (.svPdk b c) else none
    | 20 => do
        let b ← xreg k.b
        if k.a == 0 && k.c == 0 && k.d == 0 then some (.svKill b) else none
    | 21 => do
        let b ← xreg k.b
        if k.a == 0 && k.c == 0 && k.d == 0 then some (.svPrel b) else none
    | 22 => do
        let b ← xreg k.b
        let c ← xreg k.c
        let d ← xreg k.d
        if k.a == 0 then some (.svLspr b c d) else none
    | 23 => do
        let b ← xreg k.b
        let c ← xreg k.c
        if k.a == 0 && k.d == 0 then some (.svSpb b c) else none
    | 24 => do
        let b ← xreg k.b
        let c ← xreg k.c
        let d ← xreg k.d
        if k.a == 0 then some (.svHtab b c d) else none
    | 25 => do
        let b ← xreg k.b
        let c ← xreg k.c
        let d ← xreg k.d
        if k.a == 0 then some (.svYov b c d) else none
    | _ => none

/-- The instruction that a cell names, from its fields (R224, R225). -/
def build (k : Fields) : Option Instr :=
  match k.opc with
  | 0x01 => build01 k
  | 0x02 => build02 k
  | 0x03 => build03 k
  | 0x04 => build04 k
  | 0x05 => build05 k
  | 0x06 => build06 k
  | 0x07 => build07 k
  | 0x08 => build08 k
  | 0x09 => build09 k
  | 0x0A => build0A k
  | 0x0B => build0B k
  | 0x0C => build0C k
  | 0x0D => build0D k
  | 0x0E => build0E k
  | 0x0F => build0F k
  | 0x10 => build10 k
  | 0x18 => build18 k
  | 0x19 => build19 k
  | 0x1A => build1A k
  | 0x1B => build1B k
  | 0x1C => build1C k
  | 0x1D => build1D k
  | 0x1E => build1E k
  | 0x1F => build1F k
  | 0x20 => build20 k
  | 0x21 => build21 k
  | 0x22 => build22 k
  | 0x40 => build40 k
  | 0x41 => build41 k
  | 0x42 => build42 k
  | 0x43 => build43 k
  | 0x44 => build44 k
  | 0x45 => build45 k
  | 0x46 => build46 k
  | 0x47 => build47 k
  | 0x48 => build48 k
  | 0x49 => build49 k
  | 0x4A => build4A k
  | 0x4B => build4B k
  | 0x4C => build4C k
  | 0x4D => build4D k
  | 0x4E => build4E k
  | 0x50 => build50 k
  | 0x51 => build51 k
  | 0x52 => build52 k
  | 0x53 => build53 k
  | 0x70 => build70 k
  | 0x71 => build71 k
  | 0x72 => build72 k
  | 0x73 => build73 k
  | 0x74 => build74 k
  | 0x75 => build75 k
  | 0x76 => build76 k
  | 0x77 => build77 k
  | 0x78 => build78 k
  | 0x79 => build79 k
  | 0x7A => build7A k
  | 0x7B => build7B k
  | 0x7C => build7C k
  | 0x7D => build7D k
  | 0x7E => build7E k
  | 0xA0 => buildA0 k
  | 0xA1 => buildA1 k
  | 0xA2 => buildA2 k
  | 0xA3 => buildA3 k
  | 0xA4 => buildA4 k
  | 0xA5 => buildA5 k
  | 0xA6 => buildA6 k
  | 0xA7 => buildA7 k
  | 0xC0 => buildC0 k
  | 0xC1 => buildC1 k
  | 0xC2 => buildC2 k
  | 0xC3 => buildC3 k
  | 0xC4 => buildC4 k
  | 0xD0 => buildD0 k
  | 0xD1 => buildD1 k
  | 0xD2 => buildD2 k
  | 0xD3 => buildD3 k
  | 0xD4 => buildD4 k
  | 0xD5 => buildD5 k
  | 0xD6 => buildD6 k
  | 0xE0 => buildE0 k
  | _ => none

/-- The instruction in a word of a length; `none` is ILLEGAL_OP (R227 steps 3 to 6). -/
def decodeWord (len : Len) (w : Nat) : Option (Hdr × Instr) := do
  let cell ← cellOf (bitsOf w 3 8) (bitsOf w 11 5)
  let f ← unpack cell.fmt cell.lay len w
  let i ← build f
  if i.wf ⟨f.len, f.sw⟩ then some (⟨f.len, f.sw⟩, i) else none

/-- Why bytes hold no instruction. -/
inductive DecodeErr where
  /-- LEN = 0b11 (R219). -/
  | illegalLen
  /-- R227 steps 3 to 6. -/
  | illegalOp
  /-- Fewer bytes than the length asks for. -/
  | short
  deriving DecidableEq, Repr

/-- Little-endian value of bytes (R3). -/
def leNat : List Byte → Nat
  | [] => 0
  | b :: bs => b.toNat + 256 * leNat bs

/-- `n` little-endian bytes of a number. -/
def leBytes : Nat → Nat → List Byte
  | 0, _ => []
  | n + 1, v => BitVec.ofNat 8 v :: leBytes n (v / 256)

/-- Decodes the instruction at the front of a list of bytes, with its header (R217, R218, R227). -/
def decode (bs : List Byte) : Except DecodeErr (Hdr × Instr) :=
  match bs with
  | [] => .error .short
  | b :: _ =>
    match lenOf (b.toNat % 4) with
    | none => .error .illegalLen
    | some len =>
      if bs.length < len.bytes then .error .short
      else
        match decodeWord len (leNat (bs.take len.bytes)) with
        | some r => .ok r
        | none => .error .illegalOp

/-- The instruction that the decoder reads from a word of `nbits` bits, the bits above them zero. -/
def decodeTableWord (nbits w : Nat) : Option Instr :=
  match decode (leBytes 16 (w % 2 ^ nbits)) with
  | .ok (_, i) => some i
  | .error _ => none

/-- The fields of an instruction as its encoding holds them; an event has none. -/
def fieldsOf (h : Hdr) : Instr → Option Fields
  | .nop => some (Fields.empty h 0x01 0)
  | .add ty a b c => some { Fields.empty h 0x02 0 with ty := ty.code, a := a.code, b := b.code, c := c.code }
  | .sub ty a b c => some { Fields.empty h 0x02 1 with ty := ty.code, a := a.code, b := b.code, c := c.code }
  | .mul ty a b c => some { Fields.empty h 0x02 2 with ty := ty.code, a := a.code, b := b.code, c := c.code }
  | .mulh ty a b c => some { Fields.empty h 0x02 3 with ty := ty.code, a := a.code, b := b.code, c := c.code }
  | .div ty a b c => some { Fields.empty h 0x02 4 with ty := ty.code, a := a.code, b := b.code, c := c.code }
  | .rem ty a b c => some { Fields.empty h 0x02 5 with ty := ty.code, a := a.code, b := b.code, c := c.code }
  | .min ty a b c => some { Fields.empty h 0x02 6 with ty := ty.code, a := a.code, b := b.code, c := c.code }
  | .max ty a b c => some { Fields.empty h 0x02 7 with ty := ty.code, a := a.code, b := b.code, c := c.code }
  | .abs ty a b => some { Fields.empty h 0x02 8 with ty := ty.code, a := a.code, b := b.code }
  | .addImm ty a b imm => some { Fields.empty h 0x03 0 with ty := ty.code, a := a.code, b := b.code, imm := rawI h.len imm }
  | .subImm ty a b imm => some { Fields.empty h 0x03 1 with ty := ty.code, a := a.code, b := b.code, imm := rawI h.len imm }
  | .mulImm ty a b imm => some { Fields.empty h 0x03 2 with ty := ty.code, a := a.code, b := b.code, imm := rawI h.len imm }
  | .minImm ty a b imm => some { Fields.empty h 0x03 6 with ty := ty.code, a := a.code, b := b.code, imm := rawI h.len imm }
  | .maxImm ty a b imm => some { Fields.empty h 0x03 7 with ty := ty.code, a := a.code, b := b.code, imm := rawI h.len imm }
  | .and ty a b c => some { Fields.empty h 0x04 0 with ty := ty.code, a := a.code, b := b.code, c := c.code }
  | .or ty a b c => some { Fields.empty h 0x04 1 with ty := ty.code, a := a.code, b := b.code, c := c.code }
  | .xor ty a b c => some { Fields.empty h 0x04 2 with ty := ty.code, a := a.code, b := b.code, c := c.code }
  | .andn ty a b c => some { Fields.empty h 0x04 3 with ty := ty.code, a := a.code, b := b.code, c := c.code }
  | .orn ty a b c => some { Fields.empty h 0x04 4 with ty := ty.code, a := a.code, b := b.code, c := c.code }
  | .xnor ty a b c => some { Fields.empty h 0x04 5 with ty := ty.code, a := a.code, b := b.code, c := c.code }
  | .andImm ty a b imm => some { Fields.empty h 0x05 0 with ty := ty.code, a := a.code, b := b.code, imm := rawI h.len imm }
  | .orImm ty a b imm => some { Fields.empty h 0x05 1 with ty := ty.code, a := a.code, b := b.code, imm := rawI h.len imm }
  | .xorImm ty a b imm => some { Fields.empty h 0x05 2 with ty := ty.code, a := a.code, b := b.code, imm := rawI h.len imm }
  | .sll ty a b c => some { Fields.empty h 0x06 0 with ty := ty.code, a := a.code, b := b.code, c := c.code }
  | .srl ty a b c => some { Fields.empty h 0x06 1 with ty := ty.code, a := a.code, b := b.code, c := c.code }
  | .sra ty a b c => some { Fields.empty h 0x06 2 with ty := ty.code, a := a.code, b := b.code, c := c.code }
  | .rol ty a b c => some { Fields.empty h 0x06 3 with ty := ty.code, a := a.code, b := b.code, c := c.code }
  | .ror ty a b c => some { Fields.empty h 0x06 4 with ty := ty.code, a := a.code, b := b.code, c := c.code }
  | .sllImm ty a b imm => some { Fields.empty h 0x07 0 with ty := ty.code, a := a.code, b := b.code, imm := rawI h.len imm }
  | .srlImm ty a b imm => some { Fields.empty h 0x07 1 with ty := ty.code, a := a.code, b := b.code, imm := rawI h.len imm }
  | .sraImm ty a b imm => some { Fields.empty h 0x07 2 with ty := ty.code, a := a.code, b := b.code, imm := rawI h.len imm }
  | .rolImm ty a b imm => some { Fields.empty h 0x07 3 with ty := ty.code, a := a.code, b := b.code, imm := rawI h.len imm }
  | .rorImm ty a b imm => some { Fields.empty h 0x07 4 with ty := ty.code, a := a.code, b := b.code, imm := rawI h.len imm }
  | .bext ty a b c d => some { Fields.empty h 0x08 0 with ty := ty.code, a := a.code, b := b.code, c := c.code, d := d.code }
  | .bextz ty a b c d => some { Fields.empty h 0x08 1 with ty := ty.code, a := a.code, b := b.code, c := c.code, d := d.code }
  | .bins ty a b c d => some { Fields.empty h 0x08 2 with ty := ty.code, a := a.code, b := b.code, c := c.code, d := d.code }
  | .clz ty a b => some { Fields.empty h 0x08 3 with ty := ty.code, a := a.code, b := b.code }
  | .ctz ty a b => some { Fields.empty h 0x08 4 with ty := ty.code, a := a.code, b := b.code }
  | .popc ty a b => some { Fields.empty h 0x08 5 with ty := ty.code, a := a.code, b := b.code }
  | .bswap ty a b => some { Fields.empty h 0x08 6 with ty := ty.code, a := a.code, b := b.code }
  | .lea a b c isc => some { Fields.empty h 0x09 0 with ty := Ty.i64.code, a := a.code, b := b.code, c := c.code, idx := 8 * isc.toNat }
  | .cmpEq ty a b c => some { Fields.empty h 0x0A 0 with ty := ty.code, a := a.toNat, b := b.code, c := c.code }
  | .cmpNe ty a b c => some { Fields.empty h 0x0A 1 with ty := ty.code, a := a.toNat, b := b.code, c := c.code }
  | .cmpLt ty a b c => some { Fields.empty h 0x0A 2 with ty := ty.code, a := a.toNat, b := b.code, c := c.code }
  | .cmpLe ty a b c => some { Fields.empty h 0x0A 3 with ty := ty.code, a := a.toNat, b := b.code, c := c.code }
  | .cmpGt ty a b c => some { Fields.empty h 0x0A 4 with ty := ty.code, a := a.toNat, b := b.code, c := c.code }
  | .cmpGe ty a b c => some { Fields.empty h 0x0A 5 with ty := ty.code, a := a.toNat, b := b.code, c := c.code }
  | .cmpEqImm ty a b imm => some { Fields.empty h 0x0B 0 with ty := ty.code, a := a.toNat, b := b.code, imm := rawI h.len imm }
  | .cmpNeImm ty a b imm => some { Fields.empty h 0x0B 1 with ty := ty.code, a := a.toNat, b := b.code, imm := rawI h.len imm }
  | .cmpLtImm ty a b imm => some { Fields.empty h 0x0B 2 with ty := ty.code, a := a.toNat, b := b.code, imm := rawI h.len imm }
  | .cmpLeImm ty a b imm => some { Fields.empty h 0x0B 3 with ty := ty.code, a := a.toNat, b := b.code, imm := rawI h.len imm }
  | .cmpGtImm ty a b imm => some { Fields.empty h 0x0B 4 with ty := ty.code, a := a.toNat, b := b.code, imm := rawI h.len imm }
  | .cmpGeImm ty a b imm => some { Fields.empty h 0x0B 5 with ty := ty.code, a := a.toNat, b := b.code, imm := rawI h.len imm }
  | .pand a b c => some { Fields.empty h 0x0C 0 with a := a.toNat, b := b.toNat, c := c.toNat }
  | .por a b c => some { Fields.empty h 0x0C 1 with a := a.toNat, b := b.toNat, c := c.toNat }
  | .pxor a b c => some { Fields.empty h 0x0C 2 with a := a.toNat, b := b.toNat, c := c.toNat }
  | .pandn a b c => some { Fields.empty h 0x0C 3 with a := a.toNat, b := b.toNat, c := c.toNat }
  | .pnot a b => some { Fields.empty h 0x0C 4 with a := a.toNat, b := b.toNat }
  | .sel a b c d => some { Fields.empty h 0x0D 0 with ty := Ty.b64.code, a := a.code, b := b.toNat, c := c.code, d := d.code }
  | .movXX a b => some { Fields.empty h 0x0E 0 with ty := Ty.b64.code, a := a.code, b := b.code }
  | .movXP a b => some { Fields.empty h 0x0E 1 with ty := Ty.b64.code, a := a.code, b := b.toNat }
  | .movPX a b => some { Fields.empty h 0x0E 2 with ty := Ty.b64.code, a := a.toNat, b := b.code }
  | .li a imm => some { Fields.empty h 0x0F 0 with a := a.code, imm := rawL h.len imm }
  | .khash a b => some { Fields.empty h 0x10 0 with a := a.code, b := b.code }
  | .br a imm => some { Fields.empty h 0x18 0 with a := a.toNat, imm := rawL h.len imm }
  | .brn a imm => some { Fields.empty h 0x18 1 with a := a.toNat, imm := rawL h.len imm }
  | .jr b => some { Fields.empty h 0x19 0 with b := b.code }
  | .call a imm => some { Fields.empty h 0x1A 0 with a := a.code, imm := rawL h.len imm }
  | .callr a b => some { Fields.empty h 0x1B 0 with a := a.code, b := b.code }
  | .ret b => some { Fields.empty h 0x1B 1 with b := b.code }
  | .loop a imm => some { Fields.empty h 0x1C 0 with a := a.code, imm := rawI h.len imm }
  | .rep count mask => some { Fields.empty h 0x1D 0 with count := count.toNat, mask := mask.toNat }
  | .ixset b imm => some { Fields.empty h 0x1E 0 with b := b.code, imm := rawI h.len imm }
  | .ixadd b imm => some { Fields.empty h 0x1E 1 with b := b.code, imm := rawI h.len imm }
  | .ixget a => some { Fields.empty h 0x1E 2 with a := a.code }
  | .mfts a b => some { Fields.empty h 0x1F 0 with a := a.code, b := b.code }
  | .mtts a b => some { Fields.empty h 0x1F 1 with a := a.code, b := b.code }
  | .rdcyc a => some { Fields.empty h 0x20 0 with a := a.code }
  | .brk imm => some { Fields.empty h 0x21 0 with imm := rawL h.len imm }
  | .trap imm => some { Fields.empty h 0x22 0 with imm := rawL h.len imm }
  | .ld ty a b imm => some { Fields.empty h 0x40 0 with ty := ty.code, a := a.code, b := b.code, imm := rawI h.len imm }
  | .ldIndexed ty a b c isc => some { Fields.empty h 0x41 0 with ty := ty.code, a := a.code, b := b.code, c := c.code, idx := 8 * isc.toNat }
  | .ldLs ty a b imm => some { Fields.empty h 0x42 0 with ty := ty.code, a := a.code, b := b.code, imm := rawI h.len imm }
  | .ldHandleDisp ty a b imm => some { Fields.empty h 0x43 0 with ty := ty.code, a := a.code, b := b.code, imm := rawI h.len imm }
  | .ldHandleReg ty a b c => some { Fields.empty h 0x43 1 with ty := ty.code, a := a.code, b := b.code, c := c.code }
  | .st ty op t a b imm => some { Fields.empty h 0x44 0 with ty := ty.code, op := op.code, t := t, a := a.code, b := b.code, imm := rawI h.len imm }
  | .stIndexed ty op t a b c isc => some { Fields.empty h 0x45 0 with ty := ty.code, op := op.code, t := t, a := a.code, b := b.code, c := c.code, idx := 8 * isc.toNat }
  | .stLs ty a b imm => some { Fields.empty h 0x46 0 with ty := ty.code, a := a.code, b := b.code, imm := rawI h.len imm }
  | .stHandleDisp ty a b imm => some { Fields.empty h 0x47 0 with ty := ty.code, a := a.code, b := b.code, imm := rawI h.len imm }
  | .stHandleReg ty a b c => some { Fields.empty h 0x47 1 with ty := ty.code, a := a.code, b := b.code, c := c.code }
  | .fetch ty op a b c => some { Fields.empty h 0x48 0 with ty := ty.code, op := op.code, a := a.code, b := b.code, c := c.code }
  | .gather ty a b c idx => some { Fields.empty h 0x49 0 with ty := ty.code, a := a.code, b := b.code, c := c.code, idx := idx.iw.toNat + 4 * idx.is.toNat + 8 * idx.isc.toNat }
  | .scatter ty op t a b c idx => some { Fields.empty h 0x4A 0 with ty := ty.code, op := op.code, t := t, a := a.code, b := b.code, c := c.code, idx := idx.iw.toNat + 4 * idx.is.toNat + 8 * idx.isc.toNat }
  | .ldt ty a b c => some { Fields.empty h 0x4B 0 with ty := ty.code, a := a.code, b := b.code, c := c.code }
  | .unpk ty ty2 rm a b c => some { Fields.empty h 0x4C 0 with ty := ty.code, rm := rm.code, ty2 := ty2.code, a := a.code, b := b.code, c := c.code }
  | .prefetch b imm => some { Fields.empty h 0x4D 0 with b := b.code, imm := rawI h.len imm }
  | .drain sc b c => some { Fields.empty h 0x4E 0 with sc := sc.code, b := b.code, c := c.code }
  | .drainApply sc b c => some { Fields.empty h 0x4E 1 with sc := sc.code, b := b.code, c := c.code }
  | .commit => some (Fields.empty h 0x50 0)
  | .fenceRel sc => some { Fields.empty h 0x51 0 with sc := sc.code }
  | .fenceAcq sc => some { Fields.empty h 0x51 1 with sc := sc.code }
  | .fenceAr sc => some { Fields.empty h 0x51 2 with sc := sc.code }
  | .fenceSc sc => some { Fields.empty h 0x51 3 with sc := sc.code }
  | .fenceX ea eb => some { Fields.empty h 0x51 4 with imm := ea.code + 8 * eb.code }
  | .bar sc b imm => some { Fields.empty h 0x52 0 with sc := sc.code, b := b.code, imm := imm.toNat }
  | .hgive b c => some { Fields.empty h 0x53 0 with b := b.code, c := c.code }
  | .htake a b => some { Fields.empty h 0x53 1 with a := a.code, b := b.code }
  | .vmodeShort => some (Fields.empty h 0x70 0)
  | .vmodeLong => some (Fields.empty h 0x70 1)
  | .vaddF ty rm a b c => some { Fields.empty h 0x71 0 with ty := ty.code, rm := rm.code, a := a.code, b := b.code, c := c.code }
  | .vsubF ty rm a b c => some { Fields.empty h 0x71 1 with ty := ty.code, rm := rm.code, a := a.code, b := b.code, c := c.code }
  | .vmulF ty rm a b c => some { Fields.empty h 0x71 2 with ty := ty.code, rm := rm.code, a := a.code, b := b.code, c := c.code }
  | .vdiv ty rm a b c => some { Fields.empty h 0x71 3 with ty := ty.code, rm := rm.code, a := a.code, b := b.code, c := c.code }
  | .vminF ty a b c => some { Fields.empty h 0x71 4 with ty := ty.code, a := a.code, b := b.code, c := c.code }
  | .vmaxF ty a b c => some { Fields.empty h 0x71 5 with ty := ty.code, a := a.code, b := b.code, c := c.code }
  | .vabsF ty a b => some { Fields.empty h 0x71 6 with ty := ty.code, a := a.code, b := b.code }
  | .vneg ty a b => some { Fields.empty h 0x71 7 with ty := ty.code, a := a.code, b := b.code }
  | .vsqrt ty rm a b => some { Fields.empty h 0x71 8 with ty := ty.code, rm := rm.code, a := a.code, b := b.code }
  | .vfma ty rm a b c d => some { Fields.empty h 0x72 0 with ty := ty.code, rm := rm.code, a := a.code, b := b.code, c := c.code, d := d.code }
  | .vfms ty rm a b c d => some { Fields.empty h 0x72 1 with ty := ty.code, rm := rm.code, a := a.code, b := b.code, c := c.code, d := d.code }
  | .vfnma ty rm a b c d => some { Fields.empty h 0x72 2 with ty := ty.code, rm := rm.code, a := a.code, b := b.code, c := c.code, d := d.code }
  | .vaddI ty a b c => some { Fields.empty h 0x73 0 with ty := ty.code, a := a.code, b := b.code, c := c.code }
  | .vsubI ty a b c => some { Fields.empty h 0x73 1 with ty := ty.code, a := a.code, b := b.code, c := c.code }
  | .vmulI ty a b c => some { Fields.empty h 0x73 2 with ty := ty.code, a := a.code, b := b.code, c := c.code }
  | .vminI ty a b c => some { Fields.empty h 0x73 3 with ty := ty.code, a := a.code, b := b.code, c := c.code }
  | .vmaxI ty a b c => some { Fields.empty h 0x73 4 with ty := ty.code, a := a.code, b := b.code, c := c.code }
  | .vabsI ty a b => some { Fields.empty h 0x73 5 with ty := ty.code, a := a.code, b := b.code }
  | .vadds ty a b c => some { Fields.empty h 0x73 6 with ty := ty.code, a := a.code, b := b.code, c := c.code }
  | .vsubs ty a b c => some { Fields.empty h 0x73 7 with ty := ty.code, a := a.code, b := b.code, c := c.code }
  | .vand ty a b c => some { Fields.empty h 0x73 8 with ty := ty.code, a := a.code, b := b.code, c := c.code }
  | .vor ty a b c => some { Fields.empty h 0x73 9 with ty := ty.code, a := a.code, b := b.code, c := c.code }
  | .vxor ty a b c => some { Fields.empty h 0x73 10 with ty := ty.code, a := a.code, b := b.code, c := c.code }
  | .vsll ty a b c => some { Fields.empty h 0x73 11 with ty := ty.code, a := a.code, b := b.code, c := c.code }
  | .vsrl ty a b c => some { Fields.empty h 0x73 12 with ty := ty.code, a := a.code, b := b.code, c := c.code }
  | .vsra ty a b c => some { Fields.empty h 0x73 13 with ty := ty.code, a := a.code, b := b.code, c := c.code }
  | .vexp ty rm a b => some { Fields.empty h 0x74 0 with ty := ty.code, rm := rm.code, a := a.code, b := b.code }
  | .vlog ty rm a b => some { Fields.empty h 0x74 1 with ty := ty.code, rm := rm.code, a := a.code, b := b.code }
  | .vrcp ty rm a b => some { Fields.empty h 0x74 2 with ty := ty.code, rm := rm.code, a := a.code, b := b.code }
  | .vrsqrt ty rm a b => some { Fields.empty h 0x74 3 with ty := ty.code, rm := rm.code, a := a.code, b := b.code }
  | .vtanh ty rm a b => some { Fields.empty h 0x74 4 with ty := ty.code, rm := rm.code, a := a.code, b := b.code }
  | .vsig ty rm a b => some { Fields.empty h 0x74 5 with ty := ty.code, rm := rm.code, a := a.code, b := b.code }
  | .vcmpEq ty a b c => some { Fields.empty h 0x75 0 with ty := ty.code, a := a.code, b := b.code, c := c.code }
  | .vcmpNe ty a b c => some { Fields.empty h 0x75 1 with ty := ty.code, a := a.code, b := b.code, c := c.code }
  | .vcmpLt ty a b c => some { Fields.empty h 0x75 2 with ty := ty.code, a := a.code, b := b.code, c := c.code }
  | .vcmpLe ty a b c => some { Fields.empty h 0x75 3 with ty := ty.code, a := a.code, b := b.code, c := c.code }
  | .vcmpGt ty a b c => some { Fields.empty h 0x75 4 with ty := ty.code, a := a.code, b := b.code, c := c.code }
  | .vcmpGe ty a b c => some { Fields.empty h 0x75 5 with ty := ty.code, a := a.code, b := b.code, c := c.code }
  | .vsel ty a b c d => some { Fields.empty h 0x76 0 with ty := ty.code, a := a.code, b := b.code, c := c.code, d := d.code }
  | .vperm ty a b c => some { Fields.empty h 0x77 0 with ty := ty.code, a := a.code, b := b.code, c := c.code }
  | .vshuf ty a b c d => some { Fields.empty h 0x77 1 with ty := ty.code, a := a.code, b := b.code, c := c.code, d := d.code }
  | .vbcast ty a b => some { Fields.empty h 0x77 2 with ty := ty.code, a := a.code, b := b.code }
  | .vrot ty a b c => some { Fields.empty h 0x77 3 with ty := ty.code, a := a.code, b := b.code, c := c.code }
  | .vredadd ty rm a b => some { Fields.empty h 0x78 0 with ty := ty.code, rm := rm.code, a := a.code, b := b.code }
  | .vredmax ty a b => some { Fields.empty h 0x78 1 with ty := ty.code, a := a.code, b := b.code }
  | .vredmin ty a b => some { Fields.empty h 0x78 2 with ty := ty.code, a := a.code, b := b.code }
  | .cvt ty ty2 rm a b c => some { Fields.empty h 0x79 0 with ty := ty.code, rm := rm.code, ty2 := ty2.code, a := a.code, b := b.code, c := c.code }
  | .cvtn ty2 rm a b c d => some { Fields.empty h 0x79 1 with ty := Ty.b8.code, rm := rm.code, ty2 := ty2.code, a := a.code, b := b.code, c := c.code, d := d.code }
  | .vquant ty2 rm a b c d => some { Fields.empty h 0x7A 0 with ty := Ty.b8.code, rm := rm.code, ty2 := ty2.code, a := a.code, b := b.code, c := c.code, d := d.code }
  | .xmax ty a b => some { Fields.empty h 0x7B 0 with ty := ty.code, a := a.code, b := b.code }
  | .sbupd b c d => some { Fields.empty h 0x7C 0 with ty := Ty.f32.code, b := b.code, c := c.code, d := d.code }
  | .vhash ty a b c => some { Fields.empty h 0x7D 0 with ty := ty.code, a := a.code, b := b.code, c := c.code }
  | .vbcmp a b c d => some { Fields.empty h 0x7D 1 with ty := Ty.b8.code, a := a.code, b := b.code, c := c.code, d := d.code }
  | .vmov a b => some { Fields.empty h 0x7E 0 with ty := Ty.b64.code, a := a.code, b := b.code }
  | .vins ty a b c => some { Fields.empty h 0x7E 1 with ty := ty.code, a := a.code, b := b.code, c := c.code }
  | .vext ty a b c => some { Fields.empty h 0x7E 2 with ty := ty.code, a := a.code, b := b.code, c := c.code }
  | .mma ty ty2 a b c d => some { Fields.empty h 0xA0 0 with ty := ty.code, ty2 := ty2.code, a := a.toNat, b := b.code, c := c.code, d := d.code }
  | .mmas ty2 a b c d e imm => some { Fields.empty h 0xA1 0 with ty := Ty.f32.code, ty2 := ty2.code, a := a.toNat, b := b.code, c := c.code, d := d.code, e := e.code, imm := imm.toNat }
  | .mmt ty a b c d e f imm => some { Fields.empty h 0xA2 0 with ty := ty.code, a := a.toNat, b := b.code, c := c.code, d := d.code, e := e.code, f := f.code, imm := imm.toNat }
  | .azero a => some { Fields.empty h 0xA3 0 with a := a.toNat }
  | .aspill a b => some { Fields.empty h 0xA3 1 with a := a.code, b := b.toNat }
  | .afill a b => some { Fields.empty h 0xA3 2 with a := a.toNat, b := b.code }
  | .aadd ty rm a b c => some { Fields.empty h 0xA3 3 with ty := ty.code, rm := rm.code, a := a.toNat, b := b.toNat, c := c.toNat }
  | .aread ty pair rm a b c d => some { Fields.empty h 0xA3 4 with ty := ty.code, rm := rm.code, ty2 := if pair then Ty.f64.code else 0, a := a.code, b := b.toNat, c := c.code, d := d.code }
  | .skset b c => some { Fields.empty h 0xA4 0 with b := b.code, c := c.code }
  | .skget a => some { Fields.empty h 0xA4 1 with a := a.code }
  | .topk ty a b c d => some { Fields.empty h 0xA5 0 with ty := ty.code, a := a.code, b := b.code, c := c.code, d := d.code }
  | .mvh ty ty2 a b c d e imm => some { Fields.empty h 0xA6 0 with ty := ty.code, ty2 := ty2.code, a := a.toNat, b := b.code, c := c.code, d := d.code, e := e.code, imm := imm.toNat }
  | .sbld b c => some { Fields.empty h 0xA7 0 with b := b.code, c := c.code }
  | .sbst b c => some { Fields.empty h 0xA7 1 with b := b.code, c := c.code }
  | .sopen ty a b => some { Fields.empty h 0xC0 0 with ty := ty.code, a := 96 + a.toNat, b := b.code }
  | .sadv a b => some { Fields.empty h 0xC0 1 with a := 96 + a.toNat, b := b.code }
  | .stend a b => some { Fields.empty h 0xC0 2 with a := a.toNat, b := 96 + b.toNat }
  | .sclose a => some { Fields.empty h 0xC0 3 with a := 96 + a.toNat }
  | .fopen ty a b => some { Fields.empty h 0xC0 4 with ty := ty.code, a := 96 + a.toNat, b := b.code }
  | .cpyLl a b c d e imm => some { Fields.empty h 0xC1 0 with a := a.toNat, b := b.code, c := c.code, d := d.code, e := e.code, imm := imm.toNat }
  | .cpyGl a b c d e imm => some { Fields.empty h 0xC1 1 with a := a.toNat, b := b.code, c := c.code, d := d.code, e := e.code, imm := imm.toNat }
  | .cpyLg ty op t a b c d e imm => some { Fields.empty h 0xC1 2 with ty := ty.code, op := op.code, t := t, a := a.toNat, b := b.code, c := c.code, d := d.code, e := e.code, imm := imm.toNat }
  | .cpyDist a c d e imm => some { Fields.empty h 0xC1 3 with a := a.toNat, c := c.code, d := d.code, e := e.code, imm := imm.toNat }
  | .cpwp a b => some { Fields.empty h 0xC2 0 with a := a.code, b := b.toNat }
  | .cpwait a b => some { Fields.empty h 0xC2 1 with a := a.code, b := b.toNat }
  | .dpat b c => some { Fields.empty h 0xC2 2 with b := b.toNat, c := c.code }
  | .get a b c d e => some { Fields.empty h 0xC3 0 with a := a.code, b := b.code, c := c.code, d := d.code, e := e.code }
  | .put ty op a b c d e => some { Fields.empty h 0xC3 1 with ty := ty.code, op := op.code, a := a.code, b := b.code, c := c.code, d := d.code, e := e.code }
  | .coll ty op a b c d e f => some { Fields.empty h 0xC4 0 with ty := ty.code, op := op.code, a := a.code, b := b.code, c := c.code, d := d.code, e := e.code, f := f.code }
  | .done => some (Fields.empty h 0xD0 0)
  | .yield => some (Fields.empty h 0xD0 1)
  | .wfw => some (Fields.empty h 0xD0 2)
  | .lend => some (Fields.empty h 0xD0 3)
  | .post a b c => some { Fields.empty h 0xD1 0 with a := a.code, b := b.code, c := c.code }
  | .spawn a b c => some { Fields.empty h 0xD1 1 with a := a.code, b := b.code, c := c.code }
  | .ctwait b => some { Fields.empty h 0xD2 0 with b := b.code }
  | .ctadd b c d => some { Fields.empty h 0xD2 1 with b := b.code, c := c.code, d := d.code }
  | .ctcancel b => some { Fields.empty h 0xD2 2 with b := b.code }
  | .ctread a b c => some { Fields.empty h 0xD2 3 with a := a.code, b := b.code, c := c.code }
  | .msend b c d => some { Fields.empty h 0xD3 0 with b := b.code, c := c.code, d := d.code }
  | .mrecv a b c => some { Fields.empty h 0xD3 1 with a := a.code, b := b.code, c := c.code }
  | .tret => some (Fields.empty h 0xD4 0)
  | .fqrd a b => some { Fields.empty h 0xD4 1 with a := a.code, b := b.code }
  | .mset a b => some { Fields.empty h 0xD5 0 with a := a.toNat, b := b.code }
  | .mref a b c => some { Fields.empty h 0xD5 1 with a := a.toNat, b := b.code, c := c.code }
  | .mclr a => some { Fields.empty h 0xD5 2 with a := a.toNat }
  | .mrd a b c => some { Fields.empty h 0xD5 3 with a := a.code, b := b.toNat, c := c.code }
  | .hset a b c => some { Fields.empty h 0xD6 0 with ty := Ty.f64.code, a := a.toNat, b := b.code, c := c.code }
  | .hmul rm a b c => some { Fields.empty h 0xD6 1 with ty := Ty.f64.code, rm := rm.code, a := a.toNat, b := b.code, c := c.code }
  | .hdiv rm a b c => some { Fields.empty h 0xD6 2 with ty := Ty.f64.code, rm := rm.code, a := a.toNat, b := b.code, c := c.code }
  | .hprod rm a b c => some { Fields.empty h 0xD6 3 with ty := Ty.f64.code, rm := rm.code, a := a.toNat, b := b.toNat, c := c.toNat }
  | .hscale a b => some { Fields.empty h 0xD6 4 with ty := Ty.f64.code, a := a.toNat, b := b.code }
  | .hrd rm a b c => some { Fields.empty h 0xD6 5 with ty := Ty.f64.code, rm := rm.code, a := a.code, b := b.toNat, c := c.code }
  | .hwr rm a b c => some { Fields.empty h 0xD6 6 with ty := Ty.f64.code, rm := rm.code, a := a.toNat, b := b.code, c := c.code }
  | .hdeg a b => some { Fields.empty h 0xD6 7 with ty := Ty.f64.code, a := a.toNat, b := b.code }
  | .svCtab b c d => some { Fields.empty h 0xE0 0 with b := b.code, c := c.code, d := d.code }
  | .svQrec b c => some { Fields.empty h 0xE0 1 with b := b.code, c := c.code }
  | .svQprio b c => some { Fields.empty h 0xE0 2 with b := b.code, c := c.code }
  | .svGstart b c => some { Fields.empty h 0xE0 3 with b := b.code, c := c.code }
  | .svTeardown b => some { Fields.empty h 0xE0 4 with b := b.code }
  | .svRht b c => some { Fields.empty h 0xE0 5 with b := b.code, c := c.code }
  | .svDph b c => some { Fields.empty h 0xE0 6 with b := b.code, c := c.code }
  | .svPtbr b c => some { Fields.empty h 0xE0 7 with b := b.code, c := c.code }
  | .svPtw b c => some { Fields.empty h 0xE0 8 with b := b.code, c := c.code }
  | .svTinv b c => some { Fields.empty h 0xE0 9 with b := b.code, c := c.code }
  | .svPres b c => some { Fields.empty h 0xE0 10 with b := b.code, c := c.code }
  | .svPref b c => some { Fields.empty h 0xE0 11 with b := b.code, c := c.code }
  | .svMigr b c d => some { Fields.empty h 0xE0 12 with b := b.code, c := c.code, d := d.code }
  | .svHint b c d => some { Fields.empty h 0xE0 13 with b := b.code, c := c.code, d := d.code }
  | .svFq b c d => some { Fields.empty h 0xE0 14 with b := b.code, c := c.code, d := d.code }
  | .svSfq b c => some { Fields.empty h 0xE0 15 with b := b.code, c := c.code }
  | .svFlue c => some { Fields.empty h 0xE0 16 with c := c.code }
  | .svVac c d => some { Fields.empty h 0xE0 17 with c := c.code, d := d.code }
  | .svVrel b => some { Fields.empty h 0xE0 18 with b := b.code }
  | .svPdk b c => some { Fields.empty h 0xE0 19 with b := b.code, c := c.code }
  | .svKill b => some { Fields.empty h 0xE0 20 with b := b.code }
  | .svPrel b => some { Fields.empty h 0xE0 21 with b := b.code }
  | .svLspr b c d => some { Fields.empty h 0xE0 22 with b := b.code, c := c.code, d := d.code }
  | .svSpb b c => some { Fields.empty h 0xE0 23 with b := b.code, c := c.code }
  | .svHtab b c d => some { Fields.empty h 0xE0 24 with b := b.code, c := c.code, d := d.code }
  | .svYov b c d => some { Fields.empty h 0xE0 25 with b := b.code, c := c.code, d := d.code }
  | .powerOn => none
  | .bootStepComplete => none
  | .powerOff => none
  | .issueThrottlingEntry => none
  | .issueThrottlingExit => none
  | .overtempPowerOff => none
  | .flitReceive => none
  | .stopFlagClear => none
  | .ackReceive => none
  | .nakReceive => none
  | .ackTimeout => none
  | .alternateResend => none
  | .portUp => none
  | .putUpdateReceive => none
  | .getRequestServe => none
  | .getRowWrite => none
  | .putAckReceive => none
  | .negativeAckReceive => none
  | .spawnArrival => none
  | .spawnAnswerReceive => none
  | .collectiveMessageArrival => none
  | .collectiveReceiveStep => none
  | .poolWindowAccess => none
  | .memoryWindowWrite => none
  | .memoryWindowRead => none
  | .watchArm => none
  | .registerWrite => none
  | .quote => none
  | .idcert => none
  | .keyxch => none
  | .keyimport => none
  | .keygen => none
  | .keyerase => none
  | .liferead => none
  | .redfishRequest => none
  | .lifetimeRecordWrite => none
  | .dispatcherCycle => none
  | .heldInsertEntry => none
  | .recordArrivalAtManger => none
  | .mangerCancel => none
  | .counterOperation => none
  | .nodeReadyInsert => none
  | .deferredPhaseClose => none
  | .vacateGraceExpiry => none
  | .rectangleEmpty => none
  | .exactRestore => none
  | .teardownComplete => none
  | .windowHashCompare => none
  | .barrelIssue => none
  | .coprocessorDispatch => none
  | .coprocessorComplete => none
  | .copFaultDetect => none
  | .groupEnd => none
  | .mmtChunkComplete => none
  | .longContextGrant => none
  | .scaleSetArrival => none
  | .xmaxExchangeComplete => none
  | .mailboxArrival => none
  | .mailboxRetry => none
  | .copyBlockDelivery => none
  | .copyPendResume => none
  | .stallHighwaterMoveout => none
  | .stallAgeMoveout => none
  | .shedAgeMoveout => none
  | .shedFillMoveout => none
  | .shedMoveRetry => none
  | .yardEntry => none
  | .movedReroute => none
  | .yardFillApply => none
  | .yardSpill => none
  | .yardRefill => none
  | .yardFull => none
  | .yardFullClear => none
  | .releaseApply => none
  | .commitPrepare => none
  | .prepareAnswer => none
  | .commitFlip => none
  | .flipAcknowledge => none
  | .taskAbort => none
  | .abortNoticeArrival => none
  | .sosAcknowledge => none
  | .loadResultReturn => none
  | .fetchHomeStep => none
  | .mergeFaultRecordArrival => none
  | .pageFaultService => none
  | .migrationComplete => none
  | .fluePageVisit => none
  | .fluePassEnd => none
  | .sectorRead => none
  | .scrub => none
  | .paddockKill => none
  | .paddockKillReport => none
  | .barrierGenerationOpen => none
  | .postArrival => none
  | .barrierArrival => none
  | .xmaxContributionArrival => none
  | .drainRequestArrival => none

/-- The scalar operands of an instruction in the order of their fields (R227 step 9). -/
def Instr.xregs : Instr → List XReg
  | .nop => []
  | .add _ a b c => [a, b, c]
  | .sub _ a b c => [a, b, c]
  | .mul _ a b c => [a, b, c]
  | .mulh _ a b c => [a, b, c]
  | .div _ a b c => [a, b, c]
  | .rem _ a b c => [a, b, c]
  | .min _ a b c => [a, b, c]
  | .max _ a b c => [a, b, c]
  | .abs _ a b => [a, b]
  | .addImm _ a b _ => [a, b]
  | .subImm _ a b _ => [a, b]
  | .mulImm _ a b _ => [a, b]
  | .minImm _ a b _ => [a, b]
  | .maxImm _ a b _ => [a, b]
  | .and _ a b c => [a, b, c]
  | .or _ a b c => [a, b, c]
  | .xor _ a b c => [a, b, c]
  | .andn _ a b c => [a, b, c]
  | .orn _ a b c => [a, b, c]
  | .xnor _ a b c => [a, b, c]
  | .andImm _ a b _ => [a, b]
  | .orImm _ a b _ => [a, b]
  | .xorImm _ a b _ => [a, b]
  | .sll _ a b c => [a, b, c]
  | .srl _ a b c => [a, b, c]
  | .sra _ a b c => [a, b, c]
  | .rol _ a b c => [a, b, c]
  | .ror _ a b c => [a, b, c]
  | .sllImm _ a b _ => [a, b]
  | .srlImm _ a b _ => [a, b]
  | .sraImm _ a b _ => [a, b]
  | .rolImm _ a b _ => [a, b]
  | .rorImm _ a b _ => [a, b]
  | .bext _ a b c d => [a, b, c, d]
  | .bextz _ a b c d => [a, b, c, d]
  | .bins _ a b c d => [a, b, c, d]
  | .clz _ a b => [a, b]
  | .ctz _ a b => [a, b]
  | .popc _ a b => [a, b]
  | .bswap _ a b => [a, b]
  | .lea a b c _ => [a, b, c]
  | .cmpEq _ _ b c => [b, c]
  | .cmpNe _ _ b c => [b, c]
  | .cmpLt _ _ b c => [b, c]
  | .cmpLe _ _ b c => [b, c]
  | .cmpGt _ _ b c => [b, c]
  | .cmpGe _ _ b c => [b, c]
  | .cmpEqImm _ _ b _ => [b]
  | .cmpNeImm _ _ b _ => [b]
  | .cmpLtImm _ _ b _ => [b]
  | .cmpLeImm _ _ b _ => [b]
  | .cmpGtImm _ _ b _ => [b]
  | .cmpGeImm _ _ b _ => [b]
  | .pand _ _ _ => []
  | .por _ _ _ => []
  | .pxor _ _ _ => []
  | .pandn _ _ _ => []
  | .pnot _ _ => []
  | .sel a _ c d => [a, c, d]
  | .movXX a b => [a, b]
  | .movXP a _ => [a]
  | .movPX _ b => [b]
  | .li a _ => [a]
  | .khash a b => [a, b]
  | .br _ _ => []
  | .brn _ _ => []
  | .jr b => [b]
  | .call a _ => [a]
  | .callr a b => [a, b]
  | .ret b => [b]
  | .loop a _ => [a]
  | .rep _ _ => []
  | .ixset b _ => [b]
  | .ixadd b _ => [b]
  | .ixget a => [a]
  | .mfts a _ => [a]
  | .mtts _ b => [b]
  | .rdcyc a => [a]
  | .brk _ => []
  | .trap _ => []
  | .ld _ a b _ => a.xregs ++ [b]
  | .ldIndexed _ a b c _ => a.xregs ++ [b, c]
  | .ldLs _ a b _ => a.xregs ++ [b]
  | .ldHandleDisp _ a b _ => a.xregs ++ [b]
  | .ldHandleReg _ a b c => a.xregs ++ [b, c]
  | .st _ _ _ a b _ => a.xregs ++ [b]
  | .stIndexed _ _ _ a b c _ => a.xregs ++ [b, c]
  | .stLs _ a b _ => a.xregs ++ [b]
  | .stHandleDisp _ a b _ => a.xregs ++ [b]
  | .stHandleReg _ a b c => a.xregs ++ [b, c]
  | .fetch _ _ a b c => [a, b, c]
  | .gather _ _ b _ _ => [b]
  | .scatter _ _ _ _ b _ _ => [b]
  | .ldt _ _ b c => [b, c]
  | .unpk _ _ _ _ _ c => [c]
  | .prefetch b _ => [b]
  | .drain _ b c => [b, c]
  | .drainApply _ b c => [b, c]
  | .commit => []
  | .fenceRel _ => []
  | .fenceAcq _ => []
  | .fenceAr _ => []
  | .fenceSc _ => []
  | .fenceX _ _ => []
  | .bar _ b _ => [b]
  | .hgive b c => [b, c]
  | .htake a b => [a, b]
  | .vmodeShort => []
  | .vmodeLong => []
  | .vaddF _ _ _ _ _ => []
  | .vsubF _ _ _ _ _ => []
  | .vmulF _ _ _ _ _ => []
  | .vdiv _ _ _ _ _ => []
  | .vminF _ _ _ _ => []
  | .vmaxF _ _ _ _ => []
  | .vabsF _ _ _ => []
  | .vneg _ _ _ => []
  | .vsqrt _ _ _ _ => []
  | .vfma _ _ _ _ _ _ => []
  | .vfms _ _ _ _ _ _ => []
  | .vfnma _ _ _ _ _ _ => []
  | .vaddI _ _ _ _ => []
  | .vsubI _ _ _ _ => []
  | .vmulI _ _ _ _ => []
  | .vminI _ _ _ _ => []
  | .vmaxI _ _ _ _ => []
  | .vabsI _ _ _ => []
  | .vadds _ _ _ _ => []
  | .vsubs _ _ _ _ => []
  | .vand _ _ _ _ => []
  | .vor _ _ _ _ => []
  | .vxor _ _ _ _ => []
  | .vsll _ _ _ _ => []
  | .vsrl _ _ _ _ => []
  | .vsra _ _ _ _ => []
  | .vexp _ _ _ _ => []
  | .vlog _ _ _ _ => []
  | .vrcp _ _ _ _ => []
  | .vrsqrt _ _ _ _ => []
  | .vtanh _ _ _ _ => []
  | .vsig _ _ _ _ => []
  | .vcmpEq _ _ _ _ => []
  | .vcmpNe _ _ _ _ => []
  | .vcmpLt _ _ _ _ => []
  | .vcmpLe _ _ _ _ => []
  | .vcmpGt _ _ _ _ => []
  | .vcmpGe _ _ _ _ => []
  | .vsel _ _ _ _ _ => []
  | .vperm _ _ _ _ => []
  | .vshuf _ _ _ _ _ => []
  | .vbcast _ _ b => [b]
  | .vrot _ _ _ c => [c]
  | .vredadd _ _ a _ => [a]
  | .vredmax _ a _ => [a]
  | .vredmin _ a _ => [a]
  | .cvt _ _ _ _ _ c => [c]
  | .cvtn _ _ _ _ c d => [c, d]
  | .vquant _ _ _ _ c d => [c, d]
  | .xmax _ a _ => [a]
  | .sbupd _ c d => [c, d]
  | .vhash _ _ _ c => [c]
  | .vbcmp a _ _ d => [a, d]
  | .vmov _ _ => []
  | .vins _ _ b c => [b, c]
  | .vext _ a _ c => [a, c]
  | .mma _ _ _ b c d => [b, c, d]
  | .mmas _ _ b c d e _ => [b, c, d, e]
  | .mmt _ _ b c d e f _ => [b, c, d, e, f]
  | .azero _ => []
  | .aspill a _ => [a]
  | .afill _ b => [b]
  | .aadd _ _ _ _ _ => []
  | .aread _ _ _ _ _ c d => [c, d]
  | .skset b c => [b, c]
  | .skget a => [a]
  | .topk _ a b c d => [a, b, c, d]
  | .mvh _ _ _ b c d e _ => [b, c, d, e]
  | .sbld b c => [b, c]
  | .sbst b c => [b, c]
  | .sopen _ _ b => [b]
  | .sadv _ b => [b]
  | .stend _ _ => []
  | .sclose _ => []
  | .fopen _ _ b => [b]
  | .cpyLl _ b c d e _ => [b, c, d, e]
  | .cpyGl _ b c d e _ => [b, c, d, e]
  | .cpyLg _ _ _ _ b c d e _ => [b, c, d, e]
  | .cpyDist _ c d e _ => [c, d, e]
  | .cpwp a _ => [a]
  | .cpwait a _ => [a]
  | .dpat _ c => [c]
  | .get a b c d e => [a, b, c, d, e]
  | .put _ _ a b c d e => [a, b, c, d, e]
  | .coll _ _ a b c d e f => [a, b, c, d, e, f]
  | .done => []
  | .yield => []
  | .wfw => []
  | .lend => []
  | .post a b c => [a, b, c]
  | .spawn a b c => [a, b, c]
  | .ctwait b => [b]
  | .ctadd b c d => [b, c, d]
  | .ctcancel b => [b]
  | .ctread a b c => [a, b, c]
  | .msend b c d => [b, c, d]
  | .mrecv a b c => [a, b, c]
  | .tret => []
  | .fqrd a b => [a, b]
  | .mset _ b => [b]
  | .mref _ b c => [b, c]
  | .mclr _ => []
  | .mrd a _ c => [a, c]
  | .hset _ b c => [b, c]
  | .hmul _ _ b c => [b, c]
  | .hdiv _ _ b c => [b, c]
  | .hprod _ _ _ _ => []
  | .hscale _ b => [b]
  | .hrd _ a _ c => [a, c]
  | .hwr _ _ b c => [b, c]
  | .hdeg _ b => [b]
  | .svCtab b c d => [b, c, d]
  | .svQrec b c => [b, c]
  | .svQprio b c => [b, c]
  | .svGstart b c => [b, c]
  | .svTeardown b => [b]
  | .svRht b c => [b, c]
  | .svDph b c => [b, c]
  | .svPtbr b c => [b, c]
  | .svPtw b c => [b, c]
  | .svTinv b c => [b, c]
  | .svPres b c => [b, c]
  | .svPref b c => [b, c]
  | .svMigr b c d => [b, c, d]
  | .svHint b c d => [b, c, d]
  | .svFq b c d => [b, c, d]
  | .svSfq b c => [b, c]
  | .svFlue c => [c]
  | .svVac c d => [c, d]
  | .svVrel b => [b]
  | .svPdk b c => [b, c]
  | .svKill b => [b]
  | .svPrel b => [b]
  | .svLspr b c d => [b, c, d]
  | .svSpb b c => [b, c]
  | .svHtab b c d => [b, c, d]
  | .svYov b c d => [b, c, d]
  | .powerOn => []
  | .bootStepComplete => []
  | .powerOff => []
  | .issueThrottlingEntry => []
  | .issueThrottlingExit => []
  | .overtempPowerOff => []
  | .flitReceive => []
  | .stopFlagClear => []
  | .ackReceive => []
  | .nakReceive => []
  | .ackTimeout => []
  | .alternateResend => []
  | .portUp => []
  | .putUpdateReceive => []
  | .getRequestServe => []
  | .getRowWrite => []
  | .putAckReceive => []
  | .negativeAckReceive => []
  | .spawnArrival => []
  | .spawnAnswerReceive => []
  | .collectiveMessageArrival => []
  | .collectiveReceiveStep => []
  | .poolWindowAccess => []
  | .memoryWindowWrite => []
  | .memoryWindowRead => []
  | .watchArm => []
  | .registerWrite => []
  | .quote => []
  | .idcert => []
  | .keyxch => []
  | .keyimport => []
  | .keygen => []
  | .keyerase => []
  | .liferead => []
  | .redfishRequest => []
  | .lifetimeRecordWrite => []
  | .dispatcherCycle => []
  | .heldInsertEntry => []
  | .recordArrivalAtManger => []
  | .mangerCancel => []
  | .counterOperation => []
  | .nodeReadyInsert => []
  | .deferredPhaseClose => []
  | .vacateGraceExpiry => []
  | .rectangleEmpty => []
  | .exactRestore => []
  | .teardownComplete => []
  | .windowHashCompare => []
  | .barrelIssue => []
  | .coprocessorDispatch => []
  | .coprocessorComplete => []
  | .copFaultDetect => []
  | .groupEnd => []
  | .mmtChunkComplete => []
  | .longContextGrant => []
  | .scaleSetArrival => []
  | .xmaxExchangeComplete => []
  | .mailboxArrival => []
  | .mailboxRetry => []
  | .copyBlockDelivery => []
  | .copyPendResume => []
  | .stallHighwaterMoveout => []
  | .stallAgeMoveout => []
  | .shedAgeMoveout => []
  | .shedFillMoveout => []
  | .shedMoveRetry => []
  | .yardEntry => []
  | .movedReroute => []
  | .yardFillApply => []
  | .yardSpill => []
  | .yardRefill => []
  | .yardFull => []
  | .yardFullClear => []
  | .releaseApply => []
  | .commitPrepare => []
  | .prepareAnswer => []
  | .commitFlip => []
  | .flipAcknowledge => []
  | .taskAbort => []
  | .abortNoticeArrival => []
  | .sosAcknowledge => []
  | .loadResultReturn => []
  | .fetchHomeStep => []
  | .mergeFaultRecordArrival => []
  | .pageFaultService => []
  | .migrationComplete => []
  | .fluePageVisit => []
  | .fluePassEnd => []
  | .sectorRead => []
  | .scrub => []
  | .paddockKill => []
  | .paddockKillReport => []
  | .barrierGenerationOpen => []
  | .postArrival => []
  | .barrierArrival => []
  | .xmaxContributionArrival => []
  | .drainRequestArrival => []

/-- The vector operands of an instruction in the order of their fields (R224, R80). -/
def Instr.vregs : Instr → List VReg
  | .nop => []
  | .add _ _ _ _ => []
  | .sub _ _ _ _ => []
  | .mul _ _ _ _ => []
  | .mulh _ _ _ _ => []
  | .div _ _ _ _ => []
  | .rem _ _ _ _ => []
  | .min _ _ _ _ => []
  | .max _ _ _ _ => []
  | .abs _ _ _ => []
  | .addImm _ _ _ _ => []
  | .subImm _ _ _ _ => []
  | .mulImm _ _ _ _ => []
  | .minImm _ _ _ _ => []
  | .maxImm _ _ _ _ => []
  | .and _ _ _ _ => []
  | .or _ _ _ _ => []
  | .xor _ _ _ _ => []
  | .andn _ _ _ _ => []
  | .orn _ _ _ _ => []
  | .xnor _ _ _ _ => []
  | .andImm _ _ _ _ => []
  | .orImm _ _ _ _ => []
  | .xorImm _ _ _ _ => []
  | .sll _ _ _ _ => []
  | .srl _ _ _ _ => []
  | .sra _ _ _ _ => []
  | .rol _ _ _ _ => []
  | .ror _ _ _ _ => []
  | .sllImm _ _ _ _ => []
  | .srlImm _ _ _ _ => []
  | .sraImm _ _ _ _ => []
  | .rolImm _ _ _ _ => []
  | .rorImm _ _ _ _ => []
  | .bext _ _ _ _ _ => []
  | .bextz _ _ _ _ _ => []
  | .bins _ _ _ _ _ => []
  | .clz _ _ _ => []
  | .ctz _ _ _ => []
  | .popc _ _ _ => []
  | .bswap _ _ _ => []
  | .lea _ _ _ _ => []
  | .cmpEq _ _ _ _ => []
  | .cmpNe _ _ _ _ => []
  | .cmpLt _ _ _ _ => []
  | .cmpLe _ _ _ _ => []
  | .cmpGt _ _ _ _ => []
  | .cmpGe _ _ _ _ => []
  | .cmpEqImm _ _ _ _ => []
  | .cmpNeImm _ _ _ _ => []
  | .cmpLtImm _ _ _ _ => []
  | .cmpLeImm _ _ _ _ => []
  | .cmpGtImm _ _ _ _ => []
  | .cmpGeImm _ _ _ _ => []
  | .pand _ _ _ => []
  | .por _ _ _ => []
  | .pxor _ _ _ => []
  | .pandn _ _ _ => []
  | .pnot _ _ => []
  | .sel _ _ _ _ => []
  | .movXX _ _ => []
  | .movXP _ _ => []
  | .movPX _ _ => []
  | .li _ _ => []
  | .khash _ _ => []
  | .br _ _ => []
  | .brn _ _ => []
  | .jr _ => []
  | .call _ _ => []
  | .callr _ _ => []
  | .ret _ => []
  | .loop _ _ => []
  | .rep _ _ => []
  | .ixset _ _ => []
  | .ixadd _ _ => []
  | .ixget _ => []
  | .mfts _ _ => []
  | .mtts _ _ => []
  | .rdcyc _ => []
  | .brk _ => []
  | .trap _ => []
  | .ld _ a _ _ => a.vregs
  | .ldIndexed _ a _ _ _ => a.vregs
  | .ldLs _ a _ _ => a.vregs
  | .ldHandleDisp _ a _ _ => a.vregs
  | .ldHandleReg _ a _ _ => a.vregs
  | .st _ _ _ a _ _ => a.vregs
  | .stIndexed _ _ _ a _ _ _ => a.vregs
  | .stLs _ a _ _ => a.vregs
  | .stHandleDisp _ a _ _ => a.vregs
  | .stHandleReg _ a _ _ => a.vregs
  | .fetch _ _ _ _ _ => []
  | .gather _ a _ c _ => [a, c]
  | .scatter _ _ _ a _ c _ => [a, c]
  | .ldt _ a _ _ => [a]
  | .unpk _ _ _ a b _ => [a, b]
  | .prefetch _ _ => []
  | .drain _ _ _ => []
  | .drainApply _ _ _ => []
  | .commit => []
  | .fenceRel _ => []
  | .fenceAcq _ => []
  | .fenceAr _ => []
  | .fenceSc _ => []
  | .fenceX _ _ => []
  | .bar _ _ _ => []
  | .hgive _ _ => []
  | .htake _ _ => []
  | .vmodeShort => []
  | .vmodeLong => []
  | .vaddF _ _ a b c => [a, b, c]
  | .vsubF _ _ a b c => [a, b, c]
  | .vmulF _ _ a b c => [a, b, c]
  | .vdiv _ _ a b c => [a, b, c]
  | .vminF _ a b c => [a, b, c]
  | .vmaxF _ a b c => [a, b, c]
  | .vabsF _ a b => [a, b]
  | .vneg _ a b => [a, b]
  | .vsqrt _ _ a b => [a, b]
  | .vfma _ _ a b c d => [a, b, c, d]
  | .vfms _ _ a b c d => [a, b, c, d]
  | .vfnma _ _ a b c d => [a, b, c, d]
  | .vaddI _ a b c => [a, b, c]
  | .vsubI _ a b c => [a, b, c]
  | .vmulI _ a b c => [a, b, c]
  | .vminI _ a b c => [a, b, c]
  | .vmaxI _ a b c => [a, b, c]
  | .vabsI _ a b => [a, b]
  | .vadds _ a b c => [a, b, c]
  | .vsubs _ a b c => [a, b, c]
  | .vand _ a b c => [a, b, c]
  | .vor _ a b c => [a, b, c]
  | .vxor _ a b c => [a, b, c]
  | .vsll _ a b c => [a, b, c]
  | .vsrl _ a b c => [a, b, c]
  | .vsra _ a b c => [a, b, c]
  | .vexp _ _ a b => [a, b]
  | .vlog _ _ a b => [a, b]
  | .vrcp _ _ a b => [a, b]
  | .vrsqrt _ _ a b => [a, b]
  | .vtanh _ _ a b => [a, b]
  | .vsig _ _ a b => [a, b]
  | .vcmpEq _ a b c => [a, b, c]
  | .vcmpNe _ a b c => [a, b, c]
  | .vcmpLt _ a b c => [a, b, c]
  | .vcmpLe _ a b c => [a, b, c]
  | .vcmpGt _ a b c => [a, b, c]
  | .vcmpGe _ a b c => [a, b, c]
  | .vsel _ a b c d => [a, b, c, d]
  | .vperm _ a b c => [a, b, c]
  | .vshuf _ a b c d => [a, b, c, d]
  | .vbcast _ a _ => [a]
  | .vrot _ a b _ => [a, b]
  | .vredadd _ _ _ b => [b]
  | .vredmax _ _ b => [b]
  | .vredmin _ _ b => [b]
  | .cvt _ _ _ a b _ => [a, b]
  | .cvtn _ _ a b _ _ => [a, b]
  | .vquant _ _ a b _ _ => [a, b]
  | .xmax _ _ b => [b]
  | .sbupd b _ _ => [b]
  | .vhash _ a b _ => [a, b]
  | .vbcmp _ b c _ => [b, c]
  | .vmov a b => [a, b]
  | .vins _ a _ _ => [a]
  | .vext _ _ b _ => [b]
  | .mma _ _ _ _ _ _ => []
  | .mmas _ _ _ _ _ _ _ => []
  | .mmt _ _ _ _ _ _ _ _ => []
  | .azero _ => []
  | .aspill _ _ => []
  | .afill _ _ => []
  | .aadd _ _ _ _ _ => []
  | .aread _ _ _ a _ _ _ => [a]
  | .skset _ _ => []
  | .skget _ => []
  | .topk _ _ _ _ _ => []
  | .mvh _ _ _ _ _ _ _ _ => []
  | .sbld _ _ => []
  | .sbst _ _ => []
  | .sopen _ _ _ => []
  | .sadv _ _ => []
  | .stend _ _ => []
  | .sclose _ => []
  | .fopen _ _ _ => []
  | .cpyLl _ _ _ _ _ _ => []
  | .cpyGl _ _ _ _ _ _ => []
  | .cpyLg _ _ _ _ _ _ _ _ _ => []
  | .cpyDist _ _ _ _ _ => []
  | .cpwp _ _ => []
  | .cpwait _ _ => []
  | .dpat _ _ => []
  | .get _ _ _ _ _ => []
  | .put _ _ _ _ _ _ _ => []
  | .coll _ _ _ _ _ _ _ _ => []
  | .done => []
  | .yield => []
  | .wfw => []
  | .lend => []
  | .post _ _ _ => []
  | .spawn _ _ _ => []
  | .ctwait _ => []
  | .ctadd _ _ _ => []
  | .ctcancel _ => []
  | .ctread _ _ _ => []
  | .msend _ _ _ => []
  | .mrecv _ _ _ => []
  | .tret => []
  | .fqrd _ _ => []
  | .mset _ _ => []
  | .mref _ _ _ => []
  | .mclr _ => []
  | .mrd _ _ _ => []
  | .hset _ _ _ => []
  | .hmul _ _ _ _ => []
  | .hdiv _ _ _ _ => []
  | .hprod _ _ _ _ => []
  | .hscale _ _ => []
  | .hrd _ _ _ _ => []
  | .hwr _ _ _ _ => []
  | .hdeg _ _ => []
  | .svCtab _ _ _ => []
  | .svQrec _ _ => []
  | .svQprio _ _ => []
  | .svGstart _ _ => []
  | .svTeardown _ => []
  | .svRht _ _ => []
  | .svDph _ _ => []
  | .svPtbr _ _ => []
  | .svPtw _ _ => []
  | .svTinv _ _ => []
  | .svPres _ _ => []
  | .svPref _ _ => []
  | .svMigr _ _ _ => []
  | .svHint _ _ _ => []
  | .svFq _ _ _ => []
  | .svSfq _ _ => []
  | .svFlue _ => []
  | .svVac _ _ => []
  | .svVrel _ => []
  | .svPdk _ _ => []
  | .svKill _ => []
  | .svPrel _ => []
  | .svLspr _ _ _ => []
  | .svSpb _ _ => []
  | .svHtab _ _ _ => []
  | .svYov _ _ _ => []
  | .powerOn => []
  | .bootStepComplete => []
  | .powerOff => []
  | .issueThrottlingEntry => []
  | .issueThrottlingExit => []
  | .overtempPowerOff => []
  | .flitReceive => []
  | .stopFlagClear => []
  | .ackReceive => []
  | .nakReceive => []
  | .ackTimeout => []
  | .alternateResend => []
  | .portUp => []
  | .putUpdateReceive => []
  | .getRequestServe => []
  | .getRowWrite => []
  | .putAckReceive => []
  | .negativeAckReceive => []
  | .spawnArrival => []
  | .spawnAnswerReceive => []
  | .collectiveMessageArrival => []
  | .collectiveReceiveStep => []
  | .poolWindowAccess => []
  | .memoryWindowWrite => []
  | .memoryWindowRead => []
  | .watchArm => []
  | .registerWrite => []
  | .quote => []
  | .idcert => []
  | .keyxch => []
  | .keyimport => []
  | .keygen => []
  | .keyerase => []
  | .liferead => []
  | .redfishRequest => []
  | .lifetimeRecordWrite => []
  | .dispatcherCycle => []
  | .heldInsertEntry => []
  | .recordArrivalAtManger => []
  | .mangerCancel => []
  | .counterOperation => []
  | .nodeReadyInsert => []
  | .deferredPhaseClose => []
  | .vacateGraceExpiry => []
  | .rectangleEmpty => []
  | .exactRestore => []
  | .teardownComplete => []
  | .windowHashCompare => []
  | .barrelIssue => []
  | .coprocessorDispatch => []
  | .coprocessorComplete => []
  | .copFaultDetect => []
  | .groupEnd => []
  | .mmtChunkComplete => []
  | .longContextGrant => []
  | .scaleSetArrival => []
  | .xmaxExchangeComplete => []
  | .mailboxArrival => []
  | .mailboxRetry => []
  | .copyBlockDelivery => []
  | .copyPendResume => []
  | .stallHighwaterMoveout => []
  | .stallAgeMoveout => []
  | .shedAgeMoveout => []
  | .shedFillMoveout => []
  | .shedMoveRetry => []
  | .yardEntry => []
  | .movedReroute => []
  | .yardFillApply => []
  | .yardSpill => []
  | .yardRefill => []
  | .yardFull => []
  | .yardFullClear => []
  | .releaseApply => []
  | .commitPrepare => []
  | .prepareAnswer => []
  | .commitFlip => []
  | .flipAcknowledge => []
  | .taskAbort => []
  | .abortNoticeArrival => []
  | .sosAcknowledge => []
  | .loadResultReturn => []
  | .fetchHomeStep => []
  | .mergeFaultRecordArrival => []
  | .pageFaultService => []
  | .migrationComplete => []
  | .fluePageVisit => []
  | .fluePassEnd => []
  | .sectorRead => []
  | .scrub => []
  | .paddockKill => []
  | .paddockKillReport => []
  | .barrierGenerationOpen => []
  | .postArrival => []
  | .barrierArrival => []
  | .xmaxContributionArrival => []
  | .drainRequestArrival => []

/-- The word of an instruction (R220 to R228); an event has none. -/
def encodeWord (h : Hdr) (i : Instr) : Option Nat := do
  let f ← fieldsOf h i
  let cell ← cellOf f.opc f.fn
  some (pack cell.fmt cell.lay f)

/-- The bytes of an instruction; an event has none. -/
def encode (h : Hdr) (i : Instr) : List Byte :=
  match encodeWord h i with
  | some w => leBytes h.len.bytes w
  | none => []

/-- One field of a class stepped `n` times by the repeat prefix, wrapping within its class and form (R226). -/
def stepField (cls : Cls) (vec : Bool) (n v : Nat) : Nat :=
  match cls with
  | .x => if v < 64 then (v + n) % 64 else 64 + (v - 64 + n) % 32
  | .v => if v < 32 then (v + n) % 32 else 32 + (v - 32 + n) % 16
  | .d => if vec then (if v < 32 then (v + n) % 32 else 32 + (v - 32 + n) % 16)
          else (if v < 64 then (v + n) % 64 else 64 + (v - 64 + n) % 32)
  | .s => 96 + (v - 96 + n) % 8
  | .ap => (v + n) % 8
  | .hh => (v + n) % 4
  | _ => v

/-- The fields of a repeat: each field that `mask` names, stepped `n` times (R226). -/
def stepFields (cell : Cell) (mask : BitVec 4) (n : Nat) (f : Fields) : Fields :=
  let vec := f.ty == Ty.b128.code
  let go (k : Nat) (v : Nat) := if mask.getLsbD k then stepField (cell.cls.getD k .unused) vec n v else v
  { f with a := go 0 f.a, b := go 1 f.b, c := go 2 f.c, d := go 3 f.d }

/-- The OPCs that may not be repeated (R226). -/
def nonRepeatable (opc : Nat) : Bool :=
  (0x18 ≤ opc && opc ≤ 0x1D) || opc == 0x21 || opc == 0x22 || (0x50 ≤ opc && opc ≤ 0x52) || opc == 0x70
    || opc == 0xA2 || (0xD0 ≤ opc && opc ≤ 0xD2) || opc == 0xD4 || opc == 0xE0

/-- A MASK bit names a field that a repeat may step (R226). DEDUCED (log 21): the stream encoding that R226 refuses is
one that stands in a scalar or vector field; a field of stream class steps as its table says. -/
def maskOk (cell : Cell) (mask : BitVec 4) (f : Fields) : Bool :=
  [(0, f.a), (1, f.b), (2, f.c), (3, f.d)].all fun (k, v) =>
    !mask.getLsbD k ||
      match cell.cls.getD k .unused with
      | .unused | .mc | .t => false
      | .v | .d | .x => v < 96
      | _ => true

/-- The repeat prefix may stand before this word with this mask (R226): its OPC may be repeated, and the mask names fields that
may be stepped. A word without a cell is refused at the repeat. -/
def repeatOk (len : Len) (w : Nat) (mask : BitVec 4) : Bool :=
  let opc := bitsOf w 3 8
  !nonRepeatable opc &&
    match cellOf opc (bitsOf w 11 5) with
    | none => true
    | some cell =>
      maskOk cell mask { header len w with a := bitsOf w 16 7, b := bitsOf w 23 7, c := bitsOf w 30 7, d := bitsOf w 37 7 }

/-- Repeat `n` of an instruction under a mask (R226, R243); `none` is ILLEGAL_OP at that repeat. -/
def repeatOf (h : Hdr) (i : Instr) (mask : BitVec 4) (n : Nat) : Option Instr := do
  let f ← fieldsOf h i
  let cell ← cellOf f.opc f.fn
  let j ← build (stepFields cell mask n f)
  if j.wf h then some j else none

end Sys2Proof
end

