-- ==== Sys2Proof/Machine/Flags.lean ====
section
/-! DEFINITION. The sticky flags of TSTAT (R205, R206): their places and their collection. What raises each stands with the
arithmetic of Float.lean. -/

namespace Sys2Proof.Machine

/-- The sticky flags (R205): NV, DZ, OF, UF, NX from bit 4 down. -/
abbrev Flags := BitVec 5

/-- NV. -/
def Flags.nv : Flags := 16
/-- DZ. -/
def Flags.dz : Flags := 8
/-- OF. -/
def Flags.of : Flags := 4
/-- UF. -/
def Flags.uf : Flags := 2
/-- NX. -/
def Flags.nx : Flags := 1

/-- A flag when a condition holds. -/
def flagIf (c : Bool) (f : Flags) : Flags := if c then f else 0

end Sys2Proof.Machine
end

