-- ==== Sys2Proof/Machine/Float.lean ====
section
/-! DEFINITION. Number formats and arithmetic (R198 to R214): exact values, rounding, flags, conversions, the
elementary functions and accumulation. -/

namespace Sys2Proof.Machine

/-- An exact value (R206): a NaN, an infinity, a signed zero, or `m · 2^e` with `m ≠ 0`. -/
inductive Num where
  | nan (signalling : Bool)
  | inf (neg : Bool)
  | zero (neg : Bool)
  | fin (m : Int) (e : Int)
  deriving DecidableEq, Repr

/-- A floating format (R198): exponent and fraction widths; `max` is the code of the largest finite magnitude and
`ieee` says that the format has infinities and quiet and signalling NaNs. -/
structure FFmt where
  ew : Nat
  fw : Nat
  bias : Nat
  ieee : Bool
  canon : Nat
  maxCode : Nat
  deriving DecidableEq, Repr

/-- FP64 (R198, R199). -/
def fp64 : FFmt := ⟨11, 52, 1023, true, 0x7FF8000000000000, 0x7FEFFFFFFFFFFFFF⟩
/-- FP40, the accumulator element (R198, R199). -/
def fp40 : FFmt := ⟨8, 31, 127, true, 0x7FC0000000, 0x7F7FFFFFFF⟩
/-- FP32. -/
def fp32 : FFmt := ⟨8, 23, 127, true, 0x7FC00000, 0x7F7FFFFF⟩
/-- FP16. -/
def fp16 : FFmt := ⟨5, 10, 15, true, 0x7E00, 0x7BFF⟩
/-- BF16. -/
def bf16 : FFmt := ⟨8, 7, 127, true, 0x7FC0, 0x7F7F⟩
/-- E4M3: no infinity, NaN only 0x7F and 0xFF. -/
def e4m3 : FFmt := ⟨4, 3, 7, false, 0x7F, 0x7E⟩
/-- E5M2: infinities 0x7C and 0xFC, every NaN quiet. -/
def e5m2 : FFmt := ⟨5, 2, 15, false, 0x7E, 0x7B⟩

/-- EMIN, the exponent of the smallest normal (R198). -/
def FFmt.emin (f : FFmt) : Int := 1 - f.bias

/-- Width of a format in bits. -/
def FFmt.width (f : FFmt) : Nat := 1 + f.ew + f.fw

/-- The value `m · 2^e`, a zero of sign `neg` when `m = 0`. -/
def Num.mk' (neg : Bool) (m : Nat) (e : Int) : Num :=
  if m = 0 then .zero neg else .fin (if neg then -(m : Int) else m) e

/-- Exact value of an integer. -/
def Num.ofInt (i : Int) : Num := if i = 0 then .zero false else .fin i 0

/-- Decodes the bits of a format (R198, R199). -/
def FFmt.decode (f : FFmt) (bits : Nat) : Num :=
  let s := bits / 2 ^ (f.ew + f.fw) % 2 == 1
  let e := bits / 2 ^ f.fw % 2 ^ f.ew
  let m := bits % 2 ^ f.fw
  let normal : Num := .mk' s (2 ^ f.fw + m) ((e : Int) - f.bias - f.fw)
  if e = 0 then .mk' s m (f.emin - f.fw)
  else if e = 2 ^ f.ew - 1 then
    if f.ieee then
      if m = 0 then .inf s else .nan (m / 2 ^ (f.fw - 1) == 0)
    else if f.fw = 3 then (if m = 7 then .nan false else normal)
    else if m = 0 then .inf s else .nan false
  else normal

/-- Sign of a value. -/
def Num.neg? : Num → Bool
  | .nan _ => false
  | .inf s => s
  | .zero s => s
  | .fin m _ => m < 0

/-- The value with its sign inverted. -/
def Num.negate : Num → Num
  | .nan q => .nan q
  | .inf s => .inf !s
  | .zero s => .zero !s
  | .fin m e => .fin (-m) e

/-- The magnitude of a value. -/
def Num.abs : Num → Num
  | .nan q => .nan q
  | .inf _ => .inf false
  | .zero _ => .zero false
  | .fin m e => .fin m.natAbs e

/-- The value times `2^k`, exactly. -/
def Num.scale (k : Int) : Num → Num
  | .fin m e => .fin m (e + k)
  | n => n

/-- A value is a NaN. -/
def Num.isNan : Num → Bool
  | .nan _ => true
  | _ => false

/-- A signalling NaN among operands sets NV (R199). -/
def snan (l : List Num) : Flags := flagIf (l.any (· == .nan true)) Flags.nv

/-- RoundInt of the magnitude `m · 2^e` (R204): the integer magnitude, and whether it is exact. -/
def roundMag (rm : Rm) (neg : Bool) (m : Nat) (e : Int) : Nat × Bool :=
  match e with
  | .ofNat k => (m * 2 ^ k, true)
  | .negSucc k =>
    let d := 2 ^ (k + 1)
    let q := m / d
    let r := m % d
    if r = 0 then (q, true)
    else
      let up := match rm with
        | .rne => d < 2 * r || (2 * r == d && q % 2 == 1)
        | .rtz => false
        | .rdn => neg
        | .rup => !neg
        | .rna => d ≤ 2 * r
      (if up then q + 1 else q, false)

/-- floor(log2 |y|) of `m · 2^e`. -/
def log2Of (m : Int) (e : Int) : Int := m.natAbs.log2 + e

/-- The code of the magnitude `m · 2^e`, which the format holds exactly, with a sign (R198). -/
def FFmt.encode (f : FFmt) (neg : Bool) (m : Nat) (e : Int) : Nat :=
  let s := if neg then 2 ^ (f.ew + f.fw) else 0
  if m = 0 then s
  else
    let x := (m.log2 : Int) + e
    if x < f.emin then s + m * 2 ^ (e - (f.emin - f.fw)).toNat
    else
      let k := m.log2
      let fr := if k ≤ f.fw then m * 2 ^ (f.fw - k) else m / 2 ^ (k - f.fw)
      s + (x + f.bias).toNat * 2 ^ f.fw + (fr - 2 ^ f.fw)

/-- Code of an infinity, or of ±448 where a format has none. -/
def FFmt.infCode (f : FFmt) (neg : Bool) : Nat :=
  (if neg then 2 ^ (f.ew + f.fw) else 0) + (if f.fw = 3 then f.maxCode else (2 ^ f.ew - 1) * 2 ^ f.fw)

/-- RoundTo for floating formats (R206): the code and the flags. -/
def roundTo (f : FFmt) (rm : Rm) (y : Num) : Nat × Flags :=
  match y with
  | .nan q => (f.canon, flagIf q Flags.nv)
  | .inf s => (f.infCode s, flagIf (f.fw == 3) Flags.of)
  | .zero s => (if s then 2 ^ (f.ew + f.fw) else 0, 0)
  | .fin m e =>
    let neg := m < 0
    let x := max (log2Of m e) f.emin
    let q := x - f.fw
    let (r, exact) := roundMag rm neg m.natAbs (e - q)
    let tiny := r = 0 || (r.log2 : Int) + q < f.emin
    let fl := flagIf (!exact) Flags.nx ||| flagIf (!exact && tiny) Flags.uf
    if f.fw = 2 && tiny && r ≠ 0 then (if neg then 0x80 else 0, fl ||| Flags.uf ||| Flags.nx)
    else
      let c := f.encode false r q
      if f.maxCode < c then
        let fl := fl ||| Flags.of ||| Flags.nx
        let sg := if neg then 2 ^ (f.ew + f.fw) else 0
        let fin := sg + f.maxCode
        if f.fw = 3 then (fin, fl)
        else match rm with
          | .rne | .rna => (f.infCode neg, fl)
          | .rtz => (fin, fl)
          | .rdn => (if neg then f.infCode neg else fin, fl)
          | .rup => (if neg then fin else f.infCode neg, fl)
      else (f.encode neg r q, fl)

/-- RoundInteger (R206): the integer, and the flags. -/
def roundInteger (signed : Bool) (w : Nat) (rm : Rm) (y : Num) : Int × Flags :=
  let lo : Int := if signed then -(2 ^ (w - 1)) else 0
  let hi : Int := if signed then 2 ^ (w - 1) - 1 else 2 ^ w - 1
  match y with
  | .nan _ => (0, Flags.nv)
  | .inf s => (if s then lo else hi, Flags.nv)
  | .zero _ => (0, 0)
  | .fin m e =>
    let (r, exact) := roundMag rm (m < 0) m.natAbs e
    let i : Int := if m < 0 then -(r : Int) else r
    let nx := flagIf (!exact) Flags.nx
    if i < lo then (lo, Flags.nv ||| nx) else if hi < i then (hi, Flags.nv ||| nx) else (i, nx)

/-- The magnitudes of TW8 in units of 2^-6, ascending, each with its canonical byte for the positive value (R203). -/
def tw8Table : List (Nat × Nat) :=
  [(0, 0x00), (1, 0x10), (2, 0x20), (3, 0x21), (4, 0x30), (5, 0x31), (6, 0x32), (7, 0x49), (8, 0x40), (9, 0x41),
   (10, 0x42), (12, 0x43), (14, 0x5A), (15, 0x59), (16, 0x50), (17, 0x51), (18, 0x52), (20, 0x53), (24, 0x54),
   (28, 0x6B), (30, 0x6A), (31, 0x69), (32, 0x60), (33, 0x61), (34, 0x62), (36, 0x63), (40, 0x64), (48, 0x65),
   (56, 0x7C), (60, 0x7B), (62, 0x7A), (63, 0x79), (64, 0x70), (65, 0x71), (66, 0x72), (68, 0x73), (72, 0x74),
   (80, 0x75), (96, 0x76), (128, 0x77)]

/-- The canonical byte of a TW8 magnitude with a sign: both sign bits of nonzero terms invert (R203). -/
def tw8Sign (neg : Bool) (b : Nat) : Nat :=
  if neg && b ≠ 0 then (b ^^^ 0x80) ^^^ (if b % 8 = 0 then 0 else 0x08) else b

/-- Value of a TW8 byte (R203). -/
def tw8Decode (b : Nat) : Num :=
  let t1 : Int := if b / 16 % 8 = 0 then 0 else (if b / 128 % 2 = 1 then -1 else 1) * 2 ^ (b / 16 % 8 - 1)
  let t2 : Int := if b % 8 = 0 then 0 else (if b / 8 % 2 = 1 then -1 else 1) * 2 ^ (b % 8 - 1)
  if t1 + t2 = 0 then .zero false else .fin (t1 + t2) (-6)

/-- Number of nonzero terms of a canonical TW8 byte. -/
def tw8Terms (b : Nat) : Nat := (if b / 16 % 8 = 0 then 0 else 1) + (if b % 8 = 0 then 0 else 1)

/-- RoundTW8 (R206): the canonical byte, and the flags. DEDUCED (log 22): an infinity, whose magnitude is above 2,
sets NX as well, because the result differs from it. -/
def roundTW8 (rm : Rm) (y : Num) : Nat × Flags :=
  match y with
  | .nan _ => (0, Flags.nv)
  | .inf s => (tw8Sign s 0x77, Flags.of ||| Flags.nx)
  | .zero _ => (0, 0)
  | .fin m e =>
    let neg := m < 0
    -- the magnitude in units of 2^-6 is a / d
    let k := e + 6
    let a := if 0 ≤ k then m.natAbs * 2 ^ k.toNat else m.natAbs
    let d := if 0 ≤ k then 1 else 2 ^ (-k).toNat
    if 128 * d < a then (tw8Sign neg 0x77, Flags.of ||| Flags.nx)
    else
      let lo := (tw8Table.filter fun p => p.1 * d ≤ a).getLastD (0, 0)
      let hi := (tw8Table.filter fun p => a ≤ p.1 * d).headD (128, 0x77)
      if lo.1 = hi.1 then (tw8Sign neg lo.2, 0)
      else
        let dl := a - lo.1 * d
        let dh := hi.1 * d - a
        let up := match rm with
          | .rne => dh < dl || (dh == dl && tw8Terms hi.2 < tw8Terms lo.2)
          | .rtz => false
          | .rdn => neg
          | .rup => !neg
          | .rna => dh ≤ dl
        let r := if up then hi else lo
        (tw8Sign neg r.2, Flags.nx ||| flagIf (r.1 == 0) Flags.uf)

/-- The floating format of a type. -/
def ffmtOf : Ty → Option FFmt
  | .f64 => some fp64
  | .f32 => some fp32
  | .f16 => some fp16
  | .bf16 => some bf16
  | .e4m3 => some e4m3
  | .e5m2 => some e5m2
  | _ => none

/-- Two's complement value of the low `w` bits of a number. -/
def toSigned (w n : Nat) : Int :=
  let v := n % 2 ^ w
  if v < 2 ^ (w - 1) then v else (v : Int) - 2 ^ w

/-- Val: the exact value of bits in a type (R198, R201, R203, R216). -/
def valOf (ty : Ty) (bits : Nat) : Num :=
  match ffmtOf ty with
  | some f => f.decode (bits % 2 ^ f.width)
  | none =>
    if ty = .tw8 then tw8Decode (bits % 256)
    else if ty.isSigned then .ofInt (toSigned ty.width bits)
    else .ofInt ((bits % 2 ^ ty.width : Nat) : Int)

/-- RoundTo in any type (R206): bits of the type, and the flags. -/
def roundTy (ty : Ty) (rm : Rm) (y : Num) : Nat × Flags :=
  match ffmtOf ty with
  | some f => roundTo f rm y
  | none =>
    if ty = .tw8 then roundTW8 rm y
    else
      let (i, fl) := roundInteger ty.isSigned ty.width rm y
      ((i % 2 ^ ty.width).toNat, fl)

/-- Exact sum of finite values and zeros at their least exponent: mantissa and exponent. -/
def sumFin (l : List Num) : Int × Int :=
  let es := l.filterMap fun n => match n with | .fin _ e => some e | _ => none
  let e0 := es.foldl min (es.headD 0)
  (l.foldl (fun acc n => match n with | .fin m e => acc + m * 2 ^ (e - e0).toNat | _ => acc) 0, e0)

/-- Exact sum with the special values of R214: the result, and NV. An exact zero is −0 when every term is −0, and
otherwise has the sign `zneg`. -/
def sumNum (zneg : Bool) (l : List Num) : Num × Flags :=
  let p := l.any (· == .inf false)
  let n := l.any (· == .inf true)
  if l.any Num.isNan || (p && n) then (.nan false, snan l ||| flagIf (p && n) Flags.nv)
  else
    if p then (.inf false, 0)
    else if n then (.inf true, 0)
    else
      let (m, e) := sumFin l
      if m = 0 then
        if l.all (· == .zero true) then (.zero true, 0)
        else if l.all (· == .zero false) then (.zero false, 0)
        else (.zero zneg, 0)
      else (.fin m e, 0)

/-- Exact product; 0·∞ gives NaN with NV (R214, R279). -/
def mulNum (a b : Num) : Num × Flags :=
  let s := a.neg? != b.neg?
  match a, b with
  | .nan x, .nan y => (.nan false, flagIf (x || y) Flags.nv)
  | .nan x, _ => (.nan false, flagIf x Flags.nv)
  | _, .nan y => (.nan false, flagIf y Flags.nv)
  | .inf _, .zero _ => (.nan false, Flags.nv)
  | .zero _, .inf _ => (.nan false, Flags.nv)
  | .inf _, _ => (.inf s, 0)
  | _, .inf _ => (.inf s, 0)
  | .zero _, _ => (.zero s, 0)
  | _, .zero _ => (.zero s, 0)
  | .fin m e, .fin n g => (.fin (m * n) (e + g), 0)

/-- A nonzero real that is not dyadic, as a dyadic of far more bits than any format: its floor with a last bit that
says that it is inexact. Every RoundTo of it is that of the real. -/
def sticky (neg : Bool) (q : Nat) (exact : Bool) (e : Int) : Num :=
  let m : Int := if exact then 2 * q else 2 * q + 1
  .fin (if neg then -m else m) (e - 1)

/-- Quotient (R279): 0/0 and ∞/∞ give NaN with NV, and a finite nonzero value over zero gives ∞ with DZ. -/
def divNum (a b : Num) : Num × Flags :=
  let s := a.neg? != b.neg?
  match a, b with
  | .nan x, .nan y => (.nan false, flagIf (x || y) Flags.nv)
  | .nan x, _ => (.nan false, flagIf x Flags.nv)
  | _, .nan y => (.nan false, flagIf y Flags.nv)
  | .inf _, .inf _ => (.nan false, Flags.nv)
  | .zero _, .zero _ => (.nan false, Flags.nv)
  | .inf _, _ => (.inf s, 0)
  | _, .inf _ => (.zero s, 0)
  | .zero _, _ => (.zero s, 0)
  | .fin _ _, .zero _ => (.inf s, Flags.dz)
  | .fin m e, .fin n g =>
    let k := n.natAbs.log2 + 80
    let num := m.natAbs * 2 ^ k
    (sticky s (num / n.natAbs) (num % n.natAbs == 0) (e - g - k), 0)

/-- Newton's iteration towards the integer square root, from above. -/
def isqrtLoop : Nat → Nat → Nat → Nat
  | 0, _, x => x
  | k + 1, n, x =>
    let y := (x + n / x) / 2
    if y < x then isqrtLoop k n y else x

/-- floor(√n). -/
def isqrt (n : Nat) : Nat := if n = 0 then 0 else isqrtLoop (n.log2 + 2) n (2 ^ (n.log2 / 2 + 1))

/-- Square root (R279): √(−0) is −0, and a value below zero gives NaN with NV. -/
def sqrtNum (a : Num) : Num × Flags :=
  match a with
  | .nan x => (.nan false, flagIf x Flags.nv)
  | .zero s => (.zero s, 0)
  | .inf s => if s then (.nan false, Flags.nv) else (.inf false, 0)
  | .fin m e =>
    if m < 0 then (.nan false, Flags.nv)
    else
      let odd := e % 2
      let n := m.natAbs * 2 ^ odd.toNat * 2 ^ 256
      let r := isqrt n
      (sticky false r (r * r == n) ((e - odd) / 2 - 128), 0)

/-- 1/√a (R282). -/
def rsqrtNum (a : Num) : Num × Flags :=
  match a with
  | .nan x => (.nan false, flagIf x Flags.nv)
  | .zero s => (.inf s, Flags.dz)
  | .inf s => if s then (.nan false, Flags.nv) else (.zero false, 0)
  | .fin m e =>
    if m < 0 then (.nan false, Flags.nv)
    else
      let odd := e % 2
      let n := m.natAbs * 2 ^ odd.toNat
      let k := n.log2 + 160
      let t := 2 ^ (2 * k) / n
      let r := isqrt t
      (sticky false r (r * r * n == 2 ^ (2 * k)) (-((e - odd) / 2) - k), 0)

/-- 1/√(a/c) for a positive count (R293): exact inside. -/
def rsqrtQuot (a : Num) (c : Nat) : Num × Flags :=
  match a with
  | .fin m e =>
    if m < 0 then (.nan false, Flags.nv)
    else
      let odd := e % 2
      let n := m.natAbs * 2 ^ odd.toNat
      let k := n.log2 + 160
      let r := isqrt (c * 2 ^ (2 * k) / n)
      (sticky false r (r * r * n == c * 2 ^ (2 * k)) (-((e - odd) / 2) - k), 0)
  | x => rsqrtNum x

/-- Fraction bits of the fixed-point arithmetic behind the elementary functions (log 23). -/
def fx : Nat := 256

/-- ln 2 · 2^256, rounded down. -/
def ln2Fx : Nat := 80260960185991308862233904206310070533990667611589946606122867505419956976171

/-- Σ t^n / n! from term `i` on, in fixed point: `n` more terms. -/
def expSeries : Nat → Nat → Int → Int → Int → Int
  | 0, _, _, _, acc => acc
  | n + 1, i, t, term, acc => expSeries n (i + 1) t (term * t / 2 ^ fx / (i : Int)) (acc + term)

/-- Σ t^(2i+1) / (2i+1) from term `i` on, in fixed point, with `t2 = t²`. -/
def atanhSeries : Nat → Nat → Int → Int → Int → Int
  | 0, _, _, _, acc => acc
  | n + 1, i, t2, p, acc => atanhSeries n (i + 2) t2 (p * t2 / 2 ^ fx) (acc + p / (i : Int))

/-- `m · 2^e` in fixed point. -/
def toFx (m : Int) (e : Int) : Int :=
  let k := e + fx
  if 0 ≤ k then m * 2 ^ k.toNat else m / 2 ^ (-k).toNat

/-- e^t for a fixed-point t: (M, k) with the value M · 2^(k − 256), M in [2^256, 2^257). -/
def expFx (t : Int) : Nat × Int :=
  let k := t / (ln2Fx : Int)
  ((expSeries 70 1 (t - k * ln2Fx) (2 ^ fx) 0).toNat, k)

/-- A nonzero value below 2^-60 in magnitude. -/
def smallArg (m e : Int) : Bool := log2Of m e < -60

/-- e^a (R282). The value is never dyadic but at 0, and 200 correct bits decide every rounding (log 23). -/
def expNum (a : Num) : Num × Flags :=
  match a with
  | .nan x => (.nan false, flagIf x Flags.nv)
  | .inf s => (if s then .zero false else .inf false, 0)
  | .zero _ => (.fin 1 0, 0)
  | .fin m e =>
    if 10 ≤ log2Of m e then (if m < 0 then .fin 1 (-40000) else .fin 1 40000, 0)
    else if smallArg m e then (.fin (2 ^ 80 + m.sign) (-80), 0)
    else
      let (r, k) := expFx (toFx m e)
      (sticky false r false (k - fx), 0)

/-- ln a (R282). -/
def logNum (a : Num) : Num × Flags :=
  match a with
  | .nan x => (.nan false, flagIf x Flags.nv)
  | .inf s => if s then (.nan false, Flags.nv) else (.inf false, 0)
  | .zero _ => (.inf true, Flags.dz)
  | .fin m e =>
    if m < 0 then (.nan false, Flags.nv)
    else
      let z := m.natAbs.log2
      if m.natAbs = 2 ^ z && e + z = 0 then (.zero false, 0)
      else
        let x0 : Int := toFx m (-z)
        let big := 3 * 2 ^ (fx - 1) ≤ x0
        let x := if big then x0 / 2 else x0
        let ex : Int := e + z + (if big then 1 else 0)
        let t := (x - 2 ^ fx) * 2 ^ fx / (x + 2 ^ fx)
        let r := 2 * atanhSeries 70 1 (t * t / 2 ^ fx) t 0 + ex * ln2Fx
        (.fin (2 * r + 1) (-257), 0)

/-- tanh a (R282). -/
def tanhNum (a : Num) : Num × Flags :=
  match a with
  | .nan x => (.nan false, flagIf x Flags.nv)
  | .inf s => (.fin (if s then -1 else 1) 0, 0)
  | .zero s => (.zero s, 0)
  | .fin m e =>
    if 6 ≤ log2Of m e then (.fin (m.sign * (2 ^ 150 - 1)) (-150), 0)
    else if smallArg m e then (.fin (m * 2 ^ 80 - m.sign) (e - 80), 0)
    else
      let (r, k) := expFx (toFx m.natAbs (e + 1))
      let p := r * 2 ^ k.toNat
      (sticky (m < 0) ((p - 2 ^ fx) * 2 ^ fx / (p + 2 ^ fx)) false (-fx), 0)

/-- 1/(1 + e^−a) (R282). -/
def sigNum (a : Num) : Num × Flags :=
  match a with
  | .nan x => (.nan false, flagIf x Flags.nv)
  | .inf s => (if s then .zero false else .fin 1 0, 0)
  | .zero _ => (.fin 1 (-1), 0)
  | .fin m e =>
    if 9 ≤ log2Of m e then (if m < 0 then .fin 1 (-40000) else .fin (2 ^ 150 - 1) (-150), 0)
    else if smallArg m e then (.fin (2 ^ 80 + m.sign) (-81), 0)
    else
      let (r, k) := expFx (toFx (-m) e)
      let den := if 0 ≤ k then 2 ^ fx + r * 2 ^ k.toNat else 2 ^ (fx + (-k).toNat) + r
      let num := if 0 ≤ k then 2 ^ fx else 2 ^ (fx + (-k).toNat)
      let w := 300 + fx + k.toNat
      (sticky false (num * 2 ^ w / den) false (-(w : Int)), 0)

/-- Order of two exact values that are no NaNs; −0 equals +0. -/
def cmpNum (a b : Num) : Ordering :=
  match a, b with
  | .inf s, .inf t => if s = t then .eq else if s then .lt else .gt
  | .inf s, _ => if s then .lt else .gt
  | _, .inf t => if t then .gt else .lt
  | _, _ =>
    let (m, _) := sumFin [a, b.negate]
    if m < 0 then .lt else if 0 < m then .gt else .eq

/-- `a < b` for values that are no NaNs. -/
def ltNum (a b : Num) : Bool := cmpNum a b == .lt

/-- minimumNumber or maximumNumber on the codes of a format (R114, R279): −0 below +0, the other operand where one is
a NaN, and the canonical NaN where both are. -/
def fminmax (f : FFmt) (isMax : Bool) (x y : Nat) : Nat × Flags :=
  let a := f.decode x
  let b := f.decode y
  let fl := snan [a, b]
  match a.isNan, b.isNan with
  | true, true => (f.canon, fl)
  | true, false => (y, fl)
  | false, true => (x, fl)
  | false, false =>
    let below := match cmpNum a b with
      | .lt => true
      | .gt => false
      | .eq => a.neg? || !b.neg?
    (if below == isMax then y else x, 0)

/-- A tensor parameter record's fields (R207), and whether its granules are poisoned. -/
structure Tnr where
  base : Nat
  rows : Nat
  cols : Nat
  pitch : Nat
  fmt : Nat
  geom : Nat
  ascope : Nat
  swz : Nat
  bound : Nat
  amaxa : Nat
  psn : Bool
  deriving DecidableEq, Repr

/-- The fields of a TNR image of 64 bytes given as a number (R207). -/
def Tnr.ofImage (v : Nat) (psn : Bool) : Tnr where
  base := v % 2 ^ 57
  rows := bitsOf v 96 32
  cols := bitsOf v 64 32
  pitch := bitsOf v 160 32
  fmt := bitsOf v 156 4
  geom := bitsOf v 153 3
  ascope := bitsOf v 150 3
  swz := bitsOf v 146 4
  bound := bitsOf v 192 32
  amaxa := bitsOf v 256 57
  psn := psn

/-- The type that a page or TNR FMT code names, for the formats that are decoded (R160). -/
def fmtTy : Nat → Option Ty
  | 1 => some .f64
  | 2 => some .f32
  | 3 => some .f16
  | 4 => some .bf16
  | 5 => some .e4m3
  | 6 => some .e5m2
  | 7 => some .i8
  | 8 => some .n8
  | 9 => some .tw8
  | _ => none

/-- FMT 5 to 9: the narrow formats. -/
def fmtNarrow (f : Nat) : Bool := 5 ≤ f && f ≤ 9

/-- Elements per block scale of a GEOM code (R160); 4 and the reserved codes have none. -/
def geomG : Nat → Option Nat
  | 0 => some 32
  | 1 => some 16
  | 2 => some 64
  | 3 => some 128
  | _ => none

/-- EMAXF of R211. -/
def emaxf : Ty → Int
  | .e4m3 => 8
  | .e5m2 => 15
  | .i8 => 6
  | .n8 => 7
  | _ => 1

/-- The largest finite magnitude of a narrow format, exactly; the bound of its sign for integers (R208). -/
def maxNarrow (ty : Ty) (neg : Bool) : Num :=
  match ty with
  | .e4m3 => .fin 448 0
  | .e5m2 => .fin 57344 0
  | .i8 => .fin (if neg then 128 else 127) 0
  | .n8 => if neg then .zero false else .fin 255 0
  | _ => .fin 2 0

/-- Clamp (R208) on the code of a narrow type. A negative BOUND leaves the limit of the format (log 95). -/
def clampTy (ty : Ty) (bound : Nat) (code : Nat) : Nat × Flags :=
  let v := valOf ty code
  let b := fp32.decode bound
  let neg := v.neg?
  if v.isNan then (code, 0)
  else
    let top := maxNarrow ty neg
    let lim := match b with
      | .fin _ _ => if !b.neg? && ltNum b top then valOf ty (roundTy ty .rtz b).1 else top
      | _ => top
    -- a bound of an unsigned format leaves 0 as its lower bound
    let lim := if ty = .n8 && neg then Num.zero false else lim
    if ltNum lim v.abs then ((roundTy ty .rtz (if neg then lim.negate else lim)).1, Flags.of) else (code, 0)

/-- ConvertNarrow (R209): the byte of `x` under scale exponent `s`. A NaN in a format without one gives 0 with NV. -/
def convertNarrow (ty : Ty) (bound : Nat) (x : Num) (s : Int) (rm : Rm) : Nat × Flags :=
  let (c, fl) := roundTy ty rm (x.scale (-s))
  let (d, fl') := clampTy ty bound c
  (d, fl ||| fl')

/-- The byte that an element under a 0xFF scale stores: the canonical NaN, or 0, with NV (R202, R211, R289). -/
def nanNarrow (ty : Ty) : Nat × Flags := ((roundTy ty .rne (.nan false)).1, Flags.nv)

/-- ConvertNarrow under a scale code; code 0xFF stands for NaN (R202, R289). -/
def convertCode (ty : Ty) (bound : Nat) (x : Num) (code : Nat) (rm : Rm) : Nat × Flags :=
  if code = 0xFF then nanNarrow ty else convertNarrow ty bound x ((code : Int) - 127) rm

/-- The largest magnitude of a list; a NaN makes it NaN; `none` for no element (R211, R212). -/
def maxAbs (l : List Num) : Option Num :=
  match l with
  | [] => none
  | _ => if l.any Num.isNan then some (.nan false)
         else some (l.foldl (fun m x => if ltNum m x.abs then x.abs else m) (.zero false))

/-- The scale code of a block from its in-range elements (R211). -/
def scaleCode (ty : Ty) (l : List Num) : Nat × Flags :=
  match maxAbs l with
  | none => (0, 0)
  | some (.zero _) => (0, 0)
  | some (.fin m e) => ((min (max (log2Of m e - emaxf ty + 127) 0) 254).toNat, 0)
  | some _ => (0xFF, Flags.nv)

/-- Magnitude rank of an element in an N:24 selection (R213): NaN above ∞ above the finite values. -/
def rankAbove (a b : Num) : Bool :=
  match a.isNan, b.isNan with
  | true, _ => !b.isNan
  | false, true => false
  | false, false => ltNum b.abs a.abs

/-- The mask of an N:24 selection over a group's elements: bit i is set when fewer than `n` elements rank higher, ties
to the lower index (R213). -/
def selectMask (n : Nat) (g : List Num) : Nat :=
  let rec go (i : Nat) (rest : List Num) (acc : Nat) : Nat :=
    match rest with
    | [] => acc
    | x :: xs =>
      let above := g.zipIdx.foldl (fun c (y, j) => if rankAbove y x || (!rankAbove x y && j < i) then c + 1 else c) 0
      go (i + 1) xs (if above < n then acc + 2 ^ i else acc)
  go 0 g 0

/-- ChunkAcc (R214): the accumulator plus the exact sum of scaled products, rounded once to nearest even. The terms are
those of K indices that are read; DEDUCED (log 24): indices at or beyond K are exact zeros without a sign. -/
def chunkAcc (f : FFmt) (acc : Nat) (terms : List (Num × Num × Int)) : Nat × Flags :=
  let ps := terms.map fun (a, b, s) => ((mulNum a b).1.scale s, (mulNum a b).2)
  let fl := ps.foldl (fun x p => x ||| p.2) 0
  let (t, fl') := sumNum false (f.decode acc :: ps.map Prod.fst)
  let bad := t.isNan
  let (r, fl'') := roundTo f .rne t
  (r, fl ||| fl' ||| fl'' ||| flagIf bad Flags.nv)

end Sys2Proof.Machine
end

