-- ==== Sys2Proof/Machine/Crypto.lean ====
section
/-! DEFINITION. The ciphers and signatures that R34, R36, R37, R41 and R173 name: AES-256 (FIPS 197), XTS (IEEE 1619), the key
wrap of RFC 3394, X25519 (RFC 7748) and Ed25519 (RFC 8032). Their standards lay them down (log 90). -/

namespace Sys2Proof.Machine.Crypto

/-- Exclusive or of two byte lists. -/
def xorBytes (a b : List Byte) : List Byte := a.zipWith (· ^^^ ·) b

/-- A byte of GF(2^8) times x. -/
def xtime (a : Byte) : Byte := if a.msb then a <<< 1 ^^^ 0x1B else a <<< 1

/-- A product in GF(2^8); the fuel is the number of bits of `b` that count. -/
def gmul : Nat → Byte → Byte → Byte
  | 0, _, _ => 0
  | n + 1, a, b => (if b.getLsbD 0 then a else 0) ^^^ gmul n (xtime a) (b >>> 1)

/-- The square in GF(2^8). -/
def gsqr (a : Byte) : Byte := gmul 8 a a

/-- The inverse in GF(2^8), with 0 for 0: the 254th power. -/
def ginv (a : Byte) : Byte :=
  let a2 := gsqr a
  let a3 := gmul 8 a2 a
  let a12 := gsqr (gsqr a3)
  let a15 := gmul 8 a12 a3
  let a240 := gsqr (gsqr (gsqr (gsqr a15)))
  gmul 8 (gmul 8 a240 a12) a2

/-- The substitution of one byte. -/
def sub (a : Byte) : Byte :=
  let b := ginv a
  b ^^^ b.rotateLeft 1 ^^^ b.rotateLeft 2 ^^^ b.rotateLeft 3 ^^^ b.rotateLeft 4 ^^^ 0x63

/-- The inverse substitution of one byte. -/
def unsub (a : Byte) : Byte :=
  let b := a ^^^ 0x63
  ginv (b.rotateLeft 1 ^^^ b.rotateLeft 3 ^^^ b.rotateLeft 6)

/-- The words of an expanded key of 256 bits, newest first: `n` more words; `r` is the round constant. -/
def expand : Nat → Byte → List (List Byte) → List (List Byte)
  | 0, _, w => w
  | n + 1, r, w =>
    let last := w.headD []
    let old := w.getD 7 []
    match w.length % 8 with
    | 0 => expand n (xtime r) (xorBytes old (xorBytes ((last.drop 1 ++ last.take 1).map sub) [r, 0, 0, 0]) :: w)
    | 4 => expand n r (xorBytes old (last.map sub) :: w)
    | _ => expand n r (xorBytes old last :: w)

/-- The 15 round keys of a key of 32 bytes. -/
def roundKeys (key : List Byte) : List (List Byte) :=
  let w := (expand 52 1 ((List.range 8).map fun i => (key.drop (4 * i)).take 4).reverse).reverse
  (List.range 15).map fun i => ((w.drop (4 * i)).take 4).flatten

/-- The rows of a block shifted by `k` columns times their number. -/
def shiftRows (k : Nat) (b : List Byte) : List Byte :=
  (List.range 16).map fun i => b.getD ((i + 4 * k * (i % 4)) % 16) 0

/-- The columns of a block multiplied by a circulant of four factors. -/
def mixColumns (f : List Byte) (b : List Byte) : List Byte :=
  (List.range 16).map fun i =>
    (List.range 4).foldl (fun x j => x ^^^ gmul 8 (b.getD (i / 4 * 4 + j) 0) (f.getD ((j + 4 - i % 4) % 4) 0)) 0

/-- AES-256 of one block of 16 bytes. -/
def aesEncrypt (key b : List Byte) : List Byte :=
  let ks := roundKeys key
  let b := (List.range 13).foldl (fun b i =>
    xorBytes (mixColumns [2, 3, 1, 1] (shiftRows 1 (b.map sub))) (ks.getD (i + 1) [])) (xorBytes b (ks.getD 0 []))
  xorBytes (shiftRows 1 (b.map sub)) (ks.getD 14 [])

/-- The inverse of AES-256 of one block of 16 bytes. -/
def aesDecrypt (key b : List Byte) : List Byte :=
  let ks := roundKeys key
  let b := (List.range 13).foldl (fun b i =>
    mixColumns [14, 11, 13, 9] (xorBytes ((shiftRows 3 b).map unsub) (ks.getD (13 - i) []))) (xorBytes b (ks.getD 14 []))
  xorBytes ((shiftRows 3 b).map unsub) (ks.getD 0 [])

/-- The tweak of the next block of a data unit. -/
def nextTweak (t : BitVec 128) : BitVec 128 := if t.msb then t <<< 1 ^^^ 0x87 else t <<< 1

/-- The tweak of block `j` of a data unit. -/
def tweakOf (key : BitVec 512) (unit j : Nat) : List Byte :=
  let t := aesEncrypt ((leBytes 64 key.toNat).drop 32) (leBytes 16 unit)
  leBytes 16 ((List.range j).foldl (fun t _ => nextTweak t) (BitVec.ofNat 128 (leNat t))).toNat

/-- AES-256-XTS of block `j` of the data unit numbered `unit`: the key pair holds the data key in its low half. -/
def xtsEncrypt (key : BitVec 512) (unit j : Nat) (b : List Byte) : List Byte :=
  let t := tweakOf key unit j
  xorBytes (aesEncrypt ((leBytes 64 key.toNat).take 32) (xorBytes b t)) t

/-- The inverse of `xtsEncrypt`. -/
def xtsDecrypt (key : BitVec 512) (unit j : Nat) (b : List Byte) : List Byte :=
  let t := tweakOf key unit j
  xorBytes (aesDecrypt ((leBytes 64 key.toNat).take 32) (xorBytes b t)) t

/-- AES-256-XTS of a whole data unit. -/
def xtsUnit (key : BitVec 512) (unit : Nat) (l : List Byte) : List Byte :=
  (List.range (l.length / 16)).flatMap fun j => xtsEncrypt key unit j ((l.drop (16 * j)).take 16)

/-- One step of the key unwrap: register A and the blocks R. -/
def unwrapStep (key : List Byte) (st : List Byte × List (List Byte)) (n j i : Nat) : List Byte × List (List Byte) :=
  let t := (leBytes 8 (n * j + i + 1)).reverse
  let b := aesDecrypt key (xorBytes st.1 t ++ st.2.getD i [])
  (b.take 8, st.2.set i (b.drop 8))

/-- The key unwrap of RFC 3394: the key data, if their check value is right. -/
def unwrap (key wrapped : List Byte) : Option (List Byte) :=
  let n := wrapped.length / 8 - 1
  let r := (List.range n).map fun i => (wrapped.drop (8 * (i + 1))).take 8
  let st := (List.range 6).foldl (fun st j =>
    (List.range n).foldl (fun st i => unwrapStep key st n (5 - j) (n - 1 - i)) st) (wrapped.take 8, r)
  if st.1 == List.replicate 8 0xA6 then some st.2.flatten else none

/-- The prime 2^255 − 19. -/
def p25519 : Nat := 2 ^ 255 - 19

/-- A power modulo 2^255 − 19 of an exponent of `n` bits. -/
def powMod : Nat → Nat → Nat → Nat
  | 0, _, _ => 1
  | n + 1, b, e => (if e % 2 = 1 then b else 1) * powMod n (b * b % p25519) (e / 2) % p25519

/-- The inverse modulo 2^255 − 19. -/
def invMod (a : Nat) : Nat := powMod 255 (a % p25519) (p25519 - 2)

/-- A difference modulo 2^255 − 19. -/
def subMod (a b : Nat) : Nat := (a + (p25519 - b % p25519)) % p25519

/-- The ladder of X25519 over the low `n` bits of the scalar, from bit `n − 1` down. -/
def ladder (u k : Nat) : Nat → Nat × Nat × Nat × Nat → Nat × Nat × Nat × Nat
  | 0, x => x
  | n + 1, (x2, z2, x3, z3) =>
    let bit := k / 2 ^ n % 2 = 1
    let (x2, z2, x3, z3) := if bit then (x3, z3, x2, z2) else (x2, z2, x3, z3)
    let a := (x2 + z2) % p25519
    let aa := a * a % p25519
    let b := subMod x2 z2
    let bb := b * b % p25519
    let e := subMod aa bb
    let da := subMod x3 z3 * a % p25519
    let cb := (x3 + z3) * b % p25519
    let x := (da + cb) % p25519
    let z := subMod da cb
    let r := (aa * bb % p25519, e * (aa + 121665 * e) % p25519, x * x % p25519, u * (z * z % p25519) % p25519)
    ladder u k n (if bit then (r.2.2.1, r.2.2.2, r.1, r.2.1) else r)

/-- X25519 of a scalar and a coordinate, each of 32 bytes. -/
def x25519 (k u : List Byte) : List Byte :=
  let u := leNat u % 2 ^ 255
  let (x2, z2, _, _) := ladder u (leNat k % 2 ^ 254 / 8 * 8 + 2 ^ 254) 255 (1, 0, u, 1)
  leBytes 32 (x2 * invMod z2 % p25519)

/-- A point of edwards25519 in extended coordinates. -/
abbrev Point := Nat × Nat × Nat × Nat

/-- The constant d of edwards25519. -/
def dEd : Nat := 37095705934669439343138083508754565189542113879843219016388785533085940283555

/-- The order of the base point. -/
def orderEd : Nat := 2 ^ 252 + 27742317777372353535851937790883648493

/-- The base point. -/
def baseEd : Point :=
  let x := 15112221349535400772501151409588531511454012693041857206046113283949847762202
  let y := 46316835694926478169428394003475163141307993866256225615783033603165251855960
  (x, y, 1, x * y % p25519)

/-- The sum of two points. -/
def addEd (p q : Point) : Point :=
  let (x1, y1, z1, t1) := p
  let (x2, y2, z2, t2) := q
  let a := subMod y1 x1 * subMod y2 x2 % p25519
  let b := (y1 + x1) * (y2 + x2) % p25519
  let c := 2 * dEd * t1 % p25519 * t2 % p25519
  let d := 2 * z1 * z2 % p25519
  let e := subMod b a
  let f := subMod d c
  let g := (d + c) % p25519
  let h := (b + a) % p25519
  (e * f % p25519, g * h % p25519, f * g % p25519, e * h % p25519)

/-- A multiple of a point by the low `n` bits of a number. -/
def mulEd : Nat → Nat → Point → Point
  | 0, _, _ => (0, 1, 1, 0)
  | n + 1, k, p => (if k % 2 = 1 then addEd p else id) (mulEd n (k / 2) (addEd p p))

/-- The 32 bytes of a point. -/
def encodeEd (p : Point) : List Byte :=
  let (x, y, z, _) := p
  let i := invMod z
  leBytes 32 (y * i % p25519 + x * i % p25519 % 2 * 2 ^ 255)

/-- The point of 32 bytes, if they name one. -/
def decodeEd (b : List Byte) : Option Point :=
  let n := leNat b
  let y := n % 2 ^ 255
  let sign := n / 2 ^ 255
  let yy := y * y % p25519
  let u := subMod yy 1
  let v := (dEd * yy + 1) % p25519
  let v3 := v * v % p25519 * v % p25519
  let x := u * v3 % p25519 * powMod 255 (u * v3 % p25519 * (v3 * v % p25519) % p25519) ((p25519 - 5) / 8) % p25519
  let vxx := v * (x * x % p25519) % p25519
  let x := if vxx = u then some x
    else if vxx = subMod 0 u then some (x * powMod 255 2 ((p25519 - 1) / 4) % p25519) else none
  x.bind fun x =>
    if p25519 ≤ y || x = 0 && sign = 1 then none
    else
      let x := if x % 2 = sign then x else p25519 - x
      some (x, y, 1, x * y % p25519)

/-- The secret scalar of a seed of 32 bytes, and the prefix of its nonces. -/
def secretEd (seed : List Byte) : Nat × List Byte :=
  let h := Sha.sha512 seed
  (leNat (h.take 32) % 2 ^ 254 / 8 * 8 + 2 ^ 254, h.drop 32)

/-- The public key of a seed. -/
def publicEd (seed : List Byte) : List Byte := encodeEd (mulEd 256 (secretEd seed).1 baseEd)

/-- The Ed25519 signature of bytes. -/
def signEd (seed m : List Byte) : List Byte :=
  let (a, pre) := secretEd seed
  let r := leNat (Sha.sha512 (pre ++ m)) % orderEd
  let big := encodeEd (mulEd 256 r baseEd)
  let k := leNat (Sha.sha512 (big ++ publicEd seed ++ m)) % orderEd
  big ++ leBytes 32 ((r + k * a) % orderEd)

/-- An Ed25519 signature of bytes is right under a public key. -/
def verifyEd (key m sig : List Byte) : Bool :=
  let n := leNat ((sig.drop 32).take 32)
  match decodeEd key with
  | none => false
  | some (x, y, z, t) =>
    let k := leNat (Sha.sha512 (sig.take 32 ++ key ++ m)) % orderEd
    let minus : Point := (subMod 0 x, y, z, subMod 0 t)
    decide (n < orderEd) && encodeEd (addEd (mulEd 256 n baseEd) (mulEd 256 k minus)) == sig.take 32

end Sys2Proof.Machine.Crypto
end

