-- ==== Sys2Proof/Config.lean ====
section
/-! DEFINITION. What the spec leaves open: free values, which nothing in Lean can evaluate, and the constants of the
part that an implementation fixes. -/

namespace Sys2Proof.Config

/-- Whether a cache still holds an older copy that the spec lets it drop at any time (R113, R162, R168, R230): asked with
a fresh number and used only where the copy differs from the current value. Free value (log 6). -/
opaque cacheKeeps : Nat → Bool

/-- Whether a prefetch fills its line, which it may or may not do (R264). Free value (log 6). -/
opaque prefetchFills : Nat → Bool

/-- Key material that the part makes (R36, R37): a number names the request. Free value (log 7). -/
opaque hearthBytes : Nat → BitVec 512

/-- The seed of the device identity key, derived from a fused secret (R36). Free value (log 7). -/
opaque identitySeed : BitVec 256

/-- The longest image `i` of the boot chain that its loader takes (R35 names the failure and no bound). Free value (log 12). -/
opaque imageRoom : Nat → Nat

/-- The bytes of a lifetime record that its digest covers (R41; R40 gives its items and no layout). Free value (log 9). -/
opaque lifeRecord : List (Nat × BitVec 64) → List Byte

/-- The bank of a stack that holds a sector (R40 counts per bank, and no map is given). Free value (log 9). -/
opaque bankOf : Nat → BitVec 8

/-- Junction temperatures in °C (R13), and core supply voltages in mV (R39), that the sensors read at a power-on. Free values
(log 92). -/
opaque junction : Nat → Nat → Nat

/-- See `junction`. -/
opaque supply : Nat → Nat → Nat

/-- The layout of a lifetime record section (R40 gives its items and no layout). Free value (log 9). -/
opaque lifeSection : Nat → List (Nat × BitVec 64) → List Byte

/-- A field of a supervisor fault record that the spec gives no value for its kind (R165). Free value (log 10). -/
opaque recordField : Nat → Nat

/-- Device identity certificate (R36). Free value (log 7). -/
opaque certificate : Nat → List Byte

/-- Silicon revision and identity: IDENT (R26). -/
def ident : Word := 0x4E34000100000000

/-- Bytes of home memory of one die (R6). -/
def dieBytes : Nat := 96 * 2 ^ 30

/-- Bytes of home memory of the part: die d holds [d·96 GiB, (d+1)·96 GiB) (DESIGN CHOICE, log 1). -/
def memBytes : Nat := 4 * dieBytes

end Sys2Proof.Config
end

