-- ==== Sys2Proof/Machine/State.lean ====
section
/-! DEFINITION. The state of the Norino N4 package: plain data for everything the spec gives the machine, its value at
reset, and the reasons a step can stop. -/

namespace Sys2Proof.Machine

/-- Why the machine stops with a fault. -/
inductive Fault where
  /-- Raised by `step` once a meaning has reached a physical address outside the eight stacks (R1, R6), where the spec
  names no memory. Safe: the machine stops where hardware has nothing to answer with (log 1). -/
  | noMemory (pa : Nat)
  deriving DecidableEq, Repr

/-- Why a step has no meaning. -/
inductive Refusal where
  /-- Raised by an arm of `exec` whose instruction has no meaning yet. Safe: nothing is claimed of it. -/
  | notModelled (mnemonic : String)
  deriving DecidableEq, Repr

/-- A register value of any width up to a long vector register (R80). -/
abbrev Val := BitVec 2048

/-- A register that an issue group writes when it ends (R75, R245, R278, R324). -/
inductive Dest where
  | x (e : Nat)
  | p (n : Nat)
  | v (n : Nat)
  | w (n : Nat)
  | ix
  | flags
  | tepc
  | stallhw
  | stallage
  | dpat (c : Nat)
  | tret
  | vlong                      -- `vmode.long` takes effect (R278)
  | vshort                     -- `vmode.short` takes effect (R278)
  | discard
  deriving DecidableEq, Repr

/-- A pending snapshot write (R75): its tag, where it goes, and its value once it has returned. -/
structure PendW where
  tag : Nat
  dest : Dest
  val : Option Val
  deriving DecidableEq, Repr

/-- Cause codes (R86). -/
inductive Cause where
  | illegalOp | illegalLen | fetchSpan | regBounds | priv | align | lsProt | guard | handle | poison | cop
  | mergeOp | conservation | swizzle | paddock | brk | trap
  deriving DecidableEq, Repr

/-- TCAUSE.CODE of a cause (R86). -/
def Cause.code : Cause → Nat
  | .illegalOp => 0x01 | .illegalLen => 0x02 | .fetchSpan => 0x03 | .regBounds => 0x04 | .priv => 0x05
  | .align => 0x06 | .lsProt => 0x07 | .guard => 0x08 | .handle => 0x09 | .poison => 0x0C | .cop => 0x0D
  | .mergeOp => 0x0E | .conservation => 0x0F | .swizzle => 0x10 | .paddock => 0x12 | .brk => 0x14 | .trap => 0x15

/-- A trap that waits to enter the handler (R77, R333): cause, late bit, TVAL and TEPC. -/
structure TrapReq where
  cause : Cause
  late : Bool
  tval : Word
  tepc : BitVec 57
  deriving DecidableEq, Repr

/-- Why a running thread is not ready (R71), and so what makes it ready again. -/
inductive Wait where
  | none
  | parked                     -- at a switch marker (R75)
  | settled                    -- earlier loads returned, strongly ordered stores acknowledged, earlier flip complete
  | loads                      -- earlier loads returned (R143)
  | sos                        -- strongly ordered stores acknowledged (R139)
  | prepared                   -- the prepare of its commit point is answered (R122)
  | flipped                    -- its commit is complete (R122)
  | stallEmpty                 -- the stall run has moved out (R142)
  | shedClear                  -- its committed entries have left stall and shed (R117)
  | applied                    -- the yards have applied its entries (R117)
  | unorderedClear             -- its unordered entries have left stall and shed (R144)
  | stallRoom (n : Nat)        -- places in the stall run (R107)
  | loadReturn                 -- the load it holds on (R119)
  | page (die ctx va : Nat)    -- a page of a pinned unit (R46)
  | longCtx                    -- a long context (R80)
  | longDone                   -- its long-unit instructions (R76)
  | shortDone                  -- the end of its long mode (R278)
  | copqRoom                   -- a place in its coprocessor queue (R73)
  | copqDrained                -- stream instructions dispatched (R319)
  | mailbox (mask : Nat)       -- a message (R95)
  | mailSent                   -- the target's router (R95)
  | mailFull                   -- the target's router, which has refused its message (R95)
  | channel (c : Nat)          -- a copy channel that is not busy (R323)
  | engine (c : Engine)        -- accesses of a class (R148)
  | flue (n : Nat)             -- the pass that ran when its fence issued: passes finished (R148)
  | barrier                    -- its generation (R270)
  | barrierRoom                -- a generation of a full point (R269)
  | exchange                   -- its xmax exchange (R292)
  | exchangeTurn               -- the core's pending contribution (R292)
  | handle (h : Nat)           -- a scratchpad handle (R274)
  | reply                      -- an answer over the mesh (R259, R338)
  | drain                      -- its drain (R265)
  | started                    -- a request of the I/O die (R349)
  | collRoom                   -- a collective of its core (R329)
  | puts                       -- acknowledgements of its puts (R142)
  | trap                       -- outstanding writes before trap entry (R77)
  | fenceTurn                  -- the total order of fence.sc (R144)
  deriving DecidableEq, Repr

/-- An instruction as issued: what a blocked instruction resumes with, and what a coprocessor instruction carries to
its pipe (R73, R75, R82). `xs` and `vs` hold the operand values read at issue and are used in the pipe only. -/
structure Issue where
  hdr : Hdr
  instr : Instr
  iw : BitVec 128
  pc : BitVec 57
  phase : Nat
  pipe : Bool
  pipeNo : Nat                     -- 0 short vector, 1 long vector, 2 matrix (R82)
  xs : List (XReg × Word)
  vs : List (VReg × Val)
  tags : List Nat
  ix : BitVec 16
  repdone : Nat
  entered : Nat
  seq : Nat
  ctl : List (Nat × BitVec 512)    -- the control blocks that it has captured, by address (R150)
  deriving DecidableEq, Repr

/-- A global load whose result has not returned (R118): the keys it marks and what it will deliver. -/
structure Load where
  tag : Nat
  core : Nat
  die : Nat
  keys : List Nat
  va : Nat
  val : Option Val                 -- none: the combined result is poisoned
  flags : BitVec 5
  fills : List (Nat × BitVec 512)  -- read-cache lines the load fills
  deriving DecidableEq, Repr

/-- Where a commit point stands (R122). -/
inductive CommitSt where
  | idle
  | preparing
  | prepared
  | held (die ctx va : Nat)      -- a pinned unit's prepare on a page that is not resident (R46)
  deriving DecidableEq, Repr

/-- A polynomial accumulator (R98). -/
structure HAcc where
  c : SMap (BitVec 64)
  deg : BitVec 6
  sc : BitVec 16
  deriving DecidableEq, Repr

/-- A guard record (R91). -/
structure Guard where
  pending : Bool
  bank : BitVec 3
  off : BitVec 32
  count : BitVec 8
  deriving DecidableEq, Repr

/-- A row that a part still owes to a get (R326): the part, the core and slot, the local-store offset, its bytes, the
counter reference, and its remote address. -/
structure GetPend where
  part : BitVec 10
  core : Nat
  slot : Nat
  off : Nat
  len : Nat
  ref : Word
  va : Nat
  deriving DecidableEq, Repr

/-- A put update that has not been answered (R327): the part, the core and slot, the unit that sent it, and the message. -/
structure PutPend where
  part : BitVec 10
  core : Nat
  slot : Nat
  unit : Nat
  body : List Byte
  deriving DecidableEq, Repr

/-- A message that leaves the part (R22), and what the part then waits for. -/
structure OutMsg where
  dest : BitVec 10
  cls : Nat
  kind : Nat
  body : List Byte
  gets : List GetPend
  puts : List PutPend
  spawn : Option (Nat × Nat)
  deriving DecidableEq, Repr

/-- A message held in the window of a paired unit (R179): its hashed bytes and what forwarding it brings about. -/
structure WinMsg where
  bytes : List Byte
  ev : Option Ev
  entries : List Entry
  out : Option OutMsg
  ls : Option (Nat × Nat × List Byte)
  deriving DecidableEq, Repr

/-- Whether a slot holds a thread (R62, R71). -/
inductive Status where
  | free | running | wfw
  deriving DecidableEq, Repr

/-- One barrel slot (R71 to R99). -/
structure Thread where
  status : Status
  wait : Wait
  unit : Nat
  cr : Record
  resume : Record
  pc : BitVec 57
  xbase : BitVec 10
  xcount : BitVec 7
  ix : BitVec 16
  p : BitVec 8
  v : SMap (BitVec 256)
  a : SMap (BitVec 40)
  h : SMap HAcc
  s : SMap (BitVec 512)
  mmtk : BitVec 16
  mmta : Bool
  repcnt : BitVec 7
  repdone : BitVec 6
  repmask : BitVec 4
  long : Bool
  lctx : BitVec 3
  lgrant : Option (BitVec 3)       -- context granted to a `vmode.long`, until its group's end (R278)
  shortDue : Bool                  -- `vmode.short` has taken effect, the context is not yet free (R278)
  intrap : Bool
  sup : Bool
  pin : Bool
  lend : Bool
  flags : BitVec 5
  tcause : BitVec 9
  tepc : BitVec 57
  tval : Word
  seq : BitVec 32
  cringh : BitVec 6
  cring : SMap (BitVec 512)
  pend : List PendW
  gwb : List PendW
  groupLen : Nat
  gwbLen : Nat
  cyc : Option Word                -- cycle count that the group's `rdcyc` have returned (R246)
  gwbCyc : Option Word
  heldLate : List Cause            -- late causes that became due while INTRAP = 1 (R182)
  repLive : Bool
  repLen : Len                     -- length of the prefix (R226)
  repWord : Option (Len × Nat)     -- the repeated instruction, fetched once (R243)
  grpFlags : BitVec 5              -- flags that the group's own instructions have raised; set at its end (R245)
  gwbFlags : BitVec 5
  gwbPark : Bool                   -- the interrupted group ended at the `trap` that interrupted it (R247)
  cycFlags : BitVec 5              -- flags of coprocessor instructions that completed in cycle `cycAt` (R249)
  cycAt : Nat
  blocked : Option Issue
  trapReq : Option TrapReq
  loads : List Load
  copq : List Issue
  inflight : List Issue            -- dispatched, not complete, oldest first
  results : List (Nat × List (Nat × Val) × BitVec 5)  -- sequence number, values by tag, flags of a finished instruction
  faultPipes : List Nat            -- pipes that accept no dispatch (R83)
  mmtStop : Option Issue           -- an interrupted mmt (R81)
  mmtHalt : Bool                   -- a trap entry stops the running mmt at its chunk (R81)
  pipeCommit : Option Issue        -- the stream instruction whose implicit commit is under way (R319)
  copFault : Option (Nat × Bool)   -- lowest pending COP fault: sequence number, swizzle (R84)
  mergePend : Option Nat           -- lowest NUM of pending MERGE_OP records (R129)
  padPend : Option Nat             -- target core of a pending PADDOCK (R178)
  consPend : Option (BitVec 4)     -- pending CONSERVATION (R270)
  guard : Guard
  commit : CommitSt
  flip : Option (BitVec 40)        -- a commit whose flip is not complete (R122, R137)
  sosOut : Nat
  cancelled : Bool
  arRel : Option (Scope × Bool)    -- release that `fence.ar` started: scope, and whether the yards have been asked (R144)
  applyOut : Nat                   -- yards still to answer a release (R117)
  drainOut : Nat
  reply : Option Word
  barAt : Option (BarPoint × Nat)
  leaveBy : Option Nat             -- cycle by which a vacated unit must have suspended (R64)
  saveAt : Nat                     -- save area of the vacate (R66)
  mate : Option (Nat × Nat)        -- core and slot of the partner (R67)
  primary : Bool
  window : List WinMsg             -- window being filled (R179)
  closed : List (List WinMsg)      -- closed windows that wait for the partner's hash
  mismatched : Bool                -- this placement is the second (R68)
  deriving DecidableEq, Repr

/-- A conservation monitor (R97). -/
structure Monitor where
  cfg : BitVec 256
  sum : BitVec 128
  ref : BitVec 128
  tsum : SMap (BitVec 128)
  deriving DecidableEq, Repr

/-- A copy channel (R92, R93): its 256-bit state, the DPAT of its next start and of its running start, its owner unit with
its context, the width and trap bit of its updates, and the page that it waits for. -/
structure Chan where
  st : BitVec 256
  dpat : Word
  run : Word
  unit : Nat
  ctx : BitVec 9
  wide : Bool
  trp : Bool
  launch : BitVec 32               -- of the unit that started it (R127)
  waits : Option (Nat × Nat × Nat)
  deriving DecidableEq, Repr

/-- A collective that runs on a core (R329, R330). -/
structure Coll where
  slot : Nat
  unit : Nat
  ctx : BitVec 9
  launch : BitVec 32
  id : BitVec 16
  ty : Ty
  op : MOp
  buf : Nat
  flag : BitVec 32
  ctr : Nat
  out : Nat
  steps : List (BitVec 128)
  deriving DecidableEq, Repr

/-- A barrier generation (R269): context, group, N and its arrivals, oldest first. -/
structure Gen where
  ctx : Nat
  g : Nat
  n : Nat
  arrivals : List Arrival
  deriving DecidableEq, Repr

/-- A translation that a cache keeps (R162): the leaf without A and D, its address and its level. -/
structure Kept where
  leaf : BitVec 128
  place : Nat
  lvl : Nat
  deriving DecidableEq, Repr

/-- A read replica of a page (R168): its context and page, its bytes, and its poisoned granules. -/
structure Replica where
  ctx : Nat
  page : Nat
  bytes : List Byte
  poison : List Nat
  deriving DecidableEq, Repr

/-- One core (R71 to R98). -/
structure Core where
  threads : SMap Thread
  rf : SMap Word
  rot : BitVec 4
  epoch : Nat                      -- cycle at which the core's cycle counter was zero (R246)
  stallhw : BitVec 8
  stallage : BitVec 16
  hwAt : Nat                       -- issue numbers of the last writes of STALLHW and STALLAGE (R85)
  ageAt : Nat
  spbase : BitVec 18
  lspr : SMap (BitVec 64)
  ls : List Host.Cell
  mboxHi : List MailMsg
  mboxLo : List MailMsg
  outbox : List MailMsg
  stats : SMap (BitVec 32)
  mon : SMap Monitor
  skr : BitVec 10
  skg : BitVec 8
  chan : SMap Chan
  stall : List Entry
  rcache : SMap (BitVec 512)
  icache : SMap (BitVec 256)
  ctl : SMap (BitVec 512)          -- copies of control blocks (R150)
  serial : SMap (BitVec 24)
  hist : List (Nat × Nat × Nat)    -- slot, LAUNCH index, first serial, newest first (R129)
  xcount : Nat
  xpend : Option Nat               -- slot with a pending xmax contribution (R292)
  colls : List Coll
  bars : List Gen
  deriving DecidableEq, Repr

/-- A record a manger holds or is sent (R59, R60): its pool key, the chosen core, and whether it has arrived. -/
structure MangerRec where
  key : Word
  cr : Record
  core : Nat
  arrived : Bool
  pair : Option Bool               -- primary or partner of a pair (R67)
  second : Bool                    -- second placement after a mismatch (R68)
  deriving DecidableEq, Repr

/-- An xmax exchange (R292): its number and the contributions, by core position. -/
structure Exch where
  n : Nat
  parts : List (Nat × Contribution)
  deriving DecidableEq, Repr

/-- One cluster (R80, R89, R94, R105). -/
structure Cluster where
  shed : List Entry
  dmask : List (Nat × Nat)         -- task token, yards sent to (R121)
  blocked : List Nat               -- keys whose move waits (R106)
  htab : SMap (BitVec 64)
  gave : SMap (Nat × BitVec 64)    -- handles given: the cycle of the give, and the entry before it (R275)
  longOwner : SMap (Nat × Nat)     -- long context, its core and slot
  w : SMap (BitVec 2048)           -- 16·context + register
  longQ : List (Nat × Nat)         -- core and slot of waiting requests
  manger : List MangerRec
  bars : List Gen
  exch : List Exch
  deriving DecidableEq, Repr

/-- What waits for a page (R166). -/
inductive Waiter where
  | entry (e : Entry) (src : Nat) (atApply : Bool)
  | thread (core slot : Nat)
  | pipe (core slot : Nat)
  | record (r : Record)
  | counter (op : CtrOp)
  | get (src : BitVec 10) (body : List Byte)
  | channel (core chan : Nat)
  | post (ctx : Nat) (words : List Nat)
  deriving DecidableEq, Repr

/-- A wait list of a page (R166): context, page number of 4 KiB, and waiters in arrival order. -/
structure WaitList where
  ctx : Nat
  page : Nat
  items : List Waiter
  deriving DecidableEq, Repr

/-- One compute die's home network interface (R104 to R116, R163 to R168). -/
structure Die where
  yard : List Entry
  dset : List Entry
  blocks : List (List Entry)       -- overflow blocks, oldest first
  yovb : BitVec 64
  yovl : BitVec 16
  fxapply : Bool
  full : Bool
  waits : List WaitList
  tcache : SMap Kept
  replicas : List Replica
  bars : List Gen
  frame : Nat                      -- next frame the fault service allocates
  frozen : List (Nat × Nat × Nat)  -- context, first page, pages of a frozen page (R170)
  heldAt : List (Entry × Nat)      -- accesses held at the input of a frozen page
  deriving DecidableEq, Repr

/-- A queue record (R53). -/
structure Queue where
  ntab : BitVec 52
  ptab : BitVec 52
  depth : Nat
  dmax : BitVec 16
  drops : BitVec 16
  plog : BitVec 5
  v : Bool
  en : Bool
  pair : Bool
  ctx : BitVec 9
  prio : BitVec 8
  last : Nat
  nseq : BitVec 28
  deriving DecidableEq, Repr

/-- A place of the pool run (R56). -/
structure PoolEntry where
  key : Word
  cr : Record
  arrival : Nat
  cancelSeen : Bool
  again : Option Nat               -- primary core of a second placement (R68)
  deriving DecidableEq, Repr

/-- A held insert (R54): its queue and record; the key that a returned record keeps (R60); the primary core of a second
placement (R68). -/
structure HeldIns where
  queue : Nat
  cr : Record
  key : Option Word
  again : Option Nat
  deriving DecidableEq, Repr

/-- A Lumaux port (R14 to R21). -/
structure Port where
  up : Bool
  stopIn : BitVec 4
  stopOut : BitVec 4
  replays : BitVec 8
  errs : BitVec 16
  txSeq : BitVec 8
  rxSeq : BitVec 8
  kept : List (BitVec 512)         -- flits not acknowledged, oldest first
  begun : List (BitVec 512)        -- acknowledged flits of the message whose other flits are kept
  fails : Nat                      -- replays in a row of the flit that `failSeq` numbers
  failSeq : BitVec 8
  ackAt : Nat                      -- cycle of the last ACK
  rx : SMap (List (BitVec 512))    -- receive buffers by class
  waiting : List (Nat × List (BitVec 512))   -- messages that wait: class and flits
  lost : List (List (BitVec 512) × List (BitVec 512))  -- messages lost on a failed port, to be resent on ALT (R19): their
                                   -- flits that were acknowledged, and those that were not
  skip : List (Nat × BitVec 10 × BitVec 10)  -- messages whose rest is discarded (R16): class, source, destination
  deriving DecidableEq, Repr

/-- A vacated rectangle (R64 to R66). -/
structure Vacate where
  word0 : Word
  grace : Nat
  cnt : Nat
  cctx : BitVec 9
  subst : Nat
  save : Nat
  reported : Bool
  since : Nat                      -- cycle of the request (R297)
  deriving DecidableEq, Repr

/-- A flue pass (R171): context, next page, pages left, next output address, pass number and counter. -/
structure Flue where
  ctx : Nat
  page : Nat
  left : Nat
  dest : Nat
  pass : Nat
  cnt : Nat
  deriving DecidableEq, Repr

/-- A migration in progress (R170). -/
structure Migr where
  ctx : Nat
  va : Nat
  size : Nat
  old : Nat
  new : Nat
  cnt : Nat
  begun : Bool                     -- the page is frozen: so it is from the end of the cycle of its start (R183)
  deriving DecidableEq, Repr

/-- An image of the boot chain as it is stored (R34): whether it can be read, its header (length, security version, digest and
signature), the root key that it is signed with, and its bytes. -/
structure Image where
  readable : Bool
  length : Nat
  version : Nat
  digest : BitVec 512
  sig : BitVec 512
  rootKey : BitVec 256
  body : List Byte
  deriving DecidableEq, Repr

/-- The inputs of the boot chain that come from outside the part or are fused in it (R32, R34, R35): the five images (loader
copy A, loader copy B, Dolzia, route tables, part number record), the digest of the root key, the least security version,
and which stacks, dies and ports come up. -/
structure BootIn where
  images : List Image
  rootDigest : BitVec 512
  minVersion : Nat
  stackUp : BitVec 8
  dies : BitVec 4
  ports : BitVec 16
  deriving DecidableEq, Repr

/-- A lifetime record in fabric storage (R40, R41): its counts and its signature. -/
structure LifeRecord where
  counts : List (Nat × BitVec 64)
  sig : List Byte
  deriving DecidableEq, Repr

/-- A unit that is saved exactly (R66, R99): its save area, its slot's token and unit, and what the save area has no place
for. -/
structure Saved where
  area : Nat
  token : BitVec 40
  thread : Thread
  chans : List (Nat × Chan)
  deriving DecidableEq, Repr

/-- The I/O die with the dispatcher, the ports, the host interface and the hearth cores. -/
structure Io where
  ready : BitVec 32
  bootStep : BitVec 8
  bootErr : BitVec 4
  bootDone : Bool
  halted : Bool
  bootIn : BootIn
  mreg : SMap (BitVec 512)
  partNo : BitVec 10
  temps : List Nat                   -- junction temperatures in °C: compute dies 0 to 3, I/O die (R13)
  volts : List Nat                   -- core supply voltages of the compute dies in mV (R39, R40)
  throttled : Bool
  mwdef : BitVec 9
  suberrCount : BitVec 16
  suberrCause : BitVec 4
  suberrQueue : BitVec 12
  ctxb : SMap (BitVec 64)
  watch : SMap (BitVec 128)
  watchDue : SMap Bool               -- watches that a change of this cycle fires at its end, with CAN (R30)
  hcmd : Word
  hcmdBuf : List Host.Cell
  msix : SMap (BitVec 128)
  pba : BitVec 2048
  msixSent : List Nat
  replies : List (List Byte × Bool × Bool)   -- data, poisoned, Completer Abort
  keySlots : SMap (BitVec 512)
  bootKeyId : Nat                    -- names the part's per-boot X25519 key (R36)
  transport : Option (BitVec 256)    -- transport key agreed by the last KEYXCH (R36)
  life : SMap (BitVec 64)
  lifeDue : Nat
  lifeStored : Option LifeRecord     -- the last record in fabric storage (R41)
  lifeAside : List LifeRecord        -- records kept aside, their signature having failed (R41)
  lifeBusy : Bool
  redfishSection : Option Nat        -- record section that a Redfish request is being served (R36)
  redfishOut : List (List Byte)      -- Redfish answers, oldest first (R39)
  tcache : SMap Kept                 -- the I/O die's translation cache (R162)
  lostSectors : List (Nat × Consumer)   -- uncorrectable sectors whose records are posted at the cycle's end (R175)
  heldPosts : List (Nat × List Nat)  -- fault records held for a 257th page (R128, R166): context and words
  refused : List (Nat × Nat)         -- contexts and 4 KiB pages refused in this cycle (R183)
  ports : SMap Port
  route : SMap (BitVec 16)
  sent : List (Nat × BitVec 512)     -- flits that have left, oldest first
  collHeld : List CollMsg
  collDead : List (Nat × BitVec 9 × BitVec 16)  -- collectives that a paddock kill ended: core, context, id (R178)
  queues : SMap Queue
  curRound : SMap Nat
  pool : List PoolEntry
  arrivals : Nat
  held : List HeldIns                -- held inserts, in arrival order (R54)
  nodeReady : List (Nat × Record × Nat × Nat)  -- queue, template, next VUI, copies left (R52)
  waitRecs : List (Nat × Nat × Record)  -- context, counter, parked record (R45)
  ctabBase : SMap (BitVec 64)
  ctabLen : SMap (BitVec 64)
  vacates : List Vacate
  paddock : SMap (BitVec 64)
  fenced : List Nat                  -- clusters killed while they acted as a paddock (R175, R177)
  teardown : List Nat
  saved : List Saved
  rht : SMap (BitVec 128)            -- 17·context + entry
  dph : SMap (BitVec 64)
  ptbr : SMap (BitVec 64)
  hintBase : SMap (BitVec 64)
  hintCount : SMap Nat
  fqBase : SMap (BitVec 64)
  fqNum : SMap Nat
  tha : SMap (BitVec 57)
  thaWas : SMap (Nat × BitVec 57)    -- the cycle of a context's last `sv.fq`, and THA before it (R351)
  sfqCtx : BitVec 9
  sfqBase : BitVec 64
  sfqNum : Nat
  flue : Option Flue
  flueDone : Nat                     -- passes finished since power-on
  flueQ : List Flue
  migr : List Migr
  serialFence : Nat
  bars : List Gen
  scrubAt : Nat
  gets : List GetPend
  puts : List PutPend
  spawns : List (BitVec 10 × Nat × Nat)                   -- part, core, slot of spawns that await an answer
  deriving DecidableEq, Repr

/-- The thread and instruction that a meaning acts on. -/
structure Cur where
  core : Nat
  slot : Nat
  iss : Issue
  deriving DecidableEq, Repr

/-- The state of the package. -/
structure State where
  power : Bool
  cores : SMap Core
  clusters : SMap Cluster
  dies : SMap Die
  io : Io
  mem : List Host.Cell
  poison : List Nat                  -- poisoned granules of home memory, rising
  hbmErr : SMap (BitVec 544)         -- sector: difference of data [511:0], CRC [527:512] and mask [543:528]
  hostMem : List Host.Cell
  agenda : List Ev
  later : List Ev                    -- events tried again in the next cycle
  ev : Ev
  cur : Cur
  issue : Option Issue               -- the instruction latched for this step
  turn : Nat
  now : Nat
  fresh : Nat
  ids : Nat
  stuck : Option Fault               -- the stop a meaning has reached
  deriving DecidableEq, Repr

/-- A record of zeros. -/
def Record.zero : Record where
  pc := 0
  prio := 0
  ctx := 0
  xcount := 0
  pin := false
  launch := 0
  vui := 0
  queue := 0
  node := 0
  arg1 := 0
  arg2 := 0
  arg3 := 0
  arg4 := 0
  arg5 := 0
  owner := 0

/-- The vector mode that instructions are checked and executed under (R80, R278). -/
def Thread.mode (t : Thread) : Bool := t.long && !t.shortDue

/-- An issue that holds nothing. -/
def Issue.none : Issue where
  hdr := ⟨.w64, false⟩
  instr := .nop
  iw := 0
  pc := 0
  phase := 0
  pipe := false
  pipeNo := 0
  xs := []
  vs := []
  tags := []
  ix := 0
  repdone := 0
  entered := 0
  seq := 0
  ctl := []

/-- A guard record with nothing pending. -/
def Guard.clear : Guard := ⟨false, 0, 0, 0⟩

/-- A free slot (R85 reset values; log 3). -/
def Thread.reset : Thread where
  status := .free
  wait := .none
  unit := 0
  cr := Record.zero
  resume := Record.zero
  pc := 0
  xbase := 0
  xcount := 0
  ix := 0
  p := 0
  v := []
  a := []
  h := []
  s := []
  mmtk := 0
  mmta := false
  repcnt := 0
  repdone := 0
  repmask := 0
  long := false
  lctx := 0
  lgrant := none
  shortDue := false
  intrap := false
  sup := false
  pin := false
  lend := false
  flags := 0
  tcause := 0
  tepc := 0
  tval := 0
  seq := 0
  cringh := 0x3F
  cring := []
  pend := []
  gwb := []
  groupLen := 0
  gwbLen := 0
  cyc := none
  gwbCyc := none
  heldLate := []
  repLive := false
  repLen := .w64
  repWord := none
  grpFlags := 0
  gwbFlags := 0
  gwbPark := false
  cycFlags := 0
  cycAt := 0
  blocked := none
  trapReq := none
  loads := []
  copq := []
  inflight := []
  results := []
  faultPipes := []
  mmtStop := none
  mmtHalt := false
  pipeCommit := none
  copFault := none
  mergePend := none
  padPend := none
  consPend := none
  guard := Guard.clear
  commit := .idle
  flip := none
  sosOut := 0
  cancelled := false
  arRel := none
  applyOut := 0
  drainOut := 0
  reply := none
  barAt := none
  leaveBy := none
  saveAt := 0
  mate := none
  primary := false
  window := []
  closed := []
  mismatched := false

/-- A monitor at reset (R97). -/
def Monitor.reset : Monitor := ⟨0, 0, 0, []⟩

/-- An accumulator at reset (R43, R98). -/
def HAcc.reset : HAcc := ⟨[], 0, 0⟩

/-- DPAT at reset: BLKG 1, NCORE 8 (R93). -/
def dpatReset : Word := 0x0001800000000000

/-- A channel at reset (R92, R93). -/
def Chan.reset : Chan := ⟨0, dpatReset, dpatReset, 0, 0, false, false, 0, none⟩

/-- A core at reset (R72, R85, R88, R313; log 2, 3). -/
def Core.reset : Core where
  threads := []
  rf := []
  rot := 0
  epoch := 0
  stallhw := 96
  stallage := 2048
  hwAt := 0
  ageAt := 0
  spbase := 0x20000
  lspr := []
  ls := []
  mboxHi := []
  mboxLo := []
  outbox := []
  stats := []
  mon := []
  skr := 127
  skg := 0
  chan := []
  stall := []
  rcache := []
  icache := []
  ctl := []
  serial := []
  hist := []
  xcount := 0
  xpend := none
  colls := []
  bars := []

/-- A cluster at reset. -/
def Cluster.reset : Cluster where
  shed := []
  dmask := []
  blocked := []
  htab := []
  gave := []
  longOwner := []
  w := []
  longQ := []
  manger := []
  bars := []
  exch := []

/-- A die at reset. -/
def Die.reset : Die where
  yard := []
  dset := []
  blocks := []
  yovb := 0
  yovl := 0
  fxapply := false
  full := false
  waits := []
  tcache := []
  replicas := []
  bars := []
  frame := 0
  frozen := []
  heldAt := []

/-- A queue record at reset (R53). -/
def Queue.reset : Queue where
  ntab := 0
  ptab := 0
  depth := 0
  dmax := 0
  drops := 0
  plog := 0
  v := false
  en := false
  pair := false
  ctx := 0
  prio := 0
  last := 0
  nseq := 0

/-- A port at reset (R21; log 3). -/
def Port.reset : Port where
  up := false
  stopIn := 0
  stopOut := 0
  replays := 0
  errs := 0
  txSeq := 0
  rxSeq := 0
  kept := []
  begun := []
  fails := 0
  failSeq := 0
  ackAt := 0
  rx := []
  waiting := []
  lost := []
  skip := []

/-- An image of no bytes, with the digest and a signature that R34 asks for (log 12). -/
def Image.empty : Image where
  readable := true
  length := 0
  version := 0
  digest := 
    0x3EDA27F97A3238A5817A4147BD31B9632FEC7E87D21883FFB0F2855D3CD1D047CEE96CD321A9F483DC15570B05E420D607806DD6502854F1BDB8EF7E35E183CF
  sig := 
    0x0B2F6ECAD2A5304168013BF1632FE3C116F212AC98217D9EAC10F43EE5ADE4DA86E160F7F159BF76066057DC8AE736FE19042087413AC7111D4E251E46C00D1C
  rootKey := 
    0xE4805CC0A11380D83B25ADD279E519D1E694CC7DFD18CD347C0B4A2FF51510CD
  body := []

/-- Boot inputs in which every image, stack, die and port is good (log 12). -/
def BootIn.good : BootIn where
  images := List.replicate 5 Image.empty
  rootDigest := 
    0x5468A8D3D612D1FE12B8270D4CE4EE106BC549DBC28349303597C4B850D41C648C6B452E87B8A0599FD807D0934C96288A43F9451FBF526E1F22F281AC1134C6
  minVersion := 0
  stackUp := 0xFF
  dies := 0xF
  ports := 0xFFFF

/-- Cycles between two lifetime records (R41). -/
def lifePeriod : Nat := 2 ^ 36

/-- An MSI-X vector at reset: masked (log 13). -/
def msixReset : BitVec 128 := BitVec.ofNat 128 (2 ^ 96)

/-- The I/O die at reset. -/
def Io.reset : Io where
  ready := 0
  bootStep := 0
  bootErr := 0
  bootDone := false
  halted := false
  bootIn := BootIn.good
  mreg := []
  partNo := 0
  temps := [20, 20, 20, 20, 20]
  volts := [0, 0, 0, 0]
  throttled := false
  mwdef := 0
  suberrCount := 0
  suberrCause := 0
  suberrQueue := 0
  ctxb := []
  watch := []
  watchDue := []
  hcmd := 0
  hcmdBuf := []
  msix := []
  pba := 0
  msixSent := []
  replies := []
  keySlots := []
  bootKeyId := 0
  transport := none
  life := []
  lifeDue := lifePeriod
  lifeStored := none
  lifeAside := []
  lifeBusy := false
  redfishSection := none
  redfishOut := []
  tcache := []
  lostSectors := []
  heldPosts := []
  refused := []
  ports := []
  route := []
  sent := []
  collHeld := []
  collDead := []
  queues := []
  curRound := []
  pool := []
  arrivals := 0
  held := []
  nodeReady := []
  waitRecs := []
  ctabBase := []
  ctabLen := []
  vacates := []
  paddock := []
  fenced := []
  teardown := []
  saved := []
  rht := []
  dph := []
  ptbr := []
  hintBase := []
  hintCount := []
  fqBase := []
  fqNum := []
  tha := []
  thaWas := []
  sfqCtx := 0
  sfqBase := 0
  sfqNum := 0
  flue := none
  flueDone := 0
  flueQ := []
  migr := []
  serialFence := 0
  bars := []
  scrubAt := 0
  gets := []
  puts := []
  spawns := []

/-- The package right after reset: off (R12, R32), every register at its reset value, no memory listed. -/
def State.reset : State where
  power := false
  cores := []
  clusters := []
  dies := []
  io := Io.reset
  mem := []
  poison := []
  hbmErr := []
  hostMem := []
  agenda := []
  later := []
  ev := .powerOn
  cur := ⟨0, 0, Issue.none⟩
  issue := none
  turn := 0
  now := 0
  fresh := 0
  ids := 0
  stuck := none

/-- What a byte that nothing has written reads as (DESIGN CHOICE, log 2). -/
def memDefault : Byte := 0

/-- The canonical form of a memory: addresses strictly rising from `lo` on, no entry equal to what an unlisted address
reads as. -/
def Memory.wfFrom : Nat → List Host.Cell → Bool
  | _, [] => true
  | lo, (a, b) :: m => lo ≤ a && b != memDefault && Memory.wfFrom (a + 1) m

/-- The canonical form of a memory. -/
def Memory.wf (m : List Host.Cell) : Bool := Memory.wfFrom 0 m

end Sys2Proof.Machine
end

