-- ==== Sys2Proof/Machine/Ops.lean ====
section
/-! DEFINITION. The shared operations over state: maps and memory, threads and registers, issue groups, blocking and
retiring, taking an exception and returning from one (R75, R77, R78, R87, R333, R334). -/

namespace Sys2Proof.Machine

/-- The entry of a sparse map, if it is listed. -/
def find? {α : Type} : SMap α → Nat → Option α
  | [], _ => none
  | (k, v) :: m, n => if n < k then none else if n = k then some v else find? m n

/-- The entry of a sparse map, or its default. -/
def look {α : Type} (m : SMap α) (n : Nat) (d : α) : α := (find? m n).getD d

/-- A sparse map with one entry written. -/
def put {α : Type} : SMap α → Nat → α → SMap α
  | [], n, v => [(n, v)]
  | (k, w) :: m, n, v => if n < k then (n, v) :: (k, w) :: m else if n = k then (n, v) :: m else (k, w) :: put m n v

/-- A sparse map with one entry removed. -/
def del {α : Type} : SMap α → Nat → SMap α
  | [], _ => []
  | (k, w) :: m, n => if n = k then m else (k, w) :: del m n

/-- Reads one byte (log 2). -/
def Memory.read : List Host.Cell → Nat → Byte
  | [], _ => memDefault
  | (k, b) :: m, a => if a < k then memDefault else if a = k then b else Memory.read m a

/-- Writes one byte and keeps the canonical form. -/
def Memory.write : List Host.Cell → Nat → Byte → List Host.Cell
  | [], a, b => if b = memDefault then [] else [(a, b)]
  | (k, c) :: m, a, b =>
    if a < k then (if b = memDefault then (k, c) :: m else (a, b) :: (k, c) :: m)
    else if a = k then (if b = memDefault then m else (a, b) :: m)
    else (k, c) :: Memory.write m a b

/-- Reads `n` bytes in ascending order. -/
def Memory.readN (m : List Host.Cell) (a : Nat) : Nat → List Byte
  | 0 => []
  | n + 1 => Memory.read m a :: Memory.readN m (a + 1) n

/-- Writes bytes in ascending order. -/
def Memory.writeN : List Host.Cell → Nat → List Byte → List Host.Cell
  | m, _, [] => m
  | m, a, b :: bs => Memory.writeN (Memory.write m a b) (a + 1) bs

/-- Little-endian number of `n` bytes. -/
def Memory.num (m : List Host.Cell) (a n : Nat) : Nat := leNat (Memory.readN m a n)

/-- A list without an element's first occurrence. -/
def dropFirst {α : Type} (p : α → Bool) : List α → List α
  | [] => []
  | x :: xs => if p x then xs else x :: dropFirst p xs

/-- Updates the elements that satisfy a test. -/
def mapIf {α : Type} (p : α → Bool) (f : α → α) (l : List α) : List α := l.map fun x => if p x then f x else x

/-- Core `n`. -/
def State.coreAt (s : State) (n : Nat) : Core := look s.cores n Core.reset
/-- Cluster `n`. -/
def State.clusterAt (s : State) (n : Nat) : Cluster := look s.clusters n Cluster.reset
/-- Compute die `n`. -/
def State.dieAt (s : State) (n : Nat) : Die := look s.dies n Die.reset
/-- Slot `k` of core `n`. -/
def State.thr (s : State) (n k : Nat) : Thread := look (s.coreAt n).threads k Thread.reset

/-- The partner of a paired unit's copy, while it is linked back (R67). -/
def State.mateAt (s : State) (n k : Nat) : Option (Nat × Nat) :=
  match (s.thr n k).mate with
  | some (m, j) => if (s.thr m j).mate == some (n, k) then some (m, j) else none
  | none => none

/-- Updates a core. -/
def State.modCore (s : State) (n : Nat) (f : Core → Core) : State := { s with cores := put s.cores n (f (s.coreAt n)) }
/-- Updates a cluster. -/
def State.modCluster (s : State) (n : Nat) (f : Cluster → Cluster) : State :=
  { s with clusters := put s.clusters n (f (s.clusterAt n)) }
/-- Updates a die. -/
def State.modDie (s : State) (n : Nat) (f : Die → Die) : State := { s with dies := put s.dies n (f (s.dieAt n)) }
/-- Updates the I/O die. -/
def State.modIo (s : State) (f : Io → Io) : State := { s with io := f s.io }
/-- Updates a slot's thread. -/
def State.modThr (s : State) (n k : Nat) (f : Thread → Thread) : State :=
  s.modCore n fun c => { c with threads := put c.threads k (f (look c.threads k Thread.reset)) }

/-- The thread that the instruction acts on. -/
def State.me (s : State) : Thread := s.thr s.cur.core s.cur.slot
/-- Updates the thread that the instruction acts on. -/
def State.modMe (s : State) (f : Thread → Thread) : State := s.modThr s.cur.core s.cur.slot f
/-- The core that the instruction runs on. -/
def State.myCore (s : State) : Core := s.coreAt s.cur.core
/-- Updates the core that the instruction runs on. -/
def State.modMyCore (s : State) (f : Core → Core) : State := s.modCore s.cur.core f

/-- Events that come before the others of this cycle. -/
def State.pushFront (s : State) (l : List Ev) : State := { s with agenda := l ++ s.agenda }

/-- Appends events that have come about. -/
def State.push (s : State) (l : List Ev) : State := { s with agenda := s.agenda ++ l }

/-- Has an event tried again in the next cycle. -/
def State.defer (s : State) (e : Ev) : State := { s with later := s.later ++ [e] }

/-- The cores have their turns of the cycle: an event that yields to others of its cycle waits for the end of the turns. -/
def State.inTurns (s : State) : Bool := s.turn != 0

/-- Stops the machine at its next step. -/
def State.stop (s : State) (f : Fault) : State := { s with stuck := s.stuck.or (some f) }

/-- A fresh number. -/
def State.tick (s : State) : State := { s with fresh := s.fresh + 1 }

/-- Die of a core number (R7). -/
def dieOf (n : Nat) : Nat := n / 576
/-- Cluster of a core number (R7). -/
def clusterOf (n : Nat) : Nat := dieOf n * 72 + n % 576 / 24 * 3 + n % 24 / 8
/-- Position of a core in its cluster (R7). -/
def posOf (n : Nat) : Nat := n % 24 % 8
/-- The core at a position of a cluster (R7). -/
def coreOf (cl pos : Nat) : Nat := cl / 72 * 576 + cl % 72 / 3 * 24 + cl % 3 * 8 + pos
/-- Package column of a core (R7). -/
def colOf (n : Nat) : Nat := 24 * (dieOf n % 2) + n % 24
/-- Package row of a core (R7). -/
def rowOf (n : Nat) : Nat := 24 * (dieOf n / 2) + n % 576 / 24
/-- Number of cores (R1). -/
def coreCount : Nat := 2304

/-- A core lies in a rectangle given in the layout of R64 word 0 and R176; a reversed rectangle holds none. -/
def inRect (w : Nat) (n : Nat) : Bool :=
  let xw := bitsOf w 18 6
  let yn := bitsOf w 12 6
  let xe := bitsOf w 6 6
  let ys := bitsOf w 0 6
  xw ≤ colOf n && colOf n ≤ xe && yn ≤ rowOf n && rowOf n ≤ ys

/-- The rectangle is not reversed (R64, R176). -/
def rectOk (w : Nat) : Bool := bitsOf w 18 6 ≤ bitsOf w 6 6 && bitsOf w 12 6 ≤ bitsOf w 0 6

/-- The paddock of a core: the lowest-numbered valid one that contains it (R176). -/
def State.paddockOf (s : State) (n : Nat) : Option Nat :=
  (s.io.paddock.find? fun (_, v) => v.getLsbD 63 && rectOk v.toNat && inRect v.toNat n).map Prod.fst

/-- The core lies in a paddock that is killed (R177, R178); a core in no paddock, in a cluster that was killed as one (R175). -/
def State.killed (s : State) (n : Nat) : Bool :=
  match s.paddockOf n with
  | some k => (look s.io.paddock k 0).getLsbD 62
  | none => s.io.fenced.contains (clusterOf n)

/-- The core lies in a vacated rectangle (R64). -/
def State.vacated (s : State) (n : Nat) : Bool := s.io.vacates.any fun v => inRect v.word0.toNat n

/-- A READY bit (R33). -/
def State.readyBit (s : State) (k : Nat) : Bool := s.io.ready.getLsbD k
/-- The die is usable (R33). -/
def State.dieReady (s : State) (d : Nat) : Bool := s.readyBit (26 + d)

/-- The task token of a slot's current task (R101). -/
def State.token (s : State) (n k : Nat) : BitVec 40 :=
  BitVec.ofNat 40 (n * 2 ^ 28 + k * 2 ^ 24 + (look (s.coreAt n).serial k 0).toNat)
/-- The token of updates that no task makes (R101). -/
def noTask : BitVec 40 := 0xFFFFFFFFFF
/-- The core a token names. -/
def tokCore (t : BitVec 40) : Nat := t.toNat / 2 ^ 28
/-- The slot a token names. -/
def tokSlot (t : BitVec 40) : Nat := t.toNat / 2 ^ 24 % 16
/-- The serial a token names. -/
def tokSerial (t : BitVec 40) : BitVec 24 := BitVec.ofNat 24 t.toNat

/-- Window index of a scalar operand, computed exactly (R78). -/
def Thread.index (t : Thread) : XReg → Int
  | .dir n => n.toNat
  | .rel d => t.ix.toInt + d.toNat

/-- The scalar operand lies in the window (R78). -/
def Thread.inWindow (t : Thread) (r : XReg) : Bool := 0 ≤ t.index r && t.index r < t.xcount.toNat

/-- Register file entry of a window index (R78). -/
def Thread.rfAt (t : Thread) (e : Nat) : Nat := (t.xbase.toNat + e) % 1024

/-- A window register of a thread of a core: x0 reads zero (R78). -/
def Core.readX (c : Core) (t : Thread) (e : Nat) : Word := if e = 0 then 0 else look c.rf (t.rfAt e) 0

/-- Writes a window register; a write to x0 is discarded (R75). -/
def Core.writeX (c : Core) (t : Thread) (e : Nat) (v : Word) : Core :=
  if e = 0 then c else { c with rf := put c.rf (t.rfAt e) v }

/-- A scalar operand: its value at the group's start, or in a pipe the value read at issue (R75, R78). -/
def State.x (s : State) (r : XReg) : Word :=
  if s.cur.iss.pipe then ((s.cur.iss.xs.find? fun p => p.1 == r).map Prod.snd).getD 0
  else s.myCore.readX s.me (s.me.index r).toNat

/-- Where a scalar destination goes. -/
def State.destX (s : State) (r : XReg) : Dest :=
  let e := (s.me.index r).toNat
  if e = 0 then .discard else .x e

/-- A predicate; p0 reads true (R79). -/
def Thread.pred (t : Thread) (n : PReg) : Bool := n == 0 || t.p.getLsbD n.toNat

/-- Where a predicate destination goes; a write to p0 is discarded (R75). -/
def destP (n : PReg) : Dest := if n = 0 then .discard else .p n.toNat

/-- Adds a snapshot write whose value is known (R75). -/
def State.wr (s : State) (d : Dest) (v : Val) : State :=
  ({ s with ids := s.ids + 1 } : State).modMe fun t => { t with pend := t.pend ++ [⟨s.ids, d, some v⟩] }

/-- Writes a scalar destination at the group's end. -/
def State.wx (s : State) (r : XReg) (v : Word) : State := s.wr (s.destX r) (v.setWidth 2048)

/-- Writes a predicate destination at the group's end. -/
def State.wp (s : State) (r : PReg) (v : Bool) : State := s.wr (destP r) (BitVec.ofNat 2048 v.toNat)

/-- Reserves a snapshot write whose value returns later; the tag is the state's `ids` before. -/
def State.reserve (s : State) (d : Dest) : State :=
  ({ s with ids := s.ids + 1 } : State).modMe fun t => { t with pend := t.pend ++ [⟨s.ids, d, none⟩] }

/-- A list of writes with one of them returned. -/
def fillPend (tag : Nat) (v : Val) (l : List PendW) : List PendW :=
  mapIf (fun w => w.tag == tag) (fun w => { w with val := some v }) l

/-- Every write of the group has returned. -/
def Thread.pendDone (t : Thread) : Bool := t.pend.all fun w => w.val.isSome

/-- A long vector register of a thread (R80). -/
def State.readW (s : State) (n k r : Nat) : Val :=
  look (s.clusterAt (clusterOf n)).w (16 * (s.thr n k).lctx.toNat + r) 0

/-- Writes a long vector register of a thread; it is pipe-ordered, so it is written when it returns (R76). -/
def State.writeW (s : State) (n k r : Nat) (v : Val) : State :=
  let t := s.thr n k
  if t.long then s.modCluster (clusterOf n) fun c => { c with w := put c.w (16 * t.lctx.toNat + r) v } else s

/-- The write with a tag has returned (to the running group or to the one set aside). -/
def State.fill (s : State) (n k tag : Nat) (v : Val) : State :=
  let t := s.thr n k
  let s := match ((t.pend ++ t.gwb).find? fun w => w.tag == tag).map PendW.dest with
    | some (.w r) => s.writeW n k r v
    | _ => s
  let s := s.modThr n k fun t => { t with pend := fillPend tag v t.pend, gwb := fillPend tag v t.gwb }
  if (s.thr n k).wait == .parked then s.push [.groupEnd n k] else s

/-- The next task of a slot: its serial, modulo 2^24, from 0 (R101). -/
def State.nextTask (s : State) (n k : Nat) : State :=
  s.modCore n fun c =>
    { c with
      serial := put c.serial k (match find? c.serial k with
        | none => 0
        | some x => x + 1) }

/-- Leaves the current instruction waiting; it runs on at `phase` once its wait is over. -/
def State.block (s : State) (w : Wait) (phase : Nat) : State :=
  s.modMe fun t => { t with wait := w, blocked := some { s.cur.iss with phase := phase } }

/-- Phase of the current instruction. -/
def State.phase (s : State) : Nat := s.cur.iss.phase

/-- The next address after the current instruction. -/
def State.nextPc (s : State) : BitVec 57 := s.cur.iss.pc + BitVec.ofNat 57 s.cur.iss.hdr.len.bytes

/-- Parks the thread at its group's end (R75). -/
def State.park (s : State) : State :=
  (s.modMe fun t => { t with wait := .parked }).push [.groupEnd s.cur.core s.cur.slot]

/-- After the last repeat of a live prefix nothing is left to repeat (R87). The state that an interrupted repeat left
behind stays while its trap handler runs. -/
def Thread.repEnd (t : Thread) : Thread :=
  if t.repLive then { t with repLive := false, repWord := none, repcnt := 0, repdone := 0, repmask := 0 } else t

/-- The current instruction is done: the pc moves on, and the group ends at a taken transfer or a switch marker
(R74, R75). A repeat that is not the last ends its group and leaves the pc at the prefix (R87, R243). -/
def State.retireTo (s : State) (target : Option (BitVec 57)) : State :=
  let s := s.modMe fun t => { t with wait := .none, blocked := none }
  let t := s.me
  if t.repLive && 1 < t.repcnt.toNat then
    (s.modMe fun t => { t with repcnt := t.repcnt - 1, repdone := t.repdone + 1 }).park
  else
    let s := s.modMe fun t => { t.repEnd with pc := target.getD s.nextPc }
    if target.isSome || s.cur.iss.hdr.sw then s.park else s

/-- The current instruction is done and control goes on after it. -/
def State.retire (s : State) : State := s.retireTo none

/-- Trap handler address of a context (R333); in the cycle of an `sv.fq`, the one before it (R351). -/
def State.tha (s : State) (ctx : Nat) : BitVec 57 :=
  match find? s.io.thaWas ctx with
  | some (c, v) => if c = s.now then v else look s.io.tha ctx 0
  | none => look s.io.tha ctx 0

/-- A write that the group write buffer keeps (R77): a discarded one and a pipe-ordered one are none. -/
def Dest.kept : Dest → Bool
  | .discard | .w _ => false
  | _ => true

/-- Entry to the trap handler (R77, R333): a double fault while INTRAP = 1 or without a handler; otherwise the cause, value
and address are saved, the group write buffer is set aside, and control goes to THA. Writes of the group that have not
returned are waited for first. -/
def State.takeTrap (s : State) (n k : Nat) (r : TrapReq) : State :=
  let t := s.thr n k
  if t.intrap || s.tha t.cr.ctx.toNat == 0 then
    (s.modThr n k fun t => { t with wait := .trap, blocked := none, trapReq := some r }).push [.taskAbort n k .double]
  else if !t.pendDone then s.modThr n k fun t => { t with wait := .trap, blocked := none, trapReq := some r }
  else
    s.modThr n k fun t =>
      { t with
        wait := .none, blocked := none, trapReq := none
        tcause := BitVec.ofNat 9 ((if r.late then 256 else 0) + r.cause.code), tval := r.tval, tepc := r.tepc
        gwb := t.pend.filter fun w => w.dest.kept, gwbLen := t.groupLen, gwbCyc := t.cyc, gwbFlags := t.grpFlags
        pend := [], groupLen := 0, cyc := none, grpFlags := 0
        mmtHalt := t.inflight.any fun i => match i.instr with
          | .mmt .. => true
          | _ => false
        intrap := true, repLive := false, repWord := none, pc := s.tha t.cr.ctx.toNat }

/-- A precise fault at the current instruction: TEPC is the instruction, or the prefix of a repeat (R77, R87, R181). The
instruction counts in its group once it runs again. -/
def State.raise (s : State) (c : Cause) (tval : Word) : State :=
  (s.modMe fun t => { t with groupLen := t.groupLen - 1 }).takeTrap s.cur.core s.cur.slot ⟨c, false, tval, s.me.pc⟩

/-- Return from the trap handler (R334): INTRAP cleared, the saved group write buffer restored, and control at TEPC as
`tret` read it. An interrupted repeat goes on at its prefix without reading it again (R87). A group that a `trap` with a switch
marker interrupted ends (R247). -/
def State.trapReturn (s : State) (n k : Nat) (tepc : BitVec 57) : State :=
  let park := (s.thr n k).gwbPark
  let s := s.modThr n k fun t =>
    { t with
      wait := if park then .parked else .none
      blocked := none, intrap := false, pend := t.gwb, groupLen := t.gwbLen, cyc := t.gwbCyc, grpFlags := t.gwbFlags
      gwb := [], gwbLen := 0, gwbCyc := none, gwbFlags := 0, gwbPark := false
      pc := tepc, repLive := t.repcnt != 0, repWord := none }
  if park then s.push [.groupEnd n k] else s

/-- Frees the long context of a slot whose long-unit instructions are done (R80, R278): a waiting request is granted. -/
def State.endLong (s : State) (n k : Nat) : State :=
  let t := s.thr n k
  if t.shortDue && (t.copq ++ t.inflight).all fun i => i.pipeNo != 1 then
    let cl := clusterOf n
    let s := s.modThr n k fun t => { t with long := false, lctx := 0, shortDue := false }
    let s := s.modCluster cl fun c => { c with longOwner := del c.longOwner t.lctx.toNat }
    if (s.clusterAt cl).longQ.isEmpty then s else s.push [.longContextGrant cl]
  else s

/-- The writes of a group, applied in program order (R75): a later one to the same register wins. Of STALLHW and STALLAGE, which
the threads of a core share, the write that was issued last holds (R85); flags of a completion in this cycle follow a write of
FLAGS (R249). -/
def applyWrites (n k : Nat) (l : List PendW) (s : State) : State :=
  l.foldl (fun s w =>
    let v := w.val.getD 0
    match w.dest with
    | .x e => s.modCore n fun c => c.writeX (look c.threads k Thread.reset) e (v.setWidth 64)
    | .p i => s.modThr n k fun t =>
        { t with p := (t.p &&& ~~~(BitVec.ofNat 8 (2 ^ i))) ||| (if v == 0 then 0 else BitVec.ofNat 8 (2 ^ i)) }
    | .v i => s.modThr n k fun t => { t with v := put t.v i (v.setWidth 256) }
    | .w _ => s
    | .ix => s.modThr n k fun t => { t with ix := v.setWidth 16 }
    | .flags => s.modThr n k fun t =>
        { t with flags := v.setWidth 5 ||| (if t.cycAt = s.now then t.cycFlags else 0) }
    | .tepc => s.modThr n k fun t => { t with tepc := v.setWidth 57 }
    | .stallhw => s.modCore n fun c => if c.hwAt ≤ w.tag then { c with stallhw := v.setWidth 8, hwAt := w.tag } else c
    | .stallage => s.modCore n fun c => if c.ageAt ≤ w.tag then { c with stallage := v.setWidth 16, ageAt := w.tag } else c
    | .dpat i => s.modCore n fun c =>
        { c with chan := put c.chan i { look c.chan i Chan.reset with dpat := v.setWidth 64 } }
    | .tret | .discard => s
    | .vlong =>
      let t := s.thr n k
      let c := match t.lgrant with
        | some c => c
        | none => t.lctx
      let s := s.modThr n k fun t => { t with long := true, lctx := c, lgrant := none, shortDue := false }
      s.modCluster (clusterOf n) fun x => { x with w := x.w.filter fun (i, _) => i / 16 != c.toNat }
    | .vshort => s.modThr n k fun t => { t with shortDue := t.long }) s

/-- The late cause that a group's end delivers while INTRAP = 0 (R84, R178, R182). -/
def Thread.lateAtEnd (t : Thread) : Option TrapReq :=
  match t.copFault with
  | some (n, sw) => some ⟨if sw then .swizzle else .cop, true, BitVec.ofNat 64 n, t.pc⟩
  | none =>
    match t.padPend with
    | some c => some ⟨.paddock, true, BitVec.ofNat 64 c, t.pc⟩
    | none =>
      match t.heldLate with
      | .mergeOp :: _ => some ⟨.mergeOp, true, BitVec.ofNat 64 (t.mergePend.getD 0), t.pc⟩
      | .guard :: _ => some ⟨.guard, true, BitVec.ofNat 64 (t.guard.bank.toNat * 2 ^ 32 + t.guard.off.toNat), t.pc⟩
      | .conservation :: _ => some ⟨.conservation, true, (t.consPend.getD 0).setWidth 64, t.pc⟩
      | _ => none

/-- A late cause that is delivered pends no longer. -/
def Thread.clearLate (t : Thread) (c : Cause) : Thread :=
  match c with
  | .cop | .swizzle => { t with copFault := none, faultPipes := [] }
  | .paddock => { t with padPend := none }
  | .mergeOp => { t with mergePend := none, heldLate := t.heldLate.filter (· != .mergeOp) }
  | .guard => { t with guard := Guard.clear, heldLate := t.heldLate.filter (· != .guard) }
  | .conservation => { t with consPend := none, heldLate := t.heldLate.filter (· != .conservation) }
  | _ => t

/-- Delivers a late cause: it is cleared, and the handler entered (R77, R333). -/
def State.deliverLate (s : State) (n k : Nat) (r : TrapReq) : State :=
  (s.modThr n k fun t => t.clearLate r.cause).takeTrap n k r

/-- The end of a group whose writes have all returned (R75): they become visible; a `tret` among them returns from the
handler (R334); otherwise a late cause that is due is delivered (R84). -/
def State.endGroup (s : State) (n k : Nat) : State :=
  let w := (s.thr n k).pend
  let g := (s.thr n k).grpFlags
  let s := s.modThr n k fun t => { t with pend := [], groupLen := 0, cyc := none, grpFlags := 0, wait := .none }
  let s := ((applyWrites n k w s).modThr n k fun t => { t with flags := t.flags ||| g }).endLong n k
  match w.find? fun x => x.dest == .tret with
  | some x => s.trapReturn n k (BitVec.ofNat 57 (x.val.getD 0).toNat)
  | none =>
    if (s.thr n k).intrap then s
    else
      match (s.thr n k).lateAtEnd with
      | some r => s.deliverLate n k r
      | none => s

/-- Where a vector destination goes; a stream is written by its own access (R319). -/
def destV : VReg → Dest
  | .v n => .v n.toNat
  | .w n => .w n.toNat
  | .s _ => .discard

/-- Writes a vector destination whose value is known: a short register at the group's end, a long one at once. -/
def State.wv (s : State) (r : VReg) (v : Val) : State :=
  match r with
  | .v n => s.wr (.v n.toNat) v
  | .w n => s.writeW s.cur.core s.cur.slot n.toNat v
  | .s _ => s

/-- A short vector register at the group's start. -/
def Thread.readV (t : Thread) (n : Nat) : BitVec 256 := look t.v n 0

/-- Bytes of the vector register width of a thread's mode (R276). -/
def Thread.rb (t : Thread) : Nat := if t.mode then 256 else 32

/-- A vector operand: its value at the group's start, or in a pipe the value read at issue; a long register as it stands
(R75, R76). -/
def State.vec (s : State) (r : VReg) : Val :=
  match r with
  | .v n =>
    if s.cur.iss.pipe then ((s.cur.iss.vs.find? fun p => p.1 == r).map Prod.snd).getD 0
    else (s.me.readV n.toNat).setWidth 2048
  | .w n => s.readW s.cur.core s.cur.slot n.toNat
  | .s _ => ((s.cur.iss.vs.find? fun p => p.1 == r).map Prod.snd).getD 0

/-- Slots of a core that hold a thread, in order. -/
def Core.slots (c : Core) : List (Nat × Thread) := c.threads.filter fun p => p.2.status != .free

/-- Consecutive stretches of at most `n` elements. -/
def stretches {α : Type} (n : Nat) : Nat → List α → List (List α)
  | 0, _ => []
  | fuel + 1, l => if l.isEmpty then [] else l.take n :: stretches n fuel (l.drop n)

end Sys2Proof.Machine
end

