-- ==== Sys2Proof/Machine/Home.lean ====
section
/-! DEFINITION. Home memory: physical bytes, poison and sector protection (R174, R175), encryption at rest (R37), address translation (R157 to R163,
R369), lifetime counts (R40), MSI-X vectors (R30) and the routing of keys (R100, R103). -/

namespace Sys2Proof.Machine

/-- The physical range lies in the stacks (log 1). -/
def physOk (pa n : Nat) : Bool := pa + n ≤ Config.memBytes

/-- Reads a little-endian number of home memory. -/
def State.phys (s : State) (pa n : Nat) : Nat := Memory.num s.mem pa n

/-- A physical access outside the stacks stops the machine (log 1). -/
def State.needPhys (s : State) (pa n : Nat) : State := if physOk pa n then s else s.stop (.noMemory pa)

/-- Writes bytes of home memory; each sector written has its CRC and parity updated (R174). -/
def State.writePhys (s : State) (pa : Nat) (bs : List Byte) : State :=
  if physOk pa bs.length then
    { s with
      mem := Memory.writeN s.mem pa bs
      hbmErr := s.hbmErr.filter fun (k, _) => k < pa / 64 || (pa + bs.length - 1) / 64 < k }
  else s.stop (.noMemory pa)

/-- Writes a little-endian number of `n` bytes. -/
def State.writePhysNum (s : State) (pa n v : Nat) : State := s.writePhys pa (leBytes n v)

/-- Inserts a number into a rising list. -/
def insertNat (n : Nat) : List Nat → List Nat
  | [] => [n]
  | k :: l => if n < k then n :: k :: l else if n = k then k :: l else k :: insertNat n l

/-- The granule of a physical address is poisoned (R174). -/
def State.poisoned (s : State) (pa : Nat) : Bool := s.poison.contains (pa / 4)

/-- Sets or clears the poison of a granule. -/
def State.setPoison (s : State) (pa : Nat) (b : Bool) : State :=
  { s with poison := if b then insertNat (pa / 4) s.poison else s.poison.filter (· != pa / 4) }

/-- One byte of a CRC of 16 bits, most significant bit first (R15, R174). -/
def crcByte (poly : Nat) (crc : Nat) (b : Byte) : Nat :=
  let rec go (n : Nat) (c : Nat) : Nat :=
    match n with
    | 0 => c
    | n + 1 => go n (if 2 ^ 15 ≤ c then ((2 * c) % 2 ^ 16) ^^^ poly else 2 * c)
  go 8 (crc ^^^ (b.toNat * 256))

/-- CRC-16 of bytes. -/
def crc16 (poly init : Nat) (bs : List Byte) : Nat := bs.foldl (crcByte poly) init

/-- CRC-16 of the difference of a stored sector: with initial value 0 the CRC is linear, so a sector's CRC matches
exactly when the CRC of the difference is the difference of the CRCs (R174). -/
def errFails (d : BitVec 544) : Bool :=
  crc16 0x8BB7 0 (leBytes 66 (bitsOf d.toNat 0 512 + 2 ^ 512 * bitsOf d.toNat 528 16) ++ leBytes 6 0)
    != bitsOf d.toNat 512 16

/-- Place of a group's parity sector in the table of differences. -/
def paritySector (sector : Nat) : Nat := 2 ^ 50 + sector / 16

/-- A lifetime counter gains `n`, saturating (R40). Items are numbered by kind · 2^16 + index. -/
def State.lifeAdd (s : State) (item n : Nat) : State :=
  s.modIo fun io =>
    { io with life := put io.life item (BitVec.ofNat 64 (min ((look io.life item 0).toNat + n) (2 ^ 64 - 1))) }

/-- Lifetime items (R40). -/
def lifeCrc (stack bank : Nat) : Nat := 256 * stack + bank
/-- Corrections. -/
def lifeFixed (stack bank : Nat) : Nat := 2 ^ 16 + 256 * stack + bank
/-- Uncorrectable errors. -/
def lifeLost (stack : Nat) : Nat := 2 * 2 ^ 16 + stack
/-- Merge fault records by operator. -/
def lifeMerge (op : Nat) : Nat := 3 * 2 ^ 16 + op
/-- Pairing mismatches by die. -/
def lifePair (die : Nat) : Nat := 4 * 2 ^ 16 + die
/-- PAIR_MISMATCH reports by die. -/
def lifePairRep (die : Nat) : Nat := 5 * 2 ^ 16 + die
/-- Paddock kills by die. -/
def lifeKill (die : Nat) : Nat := 6 * 2 ^ 16 + die
/-- Route loops by port. -/
def lifeLoop (port : Nat) : Nat := 7 * 2 ^ 16 + port
/-- Replays by port. -/
def lifeReplay (port : Nat) : Nat := 8 * 2 ^ 16 + port
/-- Port downs by port. -/
def lifeDown (port : Nat) : Nat := 9 * 2 ^ 16 + port
/-- Entries into throttling. -/
def lifeThrottleIn : Nat := 10 * 2 ^ 16
/-- Exits from throttling. -/
def lifeThrottleOut : Nat := 10 * 2 ^ 16 + 1
/-- Junction temperature bins of a sensor: compute dies 0 to 3, I/O die. -/
def lifeTemp (sensor t : Nat) : Nat := 11 * 2 ^ 16 + 256 * sensor + min (max t 20) 125
/-- Power-on count. -/
def lifePower : Nat := 12 * 2 ^ 16
/-- Boot failures by ERR. -/
def lifeBoot (err : Nat) : Nat := 13 * 2 ^ 16 + err
/-- A stack or die that failed its step, or a lifetime record whose signature failed (R32, R41). -/
def lifeOther (n : Nat) : Nat := 14 * 2 ^ 16 + n
/-- Core supply voltage bins of a die. -/
def lifeVolt (die mv : Nat) : Nat := (16 + die) * 2 ^ 16 + mv / 5 % 2 ^ 16

/-- Stack of a physical address (R6): the two stacks of a die halve its range (log 1). -/
def stackOf (pa : Nat) : Nat := pa / (48 * 2 ^ 30)

/-- What a sector's reader takes as stored becomes the sector's content. -/
def State.foldError (s : State) (sector : Nat) (d : BitVec 544) : State :=
  let pa := sector * 64
  let bytes := (List.range 64).map fun i => Memory.read s.mem (pa + i) ^^^ BitVec.ofNat 8 (bitsOf d.toNat (8 * i) 8)
  let p := paritySector sector
  let s := { s with mem := Memory.writeN s.mem pa bytes }
  let s := (List.range 16).foldl (fun s i =>
    if d.getLsbD (528 + i) then s.setPoison (pa + 4 * i) (!s.poisoned (pa + 4 * i)) else s) s
  let crcOff : BitVec 544 := ~~~(BitVec.ofNat 544 ((2 ^ 16 - 1) * 2 ^ 512))
  let par := look s.hbmErr p 0 ^^^ (d &&& crcOff)
  { s with hbmErr := put (del s.hbmErr sector) p par }

/-- A sector read (R174): a CRC that matches uses the sector; a mismatch rebuilds it from its group, or finds the error
uncorrectable, poisons its granules and has the lifetime record written (R41, R175). The result tells whether it was
uncorrectable. -/
def State.mend (s : State) (sector : Nat) : State × Bool :=
  match find? s.hbmErr sector with
  | none => (s, false)
  | some d =>
    if !errFails d then (s.foldError sector d, false)
    else
      let others := (List.range 16).map (fun i => sector / 16 * 16 + i) |>.filter (· != sector)
      let diff (k : Nat) : BitVec 544 := look s.hbmErr k 0
      let more := others.any fun k => errFails (diff k)
      let sum := (others.foldl (fun x k => x ^^^ diff k) (diff (paritySector sector)))
      let crcMask : BitVec 544 := BitVec.ofNat 544 ((2 ^ 16 - 1) * 2 ^ 512)
      let rebuilt := (sum &&& ~~~crcMask) ||| (d &&& crcMask)
      let stack := stackOf (sector * 64)
      let bank := (Config.bankOf sector).toNat
      let s := s.lifeAdd (lifeCrc stack bank) 1
      if !more && !errFails rebuilt then
        let s := s.lifeAdd (lifeFixed stack bank) 1
        if rebuilt == 0 then ({ s with hbmErr := del s.hbmErr sector }, false) else (s.foldError sector rebuilt, false)
      else
        let s := s.foldError sector (d &&& ~~~(BitVec.ofNat 544 ((2 ^ 32 - 1) * 2 ^ 512)))
        let s := (List.range 16).foldl (fun s i => s.setPoison (sector * 64 + 4 * i) true) s
        ((s.lifeAdd (lifeLost stack) 1).push [.lifetimeRecordWrite], true)

/-- A sector read of a walk or of an engine, whose record is posted at the cycle's end (log 93). -/
def State.passSector (s : State) (sector : Nat) (c : Consumer) : State :=
  let (s, lost) := s.mend sector
  if lost then s.modIo fun io => { io with lostSectors := io.lostSectors ++ [(sector, c)] } else s

/-- The key pair of a leaf's slot; none for plaintext (R37). -/
def State.pageKey (s : State) (leaf : BitVec 128) : Option (BitVec 512) :=
  if bitsOf leaf.toNat 108 12 = 0 then none else find? s.io.keySlots (bitsOf leaf.toNat 108 12)

/-- Clear bytes of `n` blocks of 16 bytes from block `b` on: the data unit is the 4 KiB page, its number the page's physical
address (R37). -/
def State.clearBlocks (s : State) (k : BitVec 512) (b n : Nat) : List Byte :=
  (List.range n).flatMap fun i =>
    Crypto.xtsDecrypt k ((b + i) / 256 * 4096) ((b + i) % 256) (Memory.readN s.mem (16 * (b + i)) 16)

/-- Blocks of 16 bytes that a range touches. -/
def blocksOf (pa n : Nat) : Nat := (pa % 16 + n + 15) / 16

/-- Clear bytes of a leaf's page (R37). -/
def State.readLeaf (s : State) (leaf : BitVec 128) (pa n : Nat) : List Byte :=
  match s.pageKey leaf with
  | none => Memory.readN s.mem pa n
  | some k => ((s.clearBlocks k (pa / 16) (blocksOf pa n)).drop (pa % 16)).take n

/-- Stores clear bytes in a leaf's page (R37). -/
def State.writeLeaf (s : State) (leaf : BitVec 128) (pa : Nat) (bs : List Byte) : State :=
  match s.pageKey leaf with
  | none => s.writePhys pa bs
  | some k =>
    let b := pa / 16
    let n := blocksOf pa bs.length
    let old := s.clearBlocks k b n
    let new := old.take (pa % 16) ++ bs ++ old.drop (pa % 16 + bs.length)
    s.writePhys (16 * b) ((List.range n).flatMap fun i =>
      Crypto.xtsEncrypt k ((b + i) / 256 * 4096) ((b + i) % 256) ((new.drop (16 * i)).take 16))

/-- Sends an MSI-X vector, or sets its pending bit while it is masked (R30). -/
def State.sendMsi (s : State) (v : Nat) : State :=
  if (look s.io.msix v msixReset).getLsbD 96 then s.modIo fun io => { io with pba := io.pba ||| BitVec.ofNat 2048 (2 ^ v) }
  else s.modIo fun io => { io with msixSent := io.msixSent ++ [v] }

/-- The key of an address of a context (R100, R239). -/
def keyOf (ctx va : Nat) : Nat := ctx * 2 ^ 55 + va % 2 ^ 57 / 4
/-- Context of a key. -/
def keyCtx (k : Nat) : Nat := k / 2 ^ 55
/-- Address of a key. -/
def keyVa (k : Nat) : Nat := k % 2 ^ 55 * 4

/-- What a range home table says of an address (R103): home die, ordering kind (3 acts as 0), window exponent. -/
structure Route where
  home : Nat
  ord : Nat
  wexp : BitVec 8
  deriving DecidableEq, Repr

/-- The fields of a range home table entry (R103). -/
def routeOf (v : BitVec 128) (home : Nat) : Route :=
  let o := bitsOf v.toNat 26 2
  ⟨home, if o = 3 then 0 else o, BitVec.ofNat 8 (bitsOf v.toNat 30 8)⟩

/-- Routes an address: the lowest-numbered valid entry whose range contains its page, else the default entry with the
home die taken from address bits [13:12] (R103). -/
def State.route (s : State) (ctx va : Nat) : Route :=
  let page := va % 2 ^ 57 / 4096
  let ent (i : Nat) : BitVec 128 := look s.io.rht (17 * ctx + i) 0
  match (List.range 16).find? fun i =>
      let v := (ent i).toNat
      (ent i).getLsbD 25 && bitsOf v 83 45 ≤ page && page ≤ bitsOf v 38 45 with
  | some i => routeOf (ent i) (bitsOf (ent i).toNat 28 2)
  | none => routeOf (ent 16) (va / 4096 % 4)

/-- What an access needs of a leaf (R163). -/
inductive Need where
  | rd | wr | ex | none
  deriving DecidableEq, Repr

/-- The result of a translation (R369): a physical address with the leaf, its own address and level; not resident, with
the absent entry; or refused, with the cause, the level and the failing entry. -/
inductive Tr where
  | ok (pa : Nat) (leaf : BitVec 128) (at' : Nat) (lvl : Nat)
  | absent (lvl : Nat) (entry : BitVec 128) (at' : Nat)
  | refused (cause lvl : Nat) (val : Word)
  deriving DecidableEq, Repr

/-- A page table entry of home memory. -/
def State.pte (s : State) (at' : Nat) : BitVec 128 := BitVec.ofNat 128 (s.phys at' 16)

/-- Leaf checks: a malformed leaf, then the permission, then an empty key slot (R159, R369). -/
def State.leafCheck (s : State) (e : BitVec 128) (at' lvl va : Nat) (need : Need) : Tr :=
  let v := e.toNat
  let bad := bitsOf v 12 (9 * lvl) != 0 || 10 ≤ bitsOf v 101 4 || 5 ≤ bitsOf v 105 3
  let low := e.setWidth 64
  if bad then .refused 7 lvl low
  else if need == .rd && !e.getLsbD 2 then .refused 2 lvl low
  else if need == .wr && !e.getLsbD 3 then .refused 3 lvl low
  else if need == .ex && !e.getLsbD 4 then .refused 4 lvl low
  else if bitsOf v 108 12 ≠ 0 && (find? s.io.keySlots (bitsOf v 108 12)).isNone then .refused 5 lvl low
  else .ok (bitsOf v 12 40 * 4096 + va % 2 ^ (12 + 9 * lvl)) e at' lvl

/-- The walk from level `lvl` down (R158, R159). -/
def State.walkAt (s : State) (va : Nat) (need : Need) : Nat → Nat → Tr
  | lvl, node =>
    let at' := node + 16 * bitsOf va (12 + 9 * lvl) 9
    let e := s.pte at'
    if !e.getLsbD 0 then .absent lvl e at'
    else
      match lvl with
      | 0 => s.leafCheck e at' 0 va need
      | l + 1 =>
        if e.getLsbD 7 then
          if 3 ≤ l + 1 then .refused 7 (l + 1) (e.setWidth 64) else s.leafCheck e at' (l + 1) va need
        else if e.getLsbD 12 then .refused 7 (l + 1) (e.setWidth 64)
        else s.walkAt va need l (bitsOf e.toNat 12 40 * 4096)

/-- Translates an address of a context from home memory (R157, R158, R369). -/
def State.walk (s : State) (ctx va : Nat) (need : Need) : Tr :=
  let b := look s.io.ptbr ctx 0
  if !b.getLsbD 63 then .refused 6 4 0 else s.walkAt va need 4 (bitsOf b.toNat 13 39 * 8192)

/-- The sector reads of a walk from level `lvl` down (R158, R174). -/
def State.walkReads (s : State) (va : Nat) : Nat → Nat → State
  | lvl, node =>
    let at' := node + 16 * bitsOf va (12 + 9 * lvl) 9
    let s := s.passSector (at' / 64) .walk
    match lvl with
    | 0 => s
    | l + 1 =>
      if (s.pte at').getLsbD 0 && !(s.pte at').getLsbD 7 then s.walkReads va l (bitsOf (s.pte at').toNat 12 40 * 4096) else s

/-- The sector reads of the walk of an address of a context (R174). -/
def State.walkPass (s : State) (ctx va : Nat) : State :=
  let b := look s.io.ptbr ctx 0
  if s.hbmErr.isEmpty || !b.getLsbD 63 then s else s.walkReads va 4 (bitsOf b.toNat 13 39 * 8192)

/-- What a translation cache keeps of a leaf. -/
def Kept.of (e : BitVec 128) (place lvl : Nat) : Kept := ⟨e &&& ~~~(BitVec.ofNat 128 (2 ^ 6 + 2 ^ 5)), place, lvl⟩

/-- The number of the I/O die among the interfaces that translate (R162). -/
def ioDie : Nat := 4

/-- The translation cache of an interface: a compute die's, or the I/O die's (R162). -/
def State.tcacheAt (s : State) (die : Nat) : SMap Kept := if die < ioDie then (s.dieAt die).tcache else s.io.tcache

/-- Keeps a translation at an interface (R162). -/
def State.keepLeaf (s : State) (die key : Nat) (c : Kept) : State :=
  if die < ioDie then s.modDie die fun d => { d with tcache := put d.tcache key c }
  else s.modIo fun io => { io with tcache := put io.tcache key c }

/-- A translation by a walk (R158, R161): a good one sets A in the leaf, and the interface keeps it. -/
def State.xlateNew (s : State) (die ctx va : Nat) (need : Need) : State × Tr :=
  let s := s.walkPass ctx va
  match s.walk ctx va need with
  | .ok pa leaf at' lvl =>
    let s := (s.needPhys pa 1).keepLeaf die (ctx * 2 ^ 45 + va % 2 ^ 57 / 4096) (Kept.of leaf at' lvl)
    (if leaf.getLsbD 6 then s else s.writePhysNum at' 16 (leaf ||| 64).toNat, .ok pa leaf at' lvl)
  | r => (s, r)

/-- A translation at an interface (R161 to R163): it uses the entry that it has kept, and until that is invalidated may go on
using it where the page table has changed. -/
def State.xlate (s : State) (die ctx va : Nat) (need : Need) : State × Tr :=
  match find? (s.tcacheAt die) (ctx * 2 ^ 45 + va % 2 ^ 57 / 4096) with
  | none => s.xlateNew die ctx va need
  | some c =>
    let same := match s.walk ctx va .none with
      | .ok _ leaf at' lvl => Kept.of leaf at' lvl == c
      | _ => false
    if same || Config.cacheKeeps s.fresh then
      let s := if same then s else s.tick
      match s.leafCheck c.leaf c.place c.lvl va need with
      | .ok pa leaf at' lvl => (s.needPhys pa 1, .ok pa leaf at' lvl)
      | r => (s, r)
    else s.tick.xlateNew die ctx va need

/-- Sets D in the leaf of a page (R161). -/
def State.setDirty (s : State) (at' : Nat) : State :=
  let e := s.pte at'
  if e.getLsbD 5 then s else s.writePhysNum at' 16 (e ||| 32).toNat

/-- Ordering kind of a leaf; 3 acts as 0 (R159). -/
def leafOrd (e : BitVec 128) : Nat := let o := bitsOf e.toNat 99 2; if o = 3 then 0 else o
/-- FMT of a leaf. -/
def leafFmt (e : BitVec 128) : Nat := bitsOf e.toNat 101 4
/-- GEOM of a leaf. -/
def leafGeom (e : BitVec 128) : Nat := bitsOf e.toNat 105 3
/-- WEXP of a leaf. -/
def leafWexp (e : BitVec 128) : BitVec 8 := BitVec.ofNat 8 (bitsOf e.toNat 120 8)

end Sys2Proof.Machine
end

