-- ==== Sys2Proof/Machine/Combine.lean ====
section
/-! DEFINITION. Combining of keyed updates (R101 to R106, R114, R115) and the value a load forms from the levels on its
path (R119, R120). -/

namespace Sys2Proof

/-- Width of an entry's element in bits. -/
def Entry.bits (e : Entry) : Nat := if e.w then 64 else 32
/-- faddx and rowx: exact and deferred classes (R102). -/
def MOp.isFx (op : MOp) : Bool := op == .faddx || op == .rowx
/-- The entry's context. -/
def Entry.ctx (e : Entry) : Nat := Machine.keyCtx e.key.toNat
/-- The entry's virtual address. -/
def Entry.va (e : Entry) : Nat := Machine.keyVa e.key.toNat
/-- Value of an exact or deferred entry: F · 2^WEXP (R115). -/
def Entry.exact (e : Entry) : Machine.Num := (Machine.Num.ofInt e.val.toInt).scale e.wexp.toInt

end Sys2Proof

namespace Sys2Proof.Machine

/-- The floating format of an entry's element. -/
def wFmt (w : Bool) : FFmt := if w then fp64 else fp32

/-- Integer operands of an operator at a width. -/
def clampInt (lo hi v : Int) : Int := if v < lo then lo else if hi < v then hi else v

/-- Combine's table for two values of one operator (R114): the value, and whether it left its range. `rep` and `ins` give
the newer value. -/
def opValue (op : MOp) (w : Bool) (old new : Nat) : Nat × Bool :=
  let n := if w then 64 else 32
  let f := wFmt w
  let so := toSigned n old
  let sn := toSigned n new
  let wrap (i : Int) : Nat := (i % 2 ^ n).toNat
  match op with
  | .rep | .ins => (new % 2 ^ n, false)
  | .add => ((old + new) % 2 ^ n, false)
  | .addsI =>
    let t := so + sn
    let c := clampInt (-(2 ^ (n - 1))) (2 ^ (n - 1) - 1) t
    (wrap c, c != t)
  | .addsN => let t := old + new; (min t (2 ^ n - 1), 2 ^ n ≤ t)
  | .fadd => ((roundTo f .rne (sumNum false [f.decode old, f.decode new]).1).1, false)
  | .minI => (wrap (min so sn), false)
  | .maxI => (wrap (max so sn), false)
  | .minN => (min old new, false)
  | .maxN => (max old new, false)
  | .fmin => ((fminmax f false old new).1, false)
  | .fmax => ((fminmax f true old new).1, false)
  | .amax =>
    let a := old % 2 ^ (n - 1)
    let b := new % 2 ^ (n - 1)
    ((fminmax f true a b).1, false)
  | .or => (old ||| new, false)
  | .and => (old &&& new, false)
  | .xor => (old ^^^ new, false)
  | .faddx | .rowx => (new, false)

/-- Sum of two exact values in 128-bit two's complement, saturated (R114). -/
def fxSum (a b : BitVec 128) : BitVec 128 × Bool :=
  let t := a.toInt + b.toInt
  let c := clampInt (-(2 ^ 127)) (2 ^ 127 - 1) t
  (BitVec.ofInt 128 c, c != t)

/-- Two units' lists in one. -/
def unionNat (a b : List Nat) : List Nat := b.foldl (fun l n => if l.contains n then l else l ++ [n]) a

/-- R114: the combined entry and whether its combination is a range failure; `none` where the pair is chained. -/
def combine (old new : Entry) : Option (Entry × Bool) :=
  if old.key != new.key || old.w != new.w then none
  else if old.tent != new.tent || (old.tent && old.task != new.task) then none
  else if new.op.isFx && old.mark != new.mark then none
  else
    let join (e : Entry) : Entry :=
      { e with
        units := unionNat old.units new.units, age := min old.age new.age, ord := old.ord, task := new.task
        mark := old.mark || new.mark }
    if new.op == .rep then
      if old.op == .rowx || old.op == .ins then none else some (join new, false)
    else if old.op != new.op || old.op == .ins then none
    else if new.op.isFx then
      if old.wexp != new.wexp then none
      else
        let (v, bad) := fxSum old.val new.val
        some (join { new with val := v, psn := old.psn || new.psn || bad }, bad)
    else if (new.op == .addsI || new.op == .addsN) && old.trp != new.trp then none
    else
      let (v, sat) := opValue new.op new.w (old.val.toNat % 2 ^ old.bits) (new.val.toNat % 2 ^ new.bits)
      let bad := sat && new.trp
      some (join { new with val := BitVec.ofNat 128 v, psn := old.psn || new.psn || bad }, bad)

/-- The chain of a key in a run, oldest first (R106). -/
def chain (run : List Entry) (key : Word) : List Entry := run.filter fun e => e.key == key

/-- A run with an entry placed after every entry of its key and of lower keys. -/
def insertEntry (e : Entry) : List Entry → List Entry
  | [] => [e]
  | x :: l => if e.key.toNat < x.key.toNat then e :: x :: l else x :: insertEntry e l

/-- A run with another chain for a key. -/
def setChain (run : List Entry) (key : Word) (c : List Entry) : List Entry :=
  c.foldl (fun r e => insertEntry e r) (run.filter fun e => e.key != key)

/-- Tries a new entry against the newest of a chain (R106): the chain, and a range failure's older operand. -/
def tryAppend (c : List Entry) (e : Entry) : List Entry × Option Entry :=
  match c.getLast? with
  | none => ([e], none)
  | some l =>
    match combine l e with
    | some (m, bad) => (c.dropLast ++ [m], if bad then some l else none)
    | none => (c ++ [e], none)

/-- The deferred set with an entry combined or added (R115). -/
def dsetAdd (set : List Entry) (e : Entry) : List Entry × Option Entry :=
  match set.find? fun x => (combine x e).isSome with
  | none => (insertEntry e set, none)
  | some x =>
    match combine x e with
    | some (m, bad) => (insertEntry m (dropFirst (· == x) set), if bad then some x else none)
    | none => (insertEntry e set, none)

/-- A doubleword while entries are applied to it (R119, R120): its bytes, the poison of its granules, and the pending
exact terms of the 8-byte element and of the two 4-byte elements. -/
structure Dw where
  v : Nat
  psn0 : Bool
  psn1 : Bool
  fx8 : List Num
  fx0 : List Num
  fx1 : List Num
  deriving DecidableEq, Repr

/-- Rounds a pending exact sum into a value (R119). -/
def roundIn (w : Bool) (v : Nat) (l : List Num) : Nat :=
  match (sumNum false l).1 with
  | .fin m e => (roundTo (wFmt w) .rne (sumNum false [(wFmt w).decode v, .fin m e]).1).1
  | _ => v

/-- Settles the pending sum of the 8-byte element. -/
def Dw.settle8 (d : Dw) : Dw := if d.fx8.isEmpty then d else { d with v := roundIn true d.v d.fx8, fx8 := [] }
/-- Settles the pending sum of the lower 4-byte element. -/
def Dw.settle0 (d : Dw) : Dw :=
  if d.fx0.isEmpty then d
  else { d with v := d.v / 2 ^ 32 * 2 ^ 32 + roundIn false (d.v % 2 ^ 32) d.fx0, fx0 := [] }
/-- Settles the pending sum of the upper 4-byte element. -/
def Dw.settle1 (d : Dw) : Dw :=
  if d.fx1.isEmpty then d
  else { d with v := d.v % 2 ^ 32 + roundIn false (d.v / 2 ^ 32) d.fx1 * 2 ^ 32, fx1 := [] }
/-- Settles every pending sum. -/
def Dw.settle (d : Dw) : Dw := d.settle8.settle0.settle1

/-- Applies one entry to the doubleword that holds it (R119, R120): a pending sum of the other width that touches its
bytes is rounded in first, and one of its own element before any operator but an exact one. -/
def Dw.apply (d : Dw) (e : Entry) : Dw :=
  let hi := e.key.getLsbD 0
  if e.w then
    let d := d.settle0.settle1
    if e.op.isFx then { d with fx8 := d.fx8 ++ [e.exact], psn0 := d.psn0 || e.psn, psn1 := d.psn1 || e.psn }
    else
      let d := d.settle8
      let clear := e.op == .rep || e.op == .ins
      { d with
        v := (opValue e.op true d.v (e.val.toNat % 2 ^ 64)).1
        psn0 := if clear then e.psn else d.psn0 || e.psn
        psn1 := if clear then e.psn else d.psn1 || e.psn }
  else
    let d := d.settle8
    if e.op.isFx then
      if hi then { d with fx1 := d.fx1 ++ [e.exact], psn1 := d.psn1 || e.psn }
      else { d with fx0 := d.fx0 ++ [e.exact], psn0 := d.psn0 || e.psn }
    else
      let d := if hi then d.settle1 else d.settle0
      let old := if hi then d.v / 2 ^ 32 else d.v % 2 ^ 32
      let new := (opValue e.op false old (e.val.toNat % 2 ^ 32)).1
      let clear := e.op == .rep || e.op == .ins
      if hi then { d with v := d.v % 2 ^ 32 + new * 2 ^ 32, psn1 := if clear then e.psn else d.psn1 || e.psn }
      else { d with v := d.v / 2 ^ 32 * 2 ^ 32 + new, psn0 := if clear then e.psn else d.psn0 || e.psn }

/-- The two keys of the doubleword that holds a granule. -/
def dwKeys (k : Nat) : List Word := [BitVec.ofNat 64 (k / 2 * 2), BitVec.ofNat 64 (k / 2 * 2 + 1)]

/-- The entries of a level that a load takes, in its order (R119, R120): the lower key's chain, then the upper key's;
tentative entries of other tasks are skipped, and rowx entries while a deferred phase is named unless they are marked. -/
def levelEntries (run : List Entry) (k : Nat) (tasks : List (BitVec 40)) (skipRowx : Bool) : List Entry :=
  ((dwKeys k).flatMap (chain run)).filter fun e =>
    (!e.tent || tasks.contains e.task) && !(e.op == .rowx && skipRowx && !e.mark)

/-- The doubleword at a key's home before any entry: bytes and poison at a physical address of a leaf's page. -/
def State.homeDw (s : State) (leaf : BitVec 128) (pa : Nat) : Dw :=
  let b := pa / 8 * 8
  ⟨leNat (s.readLeaf leaf b 8), s.poisoned b, s.poisoned (b + 4), [], [], []⟩

/-- The entries of levels applied to a doubleword, outermost first, its exact sums still pending (R119). -/
def applyLevels (d : Dw) (levels : List (List Entry)) : Dw := levels.foldl (fun d l => l.foldl Dw.apply d) d

/-- The doubleword of a key as levels give it, outermost first (R119). -/
def combineLevels (d : Dw) (levels : List (List Entry)) : Dw := (applyLevels d levels).settle

/-- Value and poison of an element of a doubleword. -/
def Dw.element (d : Dw) (k : Nat) (w : Bool) : Nat × Bool :=
  if w then (d.v, d.psn0 || d.psn1) else if k % 2 = 1 then (d.v / 2 ^ 32, d.psn1) else (d.v % 2 ^ 32, d.psn0)

/-- The conversion of R115 into the window of a faddx or rowx value: F, its poison, whether NX is set, and the cause of a
range failure (0 none, 1 range, 3 not finite). -/
def toWindow (w : Bool) (wexp : BitVec 8) (bits : Nat) : BitVec 128 × Bool × Bool × Nat :=
  let top : BitVec 128 := BitVec.ofNat 128 (2 ^ 127 - 1)
  let bot : BitVec 128 := BitVec.ofNat 128 (2 ^ 127)
  match (wFmt w).decode bits with
  | .nan _ => (top, true, false, 3)
  | .inf s => (if s then bot else top, true, false, 3)
  | .zero _ => (0, false, false, 0)
  | .fin m e =>
    let (r, exact) := roundMag .rne (m < 0) m.natAbs (e - wexp.toInt)
    let i : Int := if m < 0 then -(r : Int) else r
    if i < -(2 ^ 127) || 2 ^ 127 ≤ i then (if m < 0 then bot else top, true, true, 1)
    else (BitVec.ofInt 128 i, false, !exact, 0)

end Sys2Proof.Machine
end

