-- ==== Sys2Proof/Machine/Lumaux.lean ====
section
/-! DEFINITION. Lumaux messages (R14 to R24): flits, routes, STOP flags, and the sending of the messages of R22. The payloads
that R22 names without a layout are laid out here (log 30). -/

namespace Sys2Proof.Machine

/-- A record from its 64 bytes (R42); reserved bits are dropped. -/
def recordOf (v : Nat) : Record where
  pc := BitVec.ofNat 57 (bitsOf v 2 55 * 4)
  prio := BitVec.ofNat 8 (bitsOf v 120 8)
  ctx := BitVec.ofNat 9 (bitsOf v 111 9)
  xcount := BitVec.ofNat 7 (bitsOf v 104 7)
  pin := bitsOf v 103 1 = 1
  launch := BitVec.ofNat 32 (bitsOf v 64 32)
  vui := BitVec.ofNat 32 (bitsOf v 160 32)
  queue := BitVec.ofNat 12 (bitsOf v 148 12)
  node := BitVec.ofNat 20 (bitsOf v 128 20)
  arg1 := BitVec.ofNat 64 (bitsOf v 192 64)
  arg2 := BitVec.ofNat 64 (bitsOf v 256 64)
  arg3 := BitVec.ofNat 64 (bitsOf v 320 64)
  arg4 := BitVec.ofNat 64 (bitsOf v 384 64)
  arg5 := BitVec.ofNat 64 (bitsOf v 448 64)
  owner := 0

/-- A record as a 512-bit number (R42). -/
def recordNum (r : Record) : Nat :=
  r.pc.toNat + 2 ^ 64 * (r.prio.toNat * 2 ^ 56 + r.ctx.toNat * 2 ^ 47 + r.xcount.toNat * 2 ^ 40 + r.pin.toNat * 2 ^ 39
    + r.launch.toNat)
  + 2 ^ 128 * (r.vui.toNat * 2 ^ 32 + r.queue.toNat * 2 ^ 20 + r.node.toNat) + 2 ^ 192 * r.arg1.toNat
  + 2 ^ 256 * r.arg2.toNat + 2 ^ 320 * r.arg3.toNat + 2 ^ 384 * r.arg4.toNat + 2 ^ 448 * r.arg5.toNat

/-- No graph node (R42). -/
def noNode : BitVec 20 := 0xFFFFF

/-- A flit's header (R15). -/
structure Head where
  cls : Nat
  kind : Nat
  stop : Nat
  dest : BitVec 10
  src : BitVec 10
  seq : BitVec 8
  nfl : Nat
  hops : Nat
  deriving DecidableEq, Repr

/-- The header of a flit. -/
def headOf (f : BitVec 512) : Head :=
  let n := f.toNat
  ⟨bitsOf n 45 3, bitsOf n 41 4, bitsOf n 37 4, BitVec.ofNat 10 (bitsOf n 27 10), BitVec.ofNat 10 (bitsOf n 17 10),
    BitVec.ofNat 8 (bitsOf n 9 8), bitsOf n 3 6, n % 8⟩

/-- The 48 bits of a header. -/
def headBits (h : Head) : Nat :=
  h.cls * 2 ^ 45 + h.kind * 2 ^ 41 + h.stop * 2 ^ 37 + h.dest.toNat * 2 ^ 27 + h.src.toNat * 2 ^ 17 + h.seq.toNat * 2 ^ 9
    + h.nfl * 2 ^ 3 + h.hops

/-- CRC of a flit over its first 62 bytes (R15). -/
def flitCrc (n : Nat) : Nat := crc16 0x1021 0xFFFF (leBytes 62 n)

/-- A flit of a header and a payload of 56 bytes. -/
def flitOf (h : Head) (payload : Nat) : BitVec 512 :=
  let n := headBits h + payload % 2 ^ 448 * 2 ^ 48
  BitVec.ofNat 512 (n + flitCrc n * 2 ^ 496)

/-- The payload of a flit. -/
def payloadOf (f : BitVec 512) : List Byte := leBytes 56 (bitsOf f.toNat 48 448)

/-- A flit with another header. -/
def reHead (f : BitVec 512) (h : Head) : BitVec 512 := flitOf h (bitsOf f.toNat 48 448)

/-- A message kind of the table of R22. -/
def kindKnown (cls kind : Nat) : Bool :=
  match cls with
  | 0 => kind ≤ 2
  | 1 => kind == 1
  | 2 => kind == 1 || kind == 2
  | 3 => 1 ≤ kind && kind ≤ 4
  | 4 => kind == 1
  | _ => false

/-- The flits of a message. -/
def flitsOf (cls kind : Nat) (dest src : BitVec 10) (body : List Byte) : List (BitVec 512) :=
  let parts := stretches 56 (body.length + 1) body
  let parts := if parts.isEmpty then [[]] else parts
  (parts.zipIdx).map fun (p, i) => flitOf ⟨cls, kind, 0, dest, src, 0, parts.length - 1 - i, 0⟩ (leNat p)

/-- A Lumaux port. -/
def State.port (s : State) (p : Nat) : Port := look s.io.ports p Port.reset
/-- Updates a Lumaux port. -/
def State.modPort (s : State) (p : Nat) (f : Port → Port) : State :=
  s.modIo fun io => { io with ports := put io.ports p (f (look io.ports p Port.reset)) }

/-- A port that went down holds a class for a part until its lost messages have been resent (R19). -/
def Port.holds (x : Port) (cls : Nat) (dest : BitVec 10) : Bool :=
  x.lost.any fun m => match m.1 ++ m.2 with
    | f :: _ => (headOf f).cls == cls && (headOf f).dest == dest
    | [] => false

/-- The port that a message for a part leaves by (R19). -/
def State.outPort (s : State) (dest : BitVec 10) : Option Nat :=
  let e := look s.io.route dest.toNat 0
  let pri := bitsOf e.toNat 0 4
  let alt := bitsOf e.toNat 4 4
  if e.getLsbD 15 && (s.port pri).up then some pri
  else if e.getLsbD 14 && (s.port alt).up then some alt
  else none

/-- A flit leaves by a port: it takes the port's next sequence number and STOP flags, and is kept (R15, R17, R18). -/
def State.flitOut (s : State) (p : Nat) (f : BitVec 512) : State :=
  let port := s.port p
  let h := headOf f
  let f := reHead f { h with seq := port.txSeq, stop := port.stopOut.toNat }
  let s := s.modIo fun io => { io with sent := io.sent ++ [(p, f)] }
  if h.cls = 0 then s
  else s.modPort p fun x =>
    { x with txSeq := x.txSeq + 1, kept := x.kept ++ [f], ackAt := if x.kept.isEmpty then s.now else x.ackAt }

/-- A CTL flit for the other end of a port (R16, R17, R18): idle, ACK or NAK. Its DEST is 0 and its SEQ the next one of the
port, which no receiver reads (DESIGN CHOICE, log 91). -/
def State.ctlOut (s : State) (p kind : Nat) (seq : BitVec 8) : State :=
  s.flitOut p (flitOf ⟨0, kind, 0, 0, s.io.partNo, 0, 0, 0⟩ seq.toNat)

/-- A STOP flag last received for a class (R18). -/
def Port.stopped (x : Port) (cls : Nat) : Bool := 1 ≤ cls && x.stopIn.getLsbD (cls - 1)

/-- Sends a message's flits by a port, or lets it wait behind a STOP flag, earlier messages of its class, or the limit of
flits kept (R17, R18). -/
def State.portSend (s : State) (p cls : Nat) (l : List (BitVec 512)) : State :=
  let x := s.port p
  if x.stopped cls || 128 < x.kept.length + l.length || x.waiting.any (·.1 == cls) then
    s.modPort p fun x => { x with waiting := x.waiting ++ [(cls, l)] }
  else l.foldl (fun s f => s.flitOut p f) s

/-- Messages that waited at a port and may go now, in order. -/
def State.portRetry (s : State) (p : Nat) : State :=
  let w := (s.port p).waiting
  w.foldl (fun s (cls, l) => s.portSend p cls l) (s.modPort p fun x => { x with waiting := [] })

/-- A counter reference: context, index, and whether it is a get's row (log 30). -/
def refWord (ctx : BitVec 9) (index : BitVec 32) (get : Bool) : Word :=
  BitVec.ofNat 64 (get.toNat * 2 ^ 63 + ctx.toNat * 2 ^ 32 + index.toNat)

/-- A counter operation on a reference. -/
def refOp (ref : Word) (act : CtrAct) : Ev :=
  .counterOperation ⟨BitVec.ofNat 9 (bitsOf ref.toNat 32 9), BitVec.ofNat 32 ref.toNat, act, noNode, 0⟩

/-- Bytes of a message body as a number. -/
def bodyNum (body : List Byte) (at' n : Nat) : Nat := leNat ((body.drop at').take n)

/-- The cause codes of a negative acknowledgement (log 30). -/
def nackCode : NackCause → Nat
  | .paddock => 0
  | .moved => 1
  | .cancelled => 2
  | .routeLost => 3

/-- The cause of a code. -/
def nackOf (n : Nat) : NackCause :=
  match n with
  | 0 => .paddock
  | 1 => .moved
  | 2 => .cancelled
  | _ => .routeLost

/-- BOUNCED and CANCELLED of an answer to a spawn, and accepted (R22, R63). -/
def spawnAccepted : Word := 0
/-- BOUNCED. -/
def spawnBounced : Word := 1
/-- CANCELLED. -/
def spawnCancelled : Word := 2

/-- The oldest row that a part still owes (R326). -/
def State.takeRow (s : State) (src : BitVec 10) : State × Option GetPend :=
  (s.modIo fun io => { io with gets := dropFirst (fun g => g.part == src) io.gets },
    s.io.gets.find? fun g => g.part == src)

/-- A row of a get has come from a part: it goes to its core (R326). -/
def State.rowBack (s : State) (src : BitVec 10) (data : List Byte) (refused : Bool) : State :=
  match s.takeRow src with
  | (s, some g) =>
    let bytes := if refused then List.replicate g.len 0 else data.take g.len ++ List.replicate (g.len - data.length) 0
    s.push [.getRowWrite ⟨g.core, g.slot, g.off, bytes, g.ref, refused, src⟩]
  | (s, none) => s

/-- Drops the oldest rows of a reference that a part owes (R24). -/
def dropRows (part : BitVec 10) (ref : Word) : Nat → List GetPend → List GetPend
  | 0, l => l
  | n + 1, l => dropRows part ref n (dropFirst (fun g => g.part == part && g.ref == ref) l)

/-- The body of a negative acknowledgement (log 30): reference, cause, the part that the message was for, and the rows or
entries that it carried; a get's row that its part serves with zeros carries none. -/
def nackBody (ref : Word) (c : NackCause) (part : BitVec 10) (count : Nat) : List Byte :=
  leBytes 8 ref.toNat ++ leBytes 1 (nackCode c) ++ leBytes 2 part.toNat ++ leBytes 2 count

/-- The reference of a collective in a negative acknowledgement: its context and id, under bit 62 (log 30). -/
def collRef (ctx : BitVec 9) (id : BitVec 16) : Word := BitVec.ofNat 64 (2 ^ 62 + ctx.toNat * 2 ^ 32 + id.toNat)

/-- A collective of the part has failed (R330): bit 31 of F, and its remaining steps are skipped. -/
def State.collFail (s : State) (ctx : BitVec 9) (id : BitVec 16) : State :=
  { s with
    cores := s.cores.map fun (n, c) =>
      (n, { c with
        colls := mapIf (fun x => x.ctx == ctx && x.id == id)
          (fun x => { x with flag := x.flag ||| BitVec.ofNat 32 (2 ^ 31), steps := [] }) c.colls }) }

/-- A negative acknowledgement arrives: a row of zeros goes to its core, and the rows of a get that failed are owed no
longer; a collective whose step was refused fails (R24, R163, R330). -/
def State.nackIn (s : State) (ref : Word) (c : NackCause) (part : BitVec 10) (count : Nat) : State :=
  if ref.getLsbD 62 then s.collFail (BitVec.ofNat 9 (bitsOf ref.toNat 32 9)) (BitVec.ofNat 16 ref.toNat)
  else if !ref.getLsbD 63 then s.push [.negativeAckReceive part ref c]
  else if count = 0 then s.rowBack part [] true
  else
    let s := if c = .moved || c = .paddock then s else s.modIo fun io => { io with gets := dropRows part ref count io.gets }
    s.push [.negativeAckReceive part (ref ||| BitVec.ofNat 64 (count * 2 ^ 48)) c]

/-- A message of R22 reaches the I/O die of its destination. -/
def State.msgIn (s : State) (src : BitVec 10) (cls kind : Nat) (body : List Byte) : State :=
  match cls, kind with
  | 1, _ => s.push [.putUpdateReceive src (body.take 40)]
  | 2, 1 => s.push [.getRequestServe src body]
  | 2, _ => s.push [.spawnArrival ⟨src, bodyNum body 64 8, recordOf (bodyNum body 0 64)⟩]
  | 3, 1 => s.rowBack src body false
  | 3, 2 => s.push [.putAckReceive src (BitVec.ofNat 64 (bodyNum body 0 8)) (BitVec.ofNat 32 (bodyNum body 8 4))]
  | 3, 3 => s.push [.spawnAnswerReceive src (BitVec.ofNat 64 (bodyNum body 0 8))]
  | 3, _ =>
    s.nackIn (BitVec.ofNat 64 (bodyNum body 0 8)) (nackOf (bodyNum body 8 1)) (BitVec.ofNat 10 (bodyNum body 9 2))
      (bodyNum body 11 2)
  | 4, _ =>
    s.push [.collectiveMessageArrival
      { src := src, tag := BitVec.ofNat 16 (bodyNum body 0 2), id := BitVec.ofNat 16 (bodyNum body 2 2)
        flag := BitVec.ofNat 32 (bodyNum body 4 4), ctx := BitVec.ofNat 9 (bodyNum body 8 2)
        whole := bodyNum body 10 1 = 1, data := (body.drop 16).take (bodyNum body 12 4) }]
  | _, _ => s

/-- The counter reference of a put update (log 30). -/
def putRef (body : List Byte) : Word := BitVec.ofNat 64 (bodyNum body 32 8)

/-- The oldest put update of a reference that a part has been sent is answered. -/
def State.putAnswered (s : State) (src : BitVec 10) (ref : Word) : State :=
  let mine (r : PutPend) : Bool := r.part == src && putRef r.body == ref
  s.modIo fun io => { io with puts := dropFirst mine io.puts }

/-- The message of a put or get fails (R24, R328): FAULTS + 1, and the rows or entries that it carried are counted. -/
def State.failPut (s : State) (dest : BitVec 10) (ref : Word) : State :=
  (s.putAnswered dest ref).push [refOp ref (.counted 1 1)]

/-- A message of this part that cannot be sent (R22, R24, R328, R330). -/
def State.msgLost (s : State) (dest : BitVec 10) (cls kind : Nat) (body : List Byte) : State :=
  match cls, kind with
  | 1, _ => s.failPut dest (putRef body)
  | 2, 1 =>
    let ref := BitVec.ofNat 64 (bodyNum body 0 8)
    let n := bodyNum body 14 2
    let s := (List.range n).foldl (fun s _ => s.modIo fun io =>
      { io with gets := (dropFirst (fun g => g.part == dest) io.gets.reverse).reverse }) s
    s.push [refOp ref (.counted n 1)]
  | 2, _ => s.push [.spawnAnswerReceive dest spawnBounced]
  | 4, _ => s.collFail (BitVec.ofNat 9 (bodyNum body 8 2)) (BitVec.ofNat 16 (bodyNum body 2 2))
  | _, _ => s

/-- What tells the sender of another part that its message finds no route (R24): an answer to it, if it draws one. -/
def lostAnswer (cls kind : Nat) (dest : BitVec 10) (body : List Byte) : Option (Nat × List Byte) :=
  match cls, kind with
  | 1, _ => some (4, nackBody (putRef body) .routeLost dest 1)
  | 2, 1 => some (4, nackBody (BitVec.ofNat 64 (bodyNum body 0 8)) .routeLost dest (bodyNum body 14 2))
  | 2, _ => some (3, leBytes 8 spawnBounced.toNat)
  | 4, _ => some (4, nackBody (collRef (BitVec.ofNat 9 (bodyNum body 8 2)) (BitVec.ofNat 16 (bodyNum body 2 2))) .routeLost dest 1)
  | _, _ => none

/-- Sends a message's flits on by the route table (R19), if they find a route. While a port holds the class for the part, a
newer message stands behind the lost ones. -/
def State.tryRoute (s : State) (cls : Nat) (dest : BitVec 10) (l : List (BitVec 512)) : Option State :=
  match (List.range 16).find? fun p => (s.port p).holds cls dest with
  | some p => some (s.modPort p fun x => { x with waiting := x.waiting ++ [(cls, l)] })
  | none => (s.outPort dest).map fun p => s.portSend p cls l

/-- A message fails (R22, R24): one of this part is counted, and the sender of another is answered; an answer without a route
is lost. -/
def State.undeliverable (s : State) (h : Head) (body : List Byte) : State :=
  if h.src == s.io.partNo then s.msgLost h.dest h.cls h.kind body
  else
    match lostAnswer h.cls h.kind h.dest body with
    | none => s
    | some (kind, answer) => (s.tryRoute 3 h.src (flitsOf 3 kind h.src s.io.partNo answer)).getD s

/-- Sends a message's flits on by the route table; one without a route fails. -/
def State.routeOut (s : State) (l : List (BitVec 512)) : State :=
  match l with
  | [] => s
  | f :: _ =>
    let h := headOf f
    (s.tryRoute h.cls h.dest l).getD (s.undeliverable h (l.flatMap payloadOf))

/-- Sends a message of R22: to this part at once, or by the route table (R19). -/
def State.sendTo (s : State) (dest : BitVec 10) (cls kind : Nat) (body : List Byte) : State :=
  if dest == s.io.partNo then s.msgIn dest cls kind body else s.routeOut (flitsOf cls kind dest s.io.partNo body)

end Sys2Proof.Machine
end

