-- ==== Sys2Proof/Machine/Merge.lean ====
section
/-! DEFINITION. The merge tree (R104 to R131): fault records and wait lists (R127, R128, R165, R166), sector reads (R174,
R175), yard entry and apply, the moves between runs, emission, and the load path (R118 to R120). -/

namespace Sys2Proof.Machine

/-- Drops the read replicas of a page on every die (R168). -/
def State.dropReplicas (s : State) (ctx va : Nat) : State :=
  { s with
    dies := s.dies.map fun (k, d) => (k, { d with replicas := d.replicas.filter fun x => !(x.ctx == ctx && x.page == va % 2 ^ 57 / 4096) }) }

/-- Entries that wait at a yard to be applied, of a key (R124). -/
def Die.parkedApply (d : Die) (key : Word) : List Entry :=
  d.waits.flatMap fun w => w.items.filterMap fun
    | .entry e _ true => if e.key == key then some e else none
    | _ => none

/-- An entry of a key is parked at the yard (R124). -/
def Die.parkedKey (d : Die) (key : Word) : Bool :=
  d.waits.any fun w => w.items.any fun
    | .entry e _ _ => e.key == key
    | _ => false

/-- A deferred phase is named, so loads skip rowx entries (R116). -/
def State.dphV (s : State) (ctx : Nat) : Bool := (look s.io.dph ctx 0).getLsbD 63

/-- The levels of a home yard for a doubleword, outermost first (R119): overflow blocks, chain, deferred set. Entries
that wait to be applied are older than the run. -/
def State.homeLevels (s : State) (die k : Nat) (tasks : List (BitVec 40)) : List (List Entry) :=
  let d := s.dieAt die
  let skip := s.dphV (keyCtx k)
  let parked := (dwKeys k).flatMap d.parkedApply
  (d.blocks ++ [parked, d.yard, d.dset]).map fun run => levelEntries run k tasks skip

/-- A translation at the I/O die (R162): an entry that it keeps may still be used where the page table has changed. -/
def State.engTr (s : State) (ctx va : Nat) : Tr :=
  let r := s.walk ctx va .none
  match find? s.io.tcache (ctx * 2 ^ 45 + va % 2 ^ 57 / 4096) with
  | none => r
  | some c =>
    let same := match r with
      | .ok _ leaf at' lvl => Kept.of leaf at' lvl == c
      | _ => false
    if same || !Config.cacheKeeps s.fresh then r else s.leafCheck c.leaf c.place c.lvl va .none

/-- An engine of the part reaches an address (R161, R162, R174): its leaf has A set and is kept, and its sector is read. -/
def State.engPass (s : State) (ctx va : Nat) : State :=
  match s.xlate ioDie ctx va .none with
  | (s, .ok pa _ _ _) => s.passSector (pa / 64) .engine
  | (s, _) => s

/-- The doubleword at home and in its yard, as an engine of the part reads it: committed entries only. -/
def State.engDw (s : State) (ctx va : Nat) : Option Dw :=
  match s.engTr ctx va with
  | .ok pa leaf _ _ =>
    some (combineLevels (s.homeDw leaf pa) (s.homeLevels (s.route ctx va).home (keyOf ctx (va / 8 * 8)) []))
  | _ => none

/-- A number of at most 8 bytes within a doubleword, as an engine reads it; zero where the page cannot be read. -/
def State.engNum (s : State) (ctx va n : Nat) : Nat :=
  match s.engDw ctx va with
  | some d => d.v / 2 ^ (8 * (va % 8)) % 2 ^ (8 * n)
  | none => 0

/-- A committed deferred entry that a committed rep of its key and width deletes (R115). -/
def overtaken (e x : Entry) : Bool := x.op.isFx && x.key == e.key && x.w == e.w && !x.tent && !x.mark

/-- Places an entry in a yard's chain: a committed rep deletes the committed deferred entries of its key and width
(R115). -/
def Die.place (d : Die) (e : Entry) : Die :=
  { d with
    yard := setChain d.yard e.key (tryAppend (chain d.yard e.key) e).1
    dset := if e.op == .rep && !e.tent then d.dset.filter fun x => !overtaken e x else d.dset
    blocks := if e.op == .rep && !e.tent then (d.blocks.map (·.filter fun x => !overtaken e x)).filter (!·.isEmpty)
      else d.blocks }

/-- An update of one granule that the part makes itself (R101): committed, of no task. -/
def repGranule (ctx va v : Nat) : Entry where
  key := BitVec.ofNat 64 (keyOf ctx va)
  op := .rep
  w := false
  tent := false
  trp := false
  psn := false
  wexp := 0
  task := noTask
  val := BitVec.ofNat 128 (v % 2 ^ 32)
  ord := 1
  units := []
  age := 0
  mark := false

/-- Stores a number of `4·n` bytes as granules through the home yard, as the part's own engines do (R49, R101, R128). -/
def State.engStore (s : State) (ctx va : Nat) : Nat → Nat → State
  | _, 0 => s
  | v, n + 1 =>
    let at' := va + 4 * n
    let s := (s.dropReplicas ctx at').modDie (s.route ctx at').home fun d =>
      d.place (repGranule ctx at' (v / 2 ^ (32 * n)))
    let s := match s.xlate (s.route ctx at').home ctx at' .none with
      | (s, .ok _ _ leafAt _) => s.setDirty leafAt
      | (s, _) => s
    s.engStore ctx va v n

/-- Word 0 of a supervisor fault record (R165). -/
def supWord (kind cause acc level die : Nat) (task : BitVec 40) : Nat :=
  kind % 256 * 2 ^ 56 + cause % 256 * 2 ^ 48 + acc % 8 * 2 ^ 45 + level % 8 * 2 ^ 42 + die % 4 * 2 ^ 40 + task.toNat

/-- Writes a record into a queue (R128): the record at its place, then TAIL + 1; DROPS + 1 where the queue is full or its
length is no length. The result tells whether it was written. -/
def State.postQueue (s : State) (ctx base size : Nat) (words : List Nat) : State × Bool :=
  let s := s.engPass ctx base
  match s.engTr ctx base with
  | .ok _ _ _ _ =>
    let head := s.engNum ctx base 8
    let tail := s.engNum ctx (base + 8) 8
    let len := s.engNum ctx (base + 16) 8
    let drops := s.engNum ctx (base + 24) 8
    let good := 16 ≤ len && len ≤ 2 ^ 20 && 2 ^ len.log2 == len
    if !good || (tail + 2 ^ 64 - head) % 2 ^ 64 == len then
      (s.engStore ctx (base + 24) (min (drops + 1) (2 ^ 64 - 1)) 2, false)
    else
      let at' := base + 64 + size * (tail % len)
      let s := s.engPass ctx at'
      let s := (words.zipIdx).foldl (fun s (v, i) => s.engStore ctx (at' + 8 * i) v 2) s
      (s.engStore ctx (base + 8) (tail + 1) 2, true)
  | _ => (s, false)

/-- Writes a supervisor fault record (R165); the vector is signalled at a written one. A queue whose pages cannot be reached
loses the record (log 16); a base of 0 names no queue (R128). -/
def State.writeSup (s : State) (w0 key val : Nat) : State :=
  if s.io.sfqBase = 0 then s
  else
    let ctx := s.io.sfqCtx.toNat
    let base := s.io.sfqBase.toNat
    let (s, written) := s.postQueue ctx base 32 [w0, key, val, s.io.sfqNum]
    let s := s.modIo fun io => { io with sfqNum := io.sfqNum + 1 }
    if !written then s
    else
      let w4 := s.engNum ctx (base + 32) 8
      if w4 / 2 ^ 63 % 2 = 1 then s.sendMsi (w4 % 2 ^ 11) else s

/-- Posts a supervisor fault record (R165); the fault service handles the failure of KIND 1, were its record dropped or not
(log 46). -/
def State.postSup (s : State) (w0 key val : Nat) : State :=
  let s := s.writeSup w0 key val
  if bitsOf w0 56 8 = 1 then s.push [.pageFaultService (bitsOf w0 40 2) (keyCtx key) (keyVa key) (bitsOf w0 48 8)] else s

/-- The same page of a wait list (R166). -/
def WaitList.isPage (w : WaitList) (ctx va : Nat) : Bool := w.ctx == ctx && w.page == va % 2 ^ 57 / 4096

/-- The page was refused in this cycle (R183). -/
def State.refusedNow (s : State) (ctx va : Nat) : Bool := s.io.refused.contains (ctx, va % 2 ^ 57 / 4096)

/-- A failure on a page can be listed (R166): the page has a list, or fewer than 256 pages are outstanding. Otherwise it holds
its requester. -/
def State.waitRoom (s : State) (die ctx va : Nat) : Bool :=
  (s.dieAt die).waits.any (·.isPage ctx va) || (s.dieAt die).waits.length < 256

/-- A failure on a page (R166): it joins the page's wait list with what waits, if anything; the first failure posts the
record. A failure in the cycle of the page's refusal is refused too (R183). -/
def State.waitOn (s : State) (die ctx va : Nat) (w : List Waiter) (w0 val : Nat) : State :=
  let d := s.dieAt die
  if d.waits.any (·.isPage ctx va) then
    s.modDie die fun d =>
      { d with waits := mapIf (·.isPage ctx va) (fun l => { l with items := l.items ++ w }) d.waits }
  else
    let s := s.modDie die fun d => { d with waits := d.waits ++ [⟨ctx, va % 2 ^ 57 / 4096, w⟩] }
    if s.refusedNow ctx va then s.push [.pageFaultService die ctx (va % 2 ^ 57) 2] else s.postSup w0 (keyOf ctx va) val

/-- Removes the list of a page (R166). -/
def State.dropWait (s : State) (die ctx va : Nat) : State :=
  s.modDie die fun d => { d with waits := d.waits.filter fun w => !w.isPage ctx va }

/-- Word 1 of a merge fault record (R127). -/
def mergeWord (e : Entry) (level cause : Nat) : Nat :=
  e.op.code * 2 ^ 59 + e.w.toNat * 2 ^ 58 + e.tent.toNat * 2 ^ 56 + e.trp.toNat * 2 ^ 55 + level * 2 ^ 52
    + cause * 2 ^ 48 + e.wexp.toNat * 2 ^ 40 + e.task.toNat

/-- Posts the words of a merge fault record, or parks them where the queue's page is not resident (R124, R128); one that
meets a 257th page is held, and later ones of its context behind it (R166). -/
def State.postMergeWords (s : State) (ctx : Nat) (words : List Nat) : State :=
  let base := (look s.io.fqBase ctx 0).toNat
  let die := (s.route ctx base).home
  let held := s.modIo fun io => { io with heldPosts := io.heldPosts ++ [(ctx, words)] }
  if s.io.heldPosts.any (·.1 == ctx) then held
  else
  match s.engTr ctx base with
  | .absent lvl v _ =>
    if !s.waitRoom die ctx base then held
    else s.waitOn die ctx base [.post ctx words] (supWord 1 1 1 lvl die noTask) (bitsOf v.toNat 0 64)
  | _ => (s.postQueue ctx base 64 words).1

/-- Posts a merge fault record (R126 to R129) of an entry that a core emitted: into the context's fault queue, to the core
that its TASK names, and into the lifetime count of its operator (R40). A base of 0 names no queue. -/
def State.postMerge (s : State) (e : Entry) (level cause : Nat) (old new : BitVec 128) (launch : BitVec 32) (core : Nat) : State :=
  let ctx := e.ctx
  let num := look s.io.fqNum ctx 0
  let s := s.lifeAdd (lifeMerge e.op.code) 1
  let s :=
    if look s.io.fqBase ctx 0 == 0 then s
    else
      (s.postMergeWords ctx
        [e.key.toNat, mergeWord e level cause, old.toNat % 2 ^ 64, old.toNat / 2 ^ 64, new.toNat % 2 ^ 64,
          new.toNat / 2 ^ 64, launch.toNat * 2 ^ 32 + core % 2 ^ 12 * 2 ^ 20, num]).modIo fun io =>
        { io with fqNum := put io.fqNum ctx (num + 1) }
  s.push [.mergeFaultRecordArrival e.task launch (BitVec.ofNat 64 num) ctx]

/-- A record that a merge unit or the home posts: it knows the emitting core by the entry's TASK. -/
def State.postUnit (s : State) (e : Entry) (level cause : Nat) (old new : BitVec 128) : State :=
  s.postMerge e level cause old new 0xFFFFFFFF (tokCore e.task)

/-- The record of a range failure on combining (R126). -/
def State.postRange (s : State) (e old : Entry) (level : Nat) : State :=
  s.postUnit e level (if e.op.isFx then 1 else 2) old.val e.val

/-- Records a range failure where there is one. -/
def State.postRange? (s : State) (e : Entry) (bad : Option Entry) (level : Nat) : State :=
  match bad with
  | some old => s.postRange e old level
  | none => s

/-- Number of a sector read's consumer (R175). -/
def consumerNum : Consumer → Nat
  | .core .. => 1
  | .yard => 2
  | .window => 3
  | .get => 4
  | .flue => 5
  | _ => 6

/-- ACC of a sector read's consumer (R165). -/
def consumerAcc : Consumer → Nat
  | .core _ fetch _ => if fetch then 2 else 0
  | .yard => 1
  | .window => 5
  | .get => 3
  | .flue => 6
  | _ => 7

/-- A sector was uncorrectable (R175): a record of KIND 5, and what the consumer then does. CAUSE and ACC of a walk's and of an
engine's read are free (log 93); a prefetch posts no record and aborts no task (R264). -/
def State.sectorLost (s : State) (sector : Nat) (c : Consumer) : State :=
  let post (s : State) (cause acc : Nat) (task : BitVec 40) : State :=
    let s := s.tick.tick
    s.postSup (supWord 5 cause acc 0 (sector * 64 / Config.dieBytes) task)
      (Config.recordField (s.fresh - 2)) (Config.recordField (s.fresh - 1))
  match c with
  | .core n _ task => (post s 1 (consumerAcc c) task).push [.paddockKill ((s.paddockOf n).getD (64 + clusterOf n))]
  | .walk | .engine =>
    let s := s.tick.tick
    post s (Config.recordField (s.fresh - 2)) (Config.recordField (s.fresh - 1)) noTask
  | .prefetch => s
  | c => post s (consumerNum c) (consumerAcc c) noTask

/-- A sector read of a consumer (R174, R175). The result tells whether it was uncorrectable. -/
def State.sectorRead (s : State) (sector : Nat) (c : Consumer) : State × Bool :=
  let (s, lost) := s.mend sector
  (if lost then s.sectorLost sector c else s, lost)

/-- The records of uncorrectable sectors that walks and engines have met (R175). -/
def State.postLost (s : State) : State :=
  s.io.lostSectors.foldl (fun s (n, c) => s.sectorLost n c) (s.modIo fun io => { io with lostSectors := [] })

/-- The saturation of an entry with TRP as it is applied to a home element (R114, R126). -/
def applyRange (old : Nat) (e : Entry) : Bool :=
  e.trp && !e.op.isFx && (opValue e.op e.w old (e.val.toNat % 2 ^ Entry.bits e)).2

/-- Applies one entry to home memory (R109, R114, R115, R120): an exact or deferred entry with one rounding. A range failure
poisons the element and is recorded (R126). -/
def State.applyHome (s : State) (leaf : BitVec 128) (pa : Nat) (e : Entry) : State :=
  let s := (s.sectorRead (pa / 64) .yard).1
  let old := leNat (s.readLeaf leaf pa (Entry.bits e / 8))
  let bad := applyRange old e
  let d := ((s.homeDw leaf pa).apply { e with psn := e.psn || bad }).settle
  let b := pa / 8 * 8
  let s := ((s.writeLeaf leaf b (leBytes 8 d.v)).setPoison b d.psn0).setPoison (b + 4) d.psn1
  if bad then s.postUnit e 6 2 (BitVec.ofNat 128 old) e.val else s

/-- A refused translation posts its record at once (R369). -/
def State.postRefused (s : State) (cause acc lvl die : Nat) (task : BitVec 40) (ctx va : Nat) (val : Word) : State :=
  s.postSup (supWord 1 cause acc lvl die task) (keyOf ctx va) val.toNat

/-- Applies a yard's entry with its second translation (R104, R124, R163): a page that is not resident parks it, a refused
translation discards it with a record of cause 5. An entry marked for an apply point keeps its place (R115); its mark alone stands for it
where 256 other pages wait (R166). -/
def State.applyEntry (s : State) (die : Nat) (e : Entry) : State :=
  if !e.op.isFx && !((s.dieAt die).parkedApply e.key).isEmpty then s.waitOn die e.ctx e.va [.entry e 1 true] 0 0
  else
  let (s, r) := s.xlate die e.ctx e.va .wr
  match r with
  | .ok pa leaf _ _ => s.applyHome leaf pa e
  | .absent lvl v _ =>
    let w0 := supWord 1 1 1 lvl die e.task
    if e.op.isFx then
      let s := s.modDie die fun d => { d with dset := insertEntry { e with mark := true } d.dset }
      if s.waitRoom die e.ctx e.va then s.waitOn die e.ctx e.va [] w0 (bitsOf v.toNat 0 64) else s
    else s.waitOn die e.ctx e.va [.entry e 1 true] w0 (bitsOf v.toNat 0 64)
  | .refused c lvl v => (s.postRefused c 1 lvl die e.task e.ctx e.va v).postUnit e 6 5 0 e.val

/-- All loads whose result has not returned, with their read marks (R118). -/
def State.loadsOut (s : State) : List Load := s.cores.flatMap fun (_, c) => c.threads.flatMap fun (_, t) => t.loads

/-- A key bears a read mark at a core's stall run. -/
def State.stallMarked (s : State) (core : Nat) (key : Word) : Bool :=
  s.loadsOut.any fun l => l.core == core && l.keys.contains key.toNat
/-- A key bears a read mark at a cluster's shed run. -/
def State.shedMarked (s : State) (cl : Nat) (key : Word) : Bool :=
  s.loadsOut.any fun l => clusterOf l.core == cl && l.keys.contains key.toNat
/-- A key bears a read mark at its yard. -/
def State.yardMarked (s : State) (key : Word) : Bool := s.loadsOut.any fun l => l.keys.contains key.toNat

/-- The entries of a key at a yard in the order of their application: overflow blocks, oldest first, then the run. -/
def Die.fullChain (d : Die) (key : Word) : List Entry :=
  (d.blocks.flatMap fun b => (chain b key).filter fun e => !e.op.isFx) ++ chain d.yard key

/-- Removes the first `n` chain entries of a key from a run; the number that remain to be removed. -/
def takeOff (key : Word) : Nat → List Entry → List Entry × Nat
  | n, [] => ([], n)
  | n, x :: l =>
    if n != 0 && x.key == key && !x.op.isFx then takeOff key (n - 1) l
    else
      let (r, m) := takeOff key n l
      (x :: r, m)

/-- Removes the first `n` entries of a key's full chain. -/
def Die.dropChain (d : Die) (key : Word) (n : Nat) : Die :=
  let (bs, m) := d.blocks.foldl (fun (acc : List (List Entry) × Nat) b =>
    let (b', m) := takeOff key acc.2 b
    (acc.1 ++ [b'], m)) ([], n)
  { d with blocks := bs.filter (fun b => !b.isEmpty), yard := (takeOff key m d.yard).1 }

/-- The keys of a doubleword: its lower and its upper granule. -/
def lowKey (key : Word) : Word := key &&& ~~~1
/-- See `lowKey`. -/
def highKey (key : Word) : Word := key ||| 1

/-- The entries of a doubleword's two chains in the order of a load (R120): level by level, the lower key's before the upper
key's. -/
def Die.pairChain (d : Die) (key : Word) : List Entry :=
  (d.blocks ++ [d.yard]).flatMap fun run =>
    ((chain run (lowKey key)) ++ chain run (highKey key)).filter fun e => !e.op.isFx

/-- The entries of a doubleword's chains that can be applied in their order (R120): a tentative entry stops its own key, and an
entry of the lower key that covers both granules stops with either and stops both. -/
def takeable (high : Word) : Bool → Bool → List Entry → List Entry
  | _, _, [] => []
  | low, up, e :: l =>
    let upper := e.key == high
    if e.tent || (if upper then up else low || e.w && up) then
      takeable high (low || !upper) (up || upper || e.w) l
    else e :: takeable high low up l

/-- The committed entries that an apply of a key can reach, oldest first (R109, R120): those of its chain ahead of its first
tentative entry; those of its doubleword where an entry of the other width stands among them. -/
def Die.applicable (d : Die) (key : Word) : List Entry :=
  if (d.fullChain (lowKey key)).any (·.w) && !(d.fullChain (highKey key)).isEmpty then
    takeable (highKey key) false false (d.pairChain key)
  else (d.fullChain key).takeWhile fun e => !e.tent

/-- The page of a key can be applied to now: where it is not resident, its failure can be listed (R166). -/
def State.applyRoom (s : State) (die : Nat) (key : Word) : Bool :=
  let ctx := keyCtx key.toNat
  let va := keyVa key.toNat
  s.waitRoom die ctx va || match s.walk ctx va .wr with
    | .absent .. => false
    | _ => true

/-- Applies a key's committed entries from the oldest up to the last that satisfies `p`, and no further than the first
tentative one (R106, R109); entries behind them that a release wanted applied go with them (R117). A chain that bears a
read mark is not applied (R118). -/
def State.applyKey (s : State) (die : Nat) (key : Word) (p : Entry → Bool) : State :=
  if s.yardMarked (lowKey key) || s.yardMarked (highKey key) || !s.applyRoom die key then s
  else
    let pre := (s.dieAt die).applicable key
    let m := pre.length - (pre.reverse.takeWhile fun e => !p e).length
    let take := pre.take (m + ((pre.drop m).takeWhile fun e => e.mark).length)
    let count (k : Word) : Nat := (take.filter fun e => e.key == k).length
    take.foldl (fun s e => s.applyEntry die e) (s.modDie die fun d =>
      (d.dropChain (lowKey key) (count (lowKey key))).dropChain (highKey key) (count (highKey key)))

/-- Applies one deferred-set entry of a yard or of its overflow blocks (R115), unless its key bears a read mark (R118). -/
def State.applyFx (s : State) (die : Nat) (e : Entry) : State :=
  if s.yardMarked e.key then s else
  let s := s.modDie die fun d =>
    if d.dset.contains e then { d with dset := dropFirst (· == e) d.dset }
    else { d with blocks := (d.blocks.map fun b => if b.contains e then dropFirst (· == e) b else b).filter (!·.isEmpty) }
  s.applyEntry die { e with mark := false }

/-- The keys of entries, rising and without repeats. -/
def keysOf (l : List Entry) : List Word :=
  (l.foldl (fun ks e => insertNat e.key.toNat ks) []).map (BitVec.ofNat 64)

/-- Every entry a yard holds, its blocks with it. -/
def Die.all (d : Die) : List Entry := d.blocks.flatten ++ d.yard ++ d.dset

/-- Entries of the yard run (R105). -/
def Die.count (d : Die) : Nat := d.yard.length + d.dset.length

/-- An overflow block is free (R110). -/
def Die.blockFree (d : Die) : Bool := d.blocks.length < d.yovl.toNat

/-- Places of a yard run (R105). -/
def yardPlaces : Nat := 524288

/-- What a yard's fill brings about (R109, R110): while FULL stands, its committed entries are applied ever anew. -/
def State.yardFill (s : State) (die : Nat) : State :=
  let d := s.dieAt die
  let n := d.count
  s.push ((if n < 262144 && !d.blocks.isEmpty then [.yardRefill die] else [])
    ++ (if 393216 ≤ n then [.yardFillApply die] else [])
    ++ (if 491520 ≤ n && d.blockFree then [.yardSpill die] else [])
    ++ (if 520192 ≤ n && !d.blockFree || d.full && 491520 ≤ n then [.yardFull die] else [])
    ++ (if d.full && n < 491520 then [.yardFullClear die] else []))

/-- Enters an entry into the yard's runs (R105, R106, R115); `none` where its chain, or the yard, has no place for it. A
committed rep enters after the marked entries of its key have been applied (R132). -/
def State.yardInsert (s : State) (die : Nat) (e : Entry) : Option State :=
  let room := (s.dieAt die).count < yardPlaces
  if e.op.isFx then
    let (set, bad) := dsetAdd (s.dieAt die).dset e
    if !room && (s.dieAt die).dset.length < set.length then none
    else some ((s.modDie die fun d => { d with dset := set }).postRange? e bad 4)
  else if e.op == .rep && !e.tent && s.yardMarked e.key && (s.dieAt die).dset.any fun x => x.key == e.key && x.mark then none
  else
    let s := if e.op == .rep && !e.tent then
        ((s.dieAt die).dset.filter fun x => x.key == e.key && x.mark).foldl (fun s x => s.applyFx die x) s
      else s
    let c := chain (s.dieAt die).yard e.key
    let (c', bad) := tryAppend c e
    if !room && c.length < c'.length then none
    else if c'.length ≤ 4 then some ((s.modDie die fun d => d.place e).postRange? e bad 4)
    else
      let s := s.applyKey die e.key fun _ => true
      if (chain (s.dieAt die).yard e.key).length < 4 then some (s.modDie die fun d => d.place e) else none

/-- The task is a slot's current task or one whose commit is not complete (R129). -/
def State.taskLive (s : State) (t : BitVec 40) : Bool :=
  let n := tokCore t
  let k := tokSlot t
  t != noTask && (s.thr n k).status != .free && (s.token n k == t || (s.thr n k).flip == some t)

/-- The task of a pinned unit that is saved exactly (R66). -/
def State.taskSaved (s : State) (t : BitVec 40) : Bool :=
  t != noTask && s.io.saved.any fun x => x.token == t || x.thread.flip == some t

/-- The task's unit is pinned (R46), on its core or saved. -/
def State.taskPinned (s : State) (t : BitVec 40) : Bool :=
  s.taskLive t && (s.thr (tokCore t) (tokSlot t)).pin || s.taskSaved t

/-- A strongly ordered update of a task (R131). -/
def isSos (e : Entry) : Bool := e.ord == 1 && !e.tent && e.task != noTask

/-- The answer of a yard to a strongly ordered update (R139). -/
def State.answerSos (s : State) (e : Entry) (good : Bool) : State :=
  if isSos e then s.push [.sosAcknowledge (tokCore e.task) (tokSlot e.task) (e.units.headD 0) good] else s

/-- A page is frozen by a migration (R170). -/
def Die.isFrozen (d : Die) (ctx va : Nat) : Bool :=
  d.frozen.any fun (c, p, n) => c == ctx && p ≤ va % 2 ^ 57 / 4096 && va % 2 ^ 57 / 4096 < p + n

/-- Yard entry (R104, R124, R163): held at a frozen page; answered MOVED away from the page's home; behind a parked entry
of its key it waits with it; a page fault parks it or aborts its task; a refusal discards it; otherwise it is checked
against its page and enters. `acc` is the kind of access (R165). `none`: its chain has no place, or 256 other pages wait
(R166). -/
def State.yardAccept (s : State) (die : Nat) (e : Entry) (acc : Nat) : Option State :=
  let ctx := e.ctx
  let va := e.va
  let d := s.dieAt die
  if d.isFrozen ctx va || d.heldAt.any (·.1.key == e.key) then some (s.modDie die fun d => { d with heldAt := d.heldAt ++ [(e, acc)] })
  else if (s.route ctx va).home != die then some (s.push [.movedReroute e acc])
  else if d.parkedKey e.key then some (s.waitOn die ctx va [.entry e acc false] 0 0)
  else
    let (s, r) := s.xlate die ctx va .wr
    match r with
    | .absent lvl v _ =>
      let w0 := supWord 1 1 acc lvl die e.task
      let val := bitsOf v.toNat 0 64
      if !s.waitRoom die ctx va then none
      else if e.tent && !s.taskPinned e.task then
        some ((s.waitOn die ctx va [] w0 val).push [.abortNoticeArrival e.task (.page die ctx va)])
      else some (s.waitOn die ctx va [.entry e acc false] w0 val)
    | .refused c lvl v =>
      let w0 := supWord 1 c acc lvl die e.task
      let soft := c != 5 && c != 6
      if e.tent then
        if !soft then
          some ((s.postRefused c acc lvl die e.task ctx va v).push [.abortNoticeArrival e.task .refused])
        else if !s.waitRoom die ctx va then none
        else if s.taskPinned e.task then some (s.waitOn die ctx va [.entry e acc false] w0 v.toNat)
        else some ((s.waitOn die ctx va [] w0 v.toNat).push [.abortNoticeArrival e.task (.page die ctx va)])
      else some (((s.postRefused c acc lvl die e.task ctx va v).postUnit e 3 5 0 e.val).answerSos e false)
    | .ok _ leaf at' _ =>
      let s := if e.ord.toNat != leafOrd leaf then s.postUnit e 3 6 0 e.val else s
      let s := if e.op.isFx && e.wexp != leafWexp leaf then s.postUnit e 3 4 0 e.val else s
      let s := (s.dropReplicas ctx va).setDirty at'
      match s.yardInsert die { e with ord := BitVec.ofNat 2 (leafOrd leaf) } with
      | some s => some ((s.yardFill die).answerSos e true)
      | none => none

/-- An entry at its yard; one whose chain has no place is held at the yard's input. -/
def State.yardTake (s : State) (die : Nat) (e : Entry) (acc : Nat) : State :=
  match s.yardAccept die e acc with
  | some s => s
  | none => s.modDie die fun d => { d with heldAt := d.heldAt ++ [(e, acc)] }

/-- The line of an address in a read cache: context and address bits [56:6]. -/
def lineOf (ctx va : Nat) : Nat := ctx * 2 ^ 51 + va % 2 ^ 57 / 64

/-- A core's read cache loses the line of a key, and a load on its way does not keep it (R113). -/
def Core.dropLine (c : Core) (ctx va : Nat) : Core :=
  { c with
    rcache := del c.rcache (lineOf ctx va)
    threads := c.threads.map fun (k, t) =>
      (k, { t with loads := t.loads.map fun l => { l with fills := l.fills.filter fun (n, _) => n != lineOf ctx va } }) }

/-- Notes the yard that a task's entry was sent to (R121). -/
def Cluster.sendTo (c : Cluster) (die : Nat) (e : Entry) : Cluster :=
  if e.tent then { c with dmask := put c.dmask e.task.toNat (look c.dmask e.task.toNat 0 ||| 2 ^ die) } else c

/-- Moves a key's chain from a shed into its home yard (R106, R108, R111), or leaves it there, waiting: so it does while its page
is frozen (R170). -/
def State.moveShedKey (s : State) (cl : Nat) (key : Word) : State × Bool :=
  let c := chain (s.clusterAt cl).shed key
  let free (s : State) : State := s.modCluster cl fun x => { x with blocked := x.blocked.filter (· != key.toNat) }
  match c with
  | [] => (free s, true)
  | e0 :: _ =>
    let die := (s.route e0.ctx e0.va).home
    let hold (s : State) : State := s.modCluster cl fun x => { x with blocked := insertNat key.toNat x.blocked }
    if s.shedMarked cl key || (s.dieAt die).full then (s, false)
    else if (s.dieAt die).isFrozen e0.ctx e0.va || (s.dieAt die).heldAt.any (·.1.key == key) then (hold s, false)
    else
      match c.foldlM (fun s e => s.yardAccept die e 1) s with
      | some s =>
        (free (s.modCluster cl fun x =>
          c.foldl (fun x e => x.sendTo die e) { x with shed := setChain x.shed key [] }), true)
      | none => (hold s, false)

/-- What a shed's fill brings about (R108). -/
def State.shedFill (s : State) (cl : Nat) : State :=
  if 6144 ≤ (s.clusterAt cl).shed.length then s.push [.shedFillMoveout cl] else s

/-- An entry arrives at a shed, where its age begins (R106, R108): a fifth append first moves the chain out; while such a move waits the chain grows. -/
def State.shedAppend (s : State) (cl : Nat) (e : Entry) : State :=
  let e := { e with age := s.now }
  let c := chain (s.clusterAt cl).shed e.key
  let (c', bad) := tryAppend c e
  if c'.length ≤ 4 || (s.clusterAt cl).blocked.contains e.key.toNat then
    (s.modCluster cl fun x => { x with shed := setChain x.shed e.key c' }).postRange? e bad 2
  else
    let (s, moved) := s.moveShedKey cl e.key
    if moved then s.modCluster cl fun x => { x with shed := setChain x.shed e.key [e] }
    else (s.modCluster cl fun x => { x with shed := setChain x.shed e.key c' }).postRange? e bad 2

/-- The shed of a cluster accepts stall entries (R107). -/
def State.shedOpen (s : State) (cl : Nat) : Bool := (s.clusterAt cl).shed.length + 128 ≤ 8192

/-- Bytes of an entry as a router hashes them (R101, R179): the task token, which differs between the copies, is left out
(log 17). -/
def entryBytes (e : Entry) : List Byte :=
  leBytes 8 e.key.toNat ++ leBytes 16 e.val.toNat
    ++ leBytes 8 (e.op.code * 2 ^ 59 + e.w.toNat * 2 ^ 58 + e.tent.toNat * 2 ^ 56 + e.trp.toNat * 2 ^ 55
        + e.psn.toNat * 2 ^ 54 + e.wexp.toNat * 2 ^ 46)

/-- The primary core and slot of a paired unit. -/
def State.primaryOf (s : State) (n k : Nat) : Nat × Nat :=
  let t := s.thr n k
  if t.primary then (n, k) else t.mate.getD (n, k)

/-- Closes the window of a paired unit (R179). -/
def State.closeWindow (s : State) (n k : Nat) : State :=
  if (s.thr n k).window.isEmpty then s
  else
    let (pn, pk) := s.primaryOf n k
    (s.modThr n k fun t => { t with closed := t.closed ++ [t.window], window := [] }).push [.windowHashCompare pn pk]

/-- A message of a paired unit joins its window, which closes after 64 messages, or at once around a strongly ordered
update (R179). -/
def State.hold (s : State) (n k : Nat) (m : WinMsg) (alone : Bool) : State :=
  let s := if alone then s.closeWindow n k else s
  let s := s.modThr n k fun t => { t with window := t.window ++ [m] }
  if alone || 64 ≤ (s.thr n k).window.length then s.closeWindow n k else s

/-- A message of an update that moves to the shed. -/
def WinMsg.update (e : Entry) : WinMsg := ⟨entryBytes e, none, [e], none, none⟩

/-- A message that an event stands for. -/
def WinMsg.event (bytes : List Byte) (ev : Ev) : WinMsg := ⟨bytes, some ev, [], none, none⟩

/-- A write into another core's local store. -/
def WinMsg.store (core off : Nat) (bs : List Byte) : WinMsg :=
  ⟨leBytes 4 (core * 2 ^ 18 + off) ++ bs, none, [], none, some (core, off, bs)⟩

/-- A message that leaves the part by the I/O die. -/
def WinMsg.outgoing (m : OutMsg) : WinMsg := ⟨leBytes 2 m.dest.toNat ++ m.body, none, [], some m, none⟩

/-- Sends a message of the I/O die, which notes what it waits for. -/
def State.post (s : State) (m : OutMsg) : State :=
  (s.modIo fun io =>
    { io with gets := io.gets ++ m.gets, puts := io.puts ++ m.puts
              spawns := io.spawns ++ (m.spawn.toList.map fun (n, k) => (m.dest, n, k)) }).sendTo m.dest m.cls m.kind m.body

/-- A core's local store with bytes written; bytes beyond it are not. -/
def Core.lsWrite (c : Core) (off : Nat) (bs : List Byte) : Core :=
  { c with ls := Memory.writeN c.ls off (bs.take (0x40000 - off)) }

/-- What a message brings about once it is forwarded. -/
def State.deliver (s : State) (n : Nat) (m : WinMsg) : State :=
  let s := m.entries.foldl (fun s e => s.shedAppend (clusterOf n) e) s
  let s := match m.out with
    | some o => s.post o
    | none => s
  let s := match m.ls with
    | some (c, off, bs) => s.modCore c fun x => x.lsWrite off bs
    | none => s
  match m.ev with
  | some ev => s.push [ev]
  | none => s

/-- Sends a message of a thread: through the window of a paired unit, at once otherwise (R179). -/
def State.send (s : State) (n k : Nat) (m : WinMsg) (alone : Bool) : State :=
  if (s.thr n k).mate.isSome then s.hold n k m alone else s.deliver n m

/-- A write into a local store by a thread: one into another core's goes as a message (R179). -/
def State.storeLs (s : State) (n k core off : Nat) (bs : List Byte) : State :=
  if core = n then s.modCore n fun c => c.lsWrite off bs else s.send n k (.store core off bs) false

/-- Moves a key's chain from a stall run to the shed (R107, R111); the read cache loses its line in the same step. -/
def State.moveStallKey (s : State) (core : Nat) (key : Word) : State × Bool :=
  if s.stallMarked core key then (s, false)
  else
    let c := chain (s.coreAt core).stall key
    let s := s.modCore core fun x =>
      ({ x with stall := setChain x.stall key [] }).dropLine (keyCtx key.toNat) (keyVa key.toNat)
    (c.foldl (fun s e =>
      if e.task != noTask && tokCore e.task == core then s.send core (tokSlot e.task) (WinMsg.update e) false
      else s.shedAppend (clusterOf core) e) s, true)

/-- Moves all of a stall run out, in ascending key order (R107). The result tells whether it is empty now. -/
def State.moveStallAll (s : State) (core : Nat) : State × Bool :=
  if (s.coreAt core).stall.isEmpty then (s, true)
  else if !s.shedOpen (clusterOf core) then (s, false)
  else
    let s := (keysOf (s.coreAt core).stall).foldl (fun s k => (s.moveStallKey core k).1) s
    (s.shedFill (clusterOf core), (s.coreAt core).stall.isEmpty)

/-- Emission of an update into its core's stall run (R106, R107); `none` where it must wait for a place. -/
def State.emit (s : State) (core : Nat) (e : Entry) : Option State :=
  let c := chain (s.coreAt core).stall e.key
  let (c', bad) := tryAppend c e
  let room := (s.coreAt core).stall.length < 128
  if c'.length = c.length then
    some ((s.modCore core fun x => { x with stall := setChain x.stall e.key c' }).postRange? e bad 1)
  else if c'.length ≤ 4 then
    if room then some (s.modCore core fun x => { x with stall := setChain x.stall e.key c' }) else none
  else if !s.shedOpen (clusterOf core) then none
  else
    let (s, moved) := s.moveStallKey core e.key
    if moved then some (s.modCore core fun x => { x with stall := insertEntry e x.stall }) else none

/-- What the fill of a stall run brings about (R107). -/
def State.stallFill (s : State) (core : Nat) : State :=
  let c := s.coreAt core
  if c.stallhw.toNat ≤ c.stall.length && !c.stall.isEmpty then s.push [.stallHighwaterMoveout core] else s

/-- The tasks whose tentative entries a slot's loads take as their own (R119, R137). -/
def State.tasksOf (s : State) (n k : Nat) : List (BitVec 40) := s.token n k :: (s.thr n k).flip.toList

/-- Why a load obtains nothing at home (R163, R369): the die, the address and the result of its translation; or it is held at
the input of a frozen page (R170). -/
structure LoadMiss where
  die : Nat
  ctx : Nat
  va : Nat
  tr : Tr
  held : Bool
  deriving DecidableEq, Repr

/-- A read replica that a load from a core finds on its own die (R168). -/
def State.replicaAt (s : State) (core ctx va : Nat) : Option Replica :=
  if dieOf core = (s.route ctx va).home then none
  else (s.dieAt (dieOf core)).replicas.find? fun x => x.ctx == ctx && x.page == va % 2 ^ 57 / 4096

/-- A doubleword of a read replica. -/
def Replica.dw (r : Replica) (va : Nat) : Dw :=
  let o := va % 4096 / 8 * 8
  ⟨leNat ((r.bytes.drop o).take 8), r.poison.contains (o / 4), r.poison.contains (o / 4 + 1), [], [], []⟩

/-- The doubleword of a load as home, yard and shed give it, its exact sums still pending (R118, R119); a read replica stands in
for home and yard (R168). -/
def State.outerDw (s : State) (core : Nat) (tasks : List (BitVec 40)) (ctx va : Nat) (need : Need) (c : Consumer) :
    State × Except LoadMiss Dw :=
  let die := (s.route ctx va).home
  let k := keyOf ctx va
  let shed := levelEntries (s.clusterAt (clusterOf core)).shed k tasks (s.dphV ctx)
  match s.replicaAt core ctx va with
  | some r => (s, .ok (applyLevels (r.dw va) [shed]))
  | none =>
    if (s.dieAt die).isFrozen ctx va then (s, .error ⟨die, ctx, va, .absent 0 0 0, true⟩)
    else
      let (s, r) := s.xlate die ctx va need
      match r with
      | .ok pa leaf _ _ =>
        let (s, lost) := s.sectorRead (pa / 64) c
        if lost then (s, .error ⟨die, ctx, va, .absent 0 0 0, true⟩)
        else (s, .ok (applyLevels (s.homeDw leaf pa) (s.homeLevels die k tasks ++ [shed])))
      | r => (s, .error ⟨die, ctx, va, r, false⟩)

/-- The stall run's entries applied to a doubleword, whose exact sums are then rounded (R119). -/
def State.innerDw (s : State) (core : Nat) (tasks : List (BitVec 40)) (ctx va : Nat) (d : Dw) : Dw :=
  combineLevels d [levelEntries (s.coreAt core).stall (keyOf ctx va) tasks (s.dphV ctx)]

/-- The doubleword of a read-cache line. -/
def lineDw (line : BitVec 512) (va : Nat) : Dw := ⟨bitsOf line.toNat (8 * (va / 8 * 8 % 64)) 64, false, false, [], [], []⟩

/-- The doubleword of a load by tasks (R113, R119, R120, R136): a line of the read cache may stand in for the outer
levels; a cache that differs from them may have been dropped. Strongly ordered keys are never cached. -/
def State.loadDwOf (s : State) (core : Nat) (tasks : List (BitVec 40)) (ctx va : Nat) : State × Except LoadMiss Dw :=
  let va := va % 2 ^ 57 / 8 * 8
  let line := if (s.route ctx va).ord = 1 then none else find? (s.coreAt core).rcache (lineOf ctx va)
  let (s', r) := s.outerDw core tasks ctx va .rd (.core core false (tasks.headD noTask))
  let (s, r) := match line with
    | none => (s', r)
    | some l =>
      let old := lineDw l va
      let same := match r with
        | .ok d => d == old
        | .error _ => false
      if same then (s, r) else if Config.cacheKeeps s.fresh then (s.tick, .ok old) else (s'.tick, r)
  match r with
  | .ok d => (s, .ok (s.innerDw core tasks ctx va d))
  | e => (s, e)

/-- The doubleword of a load by a slot. -/
def State.loadDw (s : State) (core slot ctx va : Nat) : State × Except LoadMiss Dw :=
  s.loadDwOf core (s.tasksOf core slot) ctx va

/-- Doublewords of `n` bytes at an address, in ascending order. -/
def dwsOf (va n : Nat) : List Nat :=
  if n = 0 then [] else (List.range ((va % 8 + n + 7) / 8)).map fun i => va / 8 * 8 + 8 * i

/-- Bytes of a load with the poison of each granule (R119, R140): elements of ORD 0 and 2 pages first, then those of ORD 1
pages, each in ascending order; the first miss stops it. -/
def State.loadDwsOf (s : State) (core : Nat) (tasks : List (BitVec 40)) (ctx : Nat) (l : List Nat) : State × Except LoadMiss (List (Nat × Dw)) :=
  let plain := l.filter fun a => (s.route ctx a).ord != 1
  let strong := (l.filter fun a => (s.route ctx a).ord == 1).foldl (fun l a => insertNat a l) []
  (plain ++ strong).foldl (fun (s, r) a =>
    match r with
    | .error m => (s, .error m)
    | .ok ds =>
      match s.loadDwOf core tasks ctx a with
      | (s, .ok d) => (s, .ok (ds ++ [(a, d)]))
      | (s, .error m) => (s, .error m)) (s, .ok [])

/-- Bytes of a load by a slot. -/
def State.loadDws (s : State) (core slot ctx : Nat) (l : List Nat) : State × Except LoadMiss (List (Nat × Dw)) :=
  s.loadDwsOf core (s.tasksOf core slot) ctx l

/-- A number of `n` bytes from loaded doublewords, with its poison. -/
def dwNum (ds : List (Nat × Dw)) (va n : Nat) : Nat × Bool :=
  (List.range n).foldl (fun (v, p) i =>
    let a := va + i
    match ds.find? fun x => x.1 == a / 8 * 8 with
    | some (_, d) =>
      (v + d.v / 2 ^ (8 * (a % 8)) % 256 * 2 ^ (8 * i), p || (if a % 8 < 4 then d.psn0 else d.psn1))
    | none => (v, p)) (0, false)

/-- A tentative entry stands on the path of a line. -/
def State.lineTent (s : State) (core ctx va : Nat) : Bool :=
  let lo := keyOf ctx (va / 64 * 64)
  let on (e : Entry) : Bool := e.tent && lo ≤ e.key.toNat && e.key.toNat < lo + 16
  (s.clusterAt (clusterOf core)).shed.any on || (s.dieAt (s.route ctx va).home).all.any on

/-- The line a load leaves in the read cache (R113): the combined value of home, yard and shed. None is kept of strongly
ordered keys, of poisoned bytes, or where a tentative entry stands on the path (log 18). -/
def State.lineFill (s : State) (core slot ctx va : Nat) (c : Consumer) : State × Option (Nat × BitVec 512) :=
  let base := va % 2 ^ 57 / 64 * 64
  if (s.route ctx va).ord = 1 || s.lineTent core ctx base then (s, none)
  else
    let tasks := s.tasksOf core slot
    let (s, r) := (List.range 8).foldl (fun (acc : State × Option Nat) i =>
      match acc.2 with
      | none => acc
      | some v =>
        match acc.1.outerDw core tasks ctx (base + 8 * i) .rd c with
        | (s, .ok d) =>
          let d := d.settle
          (s, if d.psn0 || d.psn1 then none else some (v + d.v * 2 ^ (64 * i)))
        | (s, .error _) => (s, none)) (s, some 0)
    (s, r.map fun v => (lineOf ctx va, BitVec.ofNat 512 v))

/-- The hint record that governs a page: the lowest-numbered whose range contains it (R164). -/
def State.hint (s : State) (ctx va : Nat) : Option (Nat × Nat) :=
  let base := (look s.io.hintBase ctx 0).toNat
  let page := va % 2 ^ 57 / 4096
  (List.range (look s.io.hintCount ctx 0)).findSome? fun i =>
    let w (j : Nat) : Nat := s.engNum ctx (base + 32 * i + 8 * j) 8
    if w 0 / 2 ^ 19 ≤ page && page ≤ w 1 / 2 ^ 19 then some (w 2, w 3) else none

/-- The reads of a context's hint records by an engine (R164, R174). -/
def State.hintPass (s : State) (ctx : Nat) : State :=
  (List.range (look s.io.hintCount ctx 0)).foldl (fun s i => s.engPass ctx ((look s.io.hintBase ctx 0).toNat + 32 * i)) s

/-- A load from another die of a mostly unwritten page leaves a read replica there, a copy of the page's home memory (R168): it
is filled only while the home yard holds no entry of the page. -/
def State.replicate (s : State) (core ctx va : Nat) : State :=
  let page := va % 2 ^ 57 / 4096
  let home := (s.route ctx va).home
  let d := dieOf core
  let lo := keyOf ctx (page * 4096)
  match s.hint ctx va with
  | some (w2, _) =>
    if w2 / 2 ^ 50 % 2 = 1 && d != home && (s.replicaAt core ctx va).isNone && !(s.dieAt home).isFrozen ctx va
        && !((s.dieAt home).all.any fun e => lo ≤ e.key.toNat && e.key.toNat < lo + 1024) then
      match s.walk ctx (page * 4096) .rd with
      | .ok pa leaf _ _ =>
        let s := (List.range 64).foldl (fun s i => s.passSector (pa / 64 + i) .engine) s
        let r : Replica := ⟨ctx, page, s.readLeaf leaf pa 4096, (List.range 1024).filter fun i => s.poisoned (pa + 4 * i)⟩
        s.modDie d fun x => { x with replicas := x.replicas ++ [r] }
      | _ => s
    else s
  | none => s

/-- Keys that a load marks (R118). -/
def keysAt (ctx : Nat) (l : List Nat) : List Nat := l.flatMap fun a => [keyOf ctx a, keyOf ctx (a + 4)]

end Sys2Proof.Machine
end

