-- ==== Sys2Proof/Machine/Pool.lean ====
section
/-! DEFINITION. Continuation records and the ready pool (R42, R53 to R58), completion counters (R48 to R52), counter
watches (R30), and the release of a page's wait list (R166, R167). -/

namespace Sys2Proof.Machine

/-- Queue record `q` (R53). -/
def State.queue (s : State) (q : Nat) : Queue := look s.io.queues q Queue.reset
/-- Updates a queue record. -/
def State.modQueue (s : State) (q : Nat) (f : Queue → Queue) : State :=
  s.modIo fun io => { io with queues := put io.queues q (f (look io.queues q Queue.reset)) }

/-- The pool run is full (R56). -/
def Io.poolFull (io : Io) : Bool := 262144 ≤ io.pool.length

/-- A queue's depth limit; 0 acts as 1 (R53). -/
def Queue.limit (q : Queue) : Nat := max q.dmax.toNat 1

/-- A queue has no place for an insert (R54). -/
def State.noRoom (s : State) (q : Nat) : Bool := (s.queue q).limit ≤ (s.queue q).depth || s.io.poolFull

/-- The pool with a record placed by its key (R56). -/
def poolInsert (e : PoolEntry) : List PoolEntry → List PoolEntry
  | [] => [e]
  | x :: l => if e.key.toNat < x.key.toNat then e :: x :: l else x :: poolInsert e l

/-- The key of R54. -/
def poolKey (prio round q nseq : Nat) : Word := BitVec.ofNat 64 (prio * 2 ^ 56 + round * 2 ^ 40 + q * 2 ^ 28 + nseq)

/-- Keys a record and places it in the pool run (R54); a second placement is marked with its core (R68). -/
def State.poolPlaceAs (s : State) (q : Nat) (r : Record) (again : Option Nat) : State :=
  let qr := s.queue q
  let round := min (max (qr.last + 1) (look s.io.curRound qr.prio.toNat 0)) 0xFFFF
  let r := { r with ctx := qr.ctx, prio := qr.prio, queue := BitVec.ofNat 12 q }
  let e : PoolEntry := ⟨poolKey qr.prio.toNat round q qr.nseq.toNat, r, s.io.arrivals, false, again⟩
  (s.modQueue q fun x => { x with last := round, nseq := x.nseq + 1, depth := x.depth + 1 }).modIo fun io =>
    { io with pool := poolInsert e io.pool, arrivals := io.arrivals + 1 }

/-- Keys a record and places it in the pool run (R54). -/
def State.poolPlace (s : State) (q : Nat) (r : Record) : State := s.poolPlaceAs q r none

/-- Places a held insert: a returned record with its original key (R60), any other with a new one (R54). -/
def State.poolEnter (s : State) (h : HeldIns) : State :=
  match h.key with
  | none => s.poolPlaceAs h.queue h.cr h.again
  | some key =>
    (s.modQueue h.queue fun x => { x with depth := x.depth + 1 }).modIo fun io =>
      { io with pool := poolInsert ⟨key, h.cr, io.arrivals, false, h.again⟩ io.pool, arrivals := io.arrivals + 1 }

/-- A refused insert is counted in DROPS (R54). -/
def State.dropInsert (s : State) (q : Nat) : State :=
  s.modQueue q fun x => { x with drops := BitVec.ofNat 16 (min (x.drops.toNat + 1) 0xFFFF) }

/-- R54's first two tests: the queue is valid and belongs to the inserter's context. -/
def State.queueOk (s : State) (q ctx : Nat) : Bool := (s.queue q).v && (s.queue q).ctx.toNat == ctx

/-- The context is being torn down, or has been and is not active again (R69, R157). -/
def State.torn (s : State) (ctx : Nat) : Bool := s.io.teardown.contains ctx

/-- A unit's end on its launch counter (R50, R52). -/
def State.unitEnd (s : State) (r : Record) (act : CtrAct) : State :=
  if s.torn r.ctx.toNat then s else s.push [.counterOperation ⟨r.ctx, r.launch, act, r.node, r.queue⟩]

/-- Faults counted on a launch, without the end of a unit. -/
def State.launchFaults (s : State) (ctx : BitVec 9) (launch : BitVec 32) (n : Nat) : State :=
  if s.torn ctx.toNat then s else s.push [.counterOperation ⟨ctx, launch, .faults n, noNode, 0⟩]

/-- A held insert (R45, R54): it ends its unit where the queue refuses it, and waits for depth and place, in arrival order of its
queue. -/
def State.insertAs (s : State) (h : HeldIns) : State :=
  let q := h.queue
  if s.torn h.cr.ctx.toNat then s
  else if !s.queueOk q h.cr.ctx.toNat then s.unitEnd h.cr (.ended false)
  else if s.noRoom q || s.io.held.any (·.queue == q) then s.modIo fun io => { io with held := io.held ++ [h] }
  else s.poolEnter h

/-- A held insert of a record that has run (R45, R54). -/
def State.insertHeld (s : State) (r : Record) : State := s.insertAs ⟨r.queue.toNat, r, none, none⟩

/-- What room in a queue brings about: its oldest held insert enters (R54). -/
def State.queueRoom (s : State) (q : Nat) : State :=
  if s.io.held.any (·.queue == q) && !s.noRoom q then s.push [.heldInsertEntry q] else s

/-- Counter `k` of a context exists (R48). -/
def State.ctrExists (s : State) (ctx k : Nat) : Bool := k < (look s.io.ctabLen ctx 0).toNat

/-- Address of a counter entry (R48). -/
def State.ctrAt (s : State) (ctx k : Nat) : Nat := (look s.io.ctabBase ctx 0).toNat + 16 * k

/-- A counter entry (R48). -/
structure Ctr where
  target : BitVec 32
  count : BitVec 32
  can : Bool
  cancels : Nat
  faults : Nat
  parent : Nat
  deriving DecidableEq, Repr

/-- An entry from its 128 bits. -/
def ctrOf (v : Nat) : Ctr where
  target := BitVec.ofNat 32 (bitsOf v 96 32)
  count := BitVec.ofNat 32 (bitsOf v 64 32)
  can := bitsOf v 63 1 = 1
  cancels := bitsOf v 48 15
  faults := bitsOf v 32 16
  parent := bitsOf v 0 32

/-- The 128 bits of an entry. -/
def ctrNum (c : Ctr) : Nat :=
  c.target.toNat * 2 ^ 96 + c.count.toNat * 2 ^ 64 + c.can.toNat * 2 ^ 63 + c.cancels * 2 ^ 48 + c.faults * 2 ^ 32
    + c.parent

/-- The page of a counter entry can be read by an engine of the part. -/
def State.ctrSeen (s : State) (ctx k : Nat) : Bool :=
  (s.engDw ctx (s.ctrAt ctx k)).isSome && (s.engDw ctx (s.ctrAt ctx k + 8)).isSome

/-- Reads a counter entry at its home; one whose page cannot be read counts nothing and has no parent. -/
def State.readCtr (s : State) (ctx k : Nat) : Ctr :=
  if s.ctrSeen ctx k then ctrOf (s.engNum ctx (s.ctrAt ctx k) 8 + 2 ^ 64 * s.engNum ctx (s.ctrAt ctx k + 8) 8)
  else ctrOf 0xFFFFFFFF

/-- A record's launch is cancelled: CAN in its launch counter or in one of the next four up its PARENT chain (R51). -/
def State.cancelledFrom (s : State) (ctx : Nat) : Nat → Nat → Bool
  | _, 0 => false
  | k, n + 1 =>
    s.ctrExists ctx k && ((s.readCtr ctx k).can || s.cancelledFrom ctx (s.readCtr ctx k).parent n)

/-- A record or unit of a launch is cancelled (R51). -/
def State.cancelled (s : State) (r : Record) : Bool := s.cancelledFrom r.ctx.toNat r.launch.toNat 5

/-- Saturating fields of a counter (R48). -/
def Ctr.add (c : Ctr) (count faults cancels : Nat) : Ctr :=
  { c with
    count := c.count + BitVec.ofNat 32 count
    faults := min (c.faults + faults) 0xFFFF
    cancels := min (c.cancels + cancels) 0x7FFF }

/-- What an operation makes of a counter entry (R49 to R52). -/
def ctrStep (a : CtrAct) (c : Ctr) : Ctr :=
  match a with
  | .add n t => { c with count := c.count + n, target := c.target + t }
  | .done => c.add 1 0 0
  | .ended true => c.add 1 0 1
  | .ended false => c.add 1 1 0
  | .target => { c with target := c.target + 1 }
  | .faults n => c.add 0 n 0
  | .cancels => c.add 0 0 1
  | .counted n f => c.add n f 0
  | .cancel => { c with can := true }
  | .propagate f k => c.add 1 f k
  | .wait _ => c
  | .ready u => { c with count := 0, target := u, can := false, faults := 0, cancels := 0 }

/-- The watch condition holds of a counter (R30). -/
def watchDue (c : Ctr) : Bool := c.count == c.target || c.can

/-- Watch `n` is armed, and its condition holds; with CAN as it then stands (R30). -/
def State.watchHolds (s : State) (n : Nat) : Option Bool :=
  let w := look s.io.watch n 0
  let ctx := bitsOf w.toNat 32 9
  let k := bitsOf w.toNat 0 32
  if w.getLsbD 63 && s.ctrExists ctx k && s.ctrSeen ctx k && watchDue (s.readCtr ctx k) then some (s.readCtr ctx k).can else none

/-- Watch `n` fires, if it is armed (R30). -/
def State.fireAs (s : State) (n : Nat) (can : Bool) : State :=
  let w := look s.io.watch n 0
  if !w.getLsbD 63 then s
  else
    let v := bitsOf w.toNat 64 11 * 2 ^ 64 + 2 ^ 62 + can.toNat * 2 ^ 61 + bitsOf w.toNat 32 9 * 2 ^ 32 + bitsOf w.toNat 0 32
    (s.modIo fun io => { io with watch := put io.watch n (BitVec.ofNat 128 v) }).sendMsi (bitsOf w.toNat 64 11)

/-- Fires watch `n` if it is armed and its counter is complete or cancelled (R30). -/
def State.fireWatch (s : State) (n : Nat) : State :=
  match s.watchHolds n with
  | some can => s.fireAs n can
  | none => s

/-- A change of a counter evaluates its watches: one whose condition holds fires at the cycle's end, unless EN is written to 0
in this cycle (R30). -/
def State.watchCtr (s : State) (ctx k : Nat) : State :=
  (s.io.watch.filter fun (_, w) => bitsOf w.toNat 32 9 == ctx && bitsOf w.toNat 0 32 == k).foldl
    (fun s (n, _) =>
      match s.watchHolds n with
      | some can =>
        if (find? s.io.watchDue n).isSome then s else s.modIo fun io => { io with watchDue := put io.watchDue n can }
      | none => s) s

/-- The watches that changes of this cycle fire (R30). -/
def State.watchEnd (s : State) : State :=
  s.io.watchDue.foldl (fun s (n, can) => s.fireAs n can) (s.modIo fun io => { io with watchDue := [] })

/-- Wakes the waits parked on a counter (R45): re-inserted, or discarded and counted if cancelled. -/
def State.wakeWaits (s : State) (ctx k : Nat) : State :=
  let due := s.io.waitRecs.filter fun (c, i, _) => c == ctx && i == k
  let s := s.modIo fun io => { io with waitRecs := io.waitRecs.filter fun (c, i, _) => !(c == ctx && i == k) }
  due.foldl (fun s (_, _, r) => if s.cancelled r then s.unitEnd r (.ended true) else s.insertHeld r) s

/-- Node completion (R52): PRED of each successor is reduced, in list order; one that reaches 0 becomes ready. -/
def State.nodeDone (s : State) (op : CtrOp) : State :=
  let base := (s.queue op.queue.toNat).ntab.toNat
  let at' := base + 32 * op.node.toNat
  let s := s.needPhys at' 32
  let n := s.phys (at' + 2) 2
  let list := s.phys (at' + 8) 8 % 2 ^ 52
  (List.range n).foldl (fun s i =>
    let s := s.needPhys (list + 4 * i) 4
    let succ := s.phys (list + 4 * i) 4
    let e := base + 32 * succ
    let s := s.needPhys e 32
    let pred := s.phys (e + 4) 4
    if pred = 0 then s
    else
      let s := s.writePhysNum (e + 4) 4 (pred - 1)
      if pred = 1 then
        s.push [.counterOperation ⟨op.ctx, BitVec.ofNat 32 (s.phys (e + 24) 4), .ready (BitVec.ofNat 32 (s.phys (e + 28) 4)),
          BitVec.ofNat 20 succ, op.queue⟩]
      else s) s

/-- The template copies of a node that has become ready wait for their inserts, one in a cycle (R52). -/
def State.nodeReady (s : State) (op : CtrOp) (units : Nat) : State :=
  let e := (s.queue op.queue.toNat).ntab.toNat + 32 * op.node.toNat
  let tmpl := s.phys (e + 16) 8 % 2 ^ 52
  let s := s.needPhys tmpl 64
  let r := recordOf (s.phys tmpl 64)
  let t := { r with ctx := op.ctx, node := op.node, launch := op.index }
  s.modIo fun io => { io with nodeReady := io.nodeReady ++ [(t.queue.toNat, t, 0, units)] }

/-- The closes of a deferred phase whose counter has propagated (R116); they come before a rep that enters in the same cycle
(R132). -/
def State.closePhase (s : State) (ctx k : Nat) : State :=
  let d := look s.io.dph ctx 0
  if d.getLsbD 63 && bitsOf d.toNat 0 32 == k then
    s.pushFront ((List.range 4).map fun die => .deferredPhaseClose die ctx)
  else s

/-- The clusters that hear a cancel: those that hold records or run units (R51). -/
def State.cancelEvents (s : State) (ctx k : Nat) : List Ev :=
  let busy := s.cores.filterMap fun (n, c) => if c.slots.isEmpty then none else some (clusterOf n)
  let held := s.clusters.filterMap fun (n, c) => if c.manger.isEmpty then none else some n
  ((busy ++ held).foldl (fun l n => insertNat n l) []).map fun cl => .mangerCancel cl ctx k

/-- A counter operation at its home (R49): the change, and, where it makes COUNT equal TARGET by changing one of them, the
propagation to the parent, the node completion, the waits and the watches, all in one step. A cancel that a job counts goes
up to the top of the PARENT chain first (R63). The first operation is parked or discarded where its page fails (R48), and held while the page is frozen or a 257th one (R166, R170). -/
def State.counterOp : Nat → CtrOp → State → State
  | 0, _, s => s
  | fuel + 1, op, s =>
    let ctx := op.ctx.toNat
    let k := op.index.toNat
    if !s.ctrExists ctx k then
      match op.act with
      | .ready u => s.nodeReady op u.toNat
      | _ => s
    else
      let va := s.ctrAt ctx k
      let die := (s.route ctx va).home
      let (s, r) := s.xlate die ctx va .wr
      let e := repGranule ctx va 0
      if (s.dieAt die).isFrozen ctx va then s.defer (.counterOperation op) else
      match r with
      | .absent lvl v _ =>
        if !s.waitRoom die ctx va then s.defer (.counterOperation op) else
        s.waitOn die ctx va [.counter op] (supWord 1 1 1 lvl die noTask) (bitsOf v.toNat 0 64)
      | .refused c lvl v => (s.postRefused c 1 lvl die noTask ctx va v).postUnit e 3 5 0 0
      | .ok _ _ _ _ =>
        let c := s.readCtr ctx k
        if op.act == .cancels && s.ctrExists ctx c.parent then
          State.counterOp fuel { op with index := BitVec.ofNat 32 c.parent } s
        else
        let c' := ctrStep op.act c
        let s := if c' == c then s else s.engStore ctx va (ctrNum c') 4
        let changed := c'.count != c.count || c'.target != c.target
        let reach := changed && c'.count == c'.target
        let s := match op.act with
          | .wait r =>
            if c.count == c.target then
              (if s.cancelled r then s.unitEnd r (.ended true) else s.insertHeld r)
            else s.modIo fun io => { io with waitRecs := io.waitRecs ++ [(ctx, k, r)] }
          | .ready u => s.nodeReady op u.toNat
          | .cancel =>
            let s := s.push (s.cancelEvents ctx k)
            s.modIo fun io =>
              { io with pool := io.pool.map fun p => if s.cancelled p.cr then { p with cancelSeen := true } else p }
          | _ => s
        let s := if reach then
            let s := if c'.parent = 0xFFFFFFFF then s
              else State.counterOp fuel ⟨op.ctx, BitVec.ofNat 32 c'.parent, .propagate c'.faults c'.cancels, noNode, 0⟩ s
            let s := if op.node != noNode then s.nodeDone op else s
            (s.wakeWaits ctx k).closePhase ctx k
          else s
        s.watchCtr ctx k

/-- The longest chain of counters that one operation can propagate through. -/
def ctrFuel : Nat := 2 ^ 32

/-- A doubleword as a memory window or a get reads it (R31, R326): home memory combined with the committed entries of the
home yard, and whether the sector's error was uncorrectable (R175). -/
def State.windowDw (s : State) (ctx va : Nat) (c : Consumer) : State × Except LoadMiss (Dw × Bool) :=
  let die := (s.route ctx va).home
  if (s.dieAt die).isFrozen ctx va then (s, .error ⟨die, ctx, va, .absent 0 0 0, true⟩) else
  let (s, r) := s.xlate die ctx va .rd
  match r with
  | .ok pa leaf _ _ =>
    let (s, lost) := s.sectorRead (pa / 64) c
    (s, .ok (combineLevels (s.homeDw leaf pa) (s.homeLevels die (keyOf ctx va) []), lost))
  | r => (s, .error ⟨die, ctx, va, r, false⟩)

/-- Bytes as a window reads them: the doublewords with whether any was lost, or the first miss. -/
def State.windowDws (s : State) (ctx : Nat) (l : List Nat) (c : Consumer) :
    State × Except LoadMiss (List (Nat × Dw) × Bool) :=
  l.foldl (fun (s, r) a =>
    match r with
    | .error m => (s, .error m)
    | .ok (ds, lost) =>
      match s.windowDw ctx a c with
      | (s, .ok (d, x)) => (s, .ok (ds ++ [(a, d)], lost || x))
      | (s, .error m) => (s, .error m)) (s, .ok ([], false))

/-- The body of a get request (R22, log 30): reference, offset, bytes of a row (the scale of an index), rows, base, the bytes
of an index, and the indices. -/
def getBody (ref : Word) (off rowb base : Nat) (idx : List Nat) : List Byte :=
  leBytes 8 ref.toNat ++ leBytes 4 off ++ leBytes 2 rowb ++ leBytes 2 idx.length ++ leBytes 8 base ++ leBytes 4 4
    ++ idx.flatMap (leBytes 4)

/-- The indices of a get request's body. -/
def getIndices (body : List Byte) : List Nat :=
  let w := bodyNum body 24 4
  (List.range (bodyNum body 14 2)).map fun i => bodyNum body (28 + w * i) w

/-- A get request of a part waits for a page: its later requests stand behind it. -/
def State.getWaits (s : State) (src : BitVec 10) : Option (Nat × WaitList) :=
  (List.range 4).findSome? fun die =>
    ((s.dieAt die).waits.find? fun w => w.items.any fun
      | .get p _ => p == src
      | _ => false).map fun w => (die, w)

/-- Serves the rows of a get request in order (R23, R163, R326, R369): a row is sent as it is read; one whose page is not
resident waits with the rest of the request, as does one of a frozen or a 257th page (R166, R170); a refused or poisoned row returns zeros through a negative
acknowledgement (log 35). -/
def State.serveRows (s : State) (src : BitVec 10) (ref : Word) (off rowb base : Nat) : List Nat → State
  | [] => s
  | i :: rest =>
    let ctx := bitsOf ref.toNat 32 9
    let va := (base + i * rowb) % 2 ^ 57
    let (s, r) := s.windowDws ctx ((List.range (rowb / 4)).map fun j => (va + 4 * j) % 2 ^ 57 / 8 * 8).eraseDups .get
    let granules := (List.range (rowb / 4)).map fun j => (va + 4 * j) % 2 ^ 57
    match r with
    | .ok (ds, lost) =>
      let gs := granules.map fun a => dwNum ds a 4
      let s := if lost || gs.any Prod.snd then s.sendTo src 3 4 (nackBody ref .cancelled s.io.partNo 0)
        else s.sendTo src 3 1 (gs.flatMap fun g => leBytes 4 g.1)
      s.serveRows src ref off rowb base rest
    | .error m =>
      match m.tr with
      | .absent lvl v _ =>
        if m.held || !s.waitRoom m.die m.ctx m.va then
          s.defer (.getRequestServe src (getBody ref off rowb base (i :: rest)))
        else s.waitOn m.die ctx m.va [.get src (getBody ref off rowb base (i :: rest))] (supWord 1 1 3 lvl m.die noTask)
          (bitsOf v.toNat 0 64)
      | .refused c lvl v =>
        ((s.postRefused c 3 lvl m.die noTask ctx m.va v).sendTo src 3 4 (nackBody ref .cancelled s.io.partNo 0)).serveRows src ref off rowb base rest
      | .ok _ _ _ _ => s

/-- A get request of a part is tried again in the next cycle. -/
def State.getLater (s : State) (src : BitVec 10) : Bool := s.later.any fun
  | .getRequestServe p _ => p == src
  | _ => false

/-- Serves a get request, or lets it stand behind one of its part that waits for a page (R163, R166). -/
def State.serveGet (s : State) (src : BitVec 10) (body : List Byte) : State :=
  match s.getWaits src with
  | some (die, w) => s.waitOn die w.ctx (w.page * 4096) [.get src body] 0 0
  | none =>
    if s.getLater src then s.defer (.getRequestServe src body) else
    s.serveRows src (BitVec.ofNat 64 (bodyNum body 0 8)) (bodyNum body 8 4) (bodyNum body 12 2) (bodyNum body 16 8)
      (getIndices body)

/-- What waits for a page at each die, taken off its list (R166). -/
def State.takeWaits (s : State) (ctx va : Nat) : State × List (Nat × Waiter) :=
  ((List.range 4).foldl (fun s die => s.dropWait die ctx va) s,
    (List.range 4).flatMap fun die => ((s.dieAt die).waits.filter (·.isPage ctx va)).flatMap fun l => l.items.map fun w => (die, w))

/-- A waiting item goes on (R166). -/
def State.releaseItem (s : State) (die : Nat) (w : Waiter) : State :=
  match w with
  | .entry e acc at' => if at' then s.applyEntry die e else s.yardTake die e acc
  | .thread core slot =>
    let t := s.thr core slot
    match t.commit with
    | .held _ _ _ => (s.modThr core slot fun t => { t with commit := .preparing }).push [.commitPrepare core slot]
    | _ =>
      match t.wait with
      | .page _ _ _ => s.modThr core slot fun t => { t with wait := .none }
      | _ => s
  | .pipe core slot =>
    s.modThr core slot fun t =>
      { t with inflight := t.inflight.map fun i => if i.phase = 1 then { i with phase := 2 } else i }
  | .record r => if s.cancelled r then s.unitEnd r (.ended true) else s.insertHeld r
  | .counter op => s.push [.counterOperation op]
  | .get src body => s.serveGet src body
  | .channel core c => s.push [.copyBlockDelivery core c]
  | .post c words => s.postMergeWords c words

/-- A page becomes resident (R166): its list is released in arrival order. An item that fails again waits anew. -/
def State.releasePage (s : State) (ctx va : Nat) : State :=
  let (s, items) := s.takeWaits ctx va
  items.foldl (fun s (die, w) => s.releaseItem die w) s

/-- Applies the entries marked for an apply point whose page has become resident (R115). -/
def State.applyMarked (s : State) (ctx va : Nat) : State :=
  let lo := keyOf ctx (va / 4096 * 4096)
  (List.range 4).foldl (fun s die =>
    ((s.dieAt die).dset.filter fun e => e.mark && lo ≤ e.key.toNat && e.key.toNat < lo + 1024).foldl
      (fun s e => s.applyFx die e) s) s

end Sys2Proof.Machine
end

