-- ==== Sys2Proof/Machine/Units.lean ====
section
/-! DEFINITION. Units on barrel slots: the start of a record (R43, R61), task tokens (R101), resume records (R44), commit
points and releases (R117, R122, R142), aborts (R46, R123) and the end of a unit. -/

namespace Sys2Proof.Machine

/-- The argument words of a record, x1..x5 (R43). -/
def recordArgs (r : Record) : List Word := [r.arg1, r.arg2, r.arg3, r.arg4, r.arg5]

/-- A record with other argument words. -/
def withArgs (r : Record) (a : List Word) : Record :=
  { r with arg1 := a.getD 0 0, arg2 := a.getD 1 0, arg3 := a.getD 2 0, arg4 := a.getD 3 0, arg5 := a.getD 4 0 }

/-- Drops the read-cache lines of a context in a core: of ORD 0 keys, or of every kind (R143, R145); a load on its way
does not keep its line (R156). -/
def State.dropLines (s : State) (core ctx : Nat) (all : Bool) : State :=
  let gone (n : Nat) : Bool :=
    n / 2 ^ 51 == ctx && (all || (s.route ctx (n % 2 ^ 51 * 64)).ord == 0)
  s.modCore core fun c =>
    { c with
      rcache := c.rcache.filter fun (n, _) => !gone n
      threads := c.threads.map fun (k, t) =>
        (k, { t with loads := t.loads.map fun l => { l with fills := l.fills.filter fun (n, _) => !gone n } }) }

/-- Drops a core's copies of code and of control blocks of a context (R150, R230). -/
def State.dropControl (s : State) (core ctx : Nat) : State :=
  s.modCore core fun c =>
    { c with
      icache := c.icache.filter fun (n, _) => n / 2 ^ 52 != ctx
      ctl := c.ctl.filter fun (n, _) => n / 2 ^ 51 != ctx }

/-- The acquire of a unit's start: of device scope and all kinds (R145). -/
def State.acquireStart (s : State) (core ctx : Nat) : State := (s.dropLines core ctx true).dropControl core ctx

/-- Writes the registers that a record gives its unit (R43). -/
def Core.writeArgs (c : Core) (t : Thread) (r : Record) : Core :=
  let vals := recordArgs r ++ [r.vui.setWidth 64,
    BitVec.ofNat 64 (r.ctx.toNat * 2 ^ 32 + r.launch.toNat)]
  (vals.zipIdx).foldl (fun c (v, i) => c.writeX t (i + 1) v) c

/-- A new task of a slot (R44, R101). -/
def State.newTask (s : State) (n k : Nat) : State := s.nextTask n k

/-- Notes the launch and first task of a slot's unit; the last eight are kept (R129). -/
def State.noteUnit (s : State) (n k : Nat) (r : Record) : State :=
  s.modCore n fun c =>
    let own := c.hist.filter (·.1 == k)
    let rest := c.hist.filter (·.1 != k)
    { c with hist := ((k, r.launch.toNat, (look c.serial k 0).toNat) :: own).take 8 ++ rest }

/-- The supervisor is the software of context slot 0 (R332). -/
def supOf (r : Record) : Bool := r.ctx == 0

/-- A record as its unit holds it: a new unit takes an identity; one that goes on keeps its own (R44, R46). -/
def Record.owned (r : Record) (id : Nat) : Record := if r.owner = 0 then { r with owner := id + 1 } else r

/-- A record starts a unit on a slot and window (R43); the start is an acquire of device scope of all kinds (R145). -/
def State.startUnit (s : State) (n k xbase : Nat) (r : Record) : State :=
  let id := s.ids
  let r := Record.owned r id
  let s := ({ s with ids := s.ids + 1 } : State).newTask n k
  let t : Thread :=
    { Thread.reset with
      status := .running, unit := id, cr := r, resume := r, pc := r.pc, xbase := BitVec.ofNat 10 xbase
      xcount := r.xcount, sup := supOf r }
  let s := s.modThr n k fun _ => t
  let s := s.modCore n fun c =>
    let c := { c with rf := c.rf.filter fun (i, _) => !(xbase ≤ i && i < xbase + r.xcount.toNat) }
    c.writeArgs t r
  (s.noteUnit n k r).acquireStart n r.ctx.toNat

/-- A record is delivered to a thread parked in `wfw`: only pc, x1..x7 and XCOUNT are written (R43, R62). -/
def State.restartUnit (s : State) (n k : Nat) (r : Record) : State :=
  let id := s.ids
  let r := Record.owned r id
  let s := ({ s with ids := s.ids + 1 } : State).newTask n k
  let s := s.modThr n k fun t =>
    { t with
      status := .running, wait := .none, blocked := none, unit := id, cr := r, resume := r, pc := r.pc
      xcount := r.xcount, cancelled := false, pin := false }
  let s := s.modCore n fun c => c.writeArgs (look c.threads k Thread.reset) r
  (s.noteUnit n k r).acquireStart n r.ctx.toNat

/-- A contiguous free window of a core's register file that starts at a multiple of 8: the lowest (R59, R61). -/
def Core.freeWindow (c : Core) (xcount : Nat) : Option Nat :=
  let used := c.slots.map fun (_, t) => (t.xbase.toNat, t.xcount.toNat)
  ((List.range 128).map (8 * ·)).find? fun b =>
    b + xcount ≤ 1024 && used.all fun (u, n) => b + xcount ≤ u || u + n ≤ b

/-- The lowest free slot of a core. -/
def Core.freeSlot (c : Core) : Option Nat := (List.range 16).find? fun k => (look c.threads k Thread.reset).status == .free

/-- The lowest `wfw` slot whose context and XCOUNT equal the record's (R61). -/
def Core.wfwSlot (c : Core) (r : Record) : Option Nat :=
  if r.pin then none else
  (c.threads.find? fun (_, t) => t.status == .wfw && t.cr.ctx == r.ctx && t.xcount == r.xcount).map Prod.fst

/-- A core has a slot and window for a record (R59, R61). -/
def Core.canTake (c : Core) (r : Record) : Bool :=
  (c.wfwSlot r).isSome || (c.freeSlot.isSome && (c.freeWindow r.xcount.toNat).isSome)

/-- Grants a slot to a record (R61). The slot taken, if there is one. -/
def State.grant (s : State) (n : Nat) (r : Record) : State × Option Nat :=
  let c := s.coreAt n
  match c.wfwSlot r with
  | some k => (s.restartUnit n k r, some k)
  | none =>
    match c.freeSlot, c.freeWindow r.xcount.toNat with
    | some k, some b => (s.startUnit n k b r, some k)
    | _, _ => (s, none)

/-- Frees a slot's long context: the w contents are lost and a waiting request is granted (R80). -/
def State.freeLong (s : State) (n k : Nat) : State :=
  let cl := clusterOf n
  let t := s.thr n k
  let s := s.modCluster cl fun c => { c with longQ := c.longQ.filter (· != (n, k)) }
  if !t.long && t.lgrant.isNone then s
  else
    let s := s.modThr n k fun t => { t with long := false, lctx := 0, lgrant := none, shortDue := false }
    let s := s.modCluster cl fun c => { c with longOwner := c.longOwner.filter fun (_, o) => o != (n, k) }
    if (s.clusterAt cl).longQ.isEmpty then s else s.push [.longContextGrant cl]

/-- Withdraws a slot's arrivals from barrier generations that have not opened (R272). -/
def withdraw (core slot : Nat) (l : List Gen) : List Gen :=
  (l.map fun g => { g with arrivals := g.arrivals.filter fun a => !(a.core == core && a.slot == slot) }).filter
    fun g => !g.arrivals.isEmpty

/-- Withdraws a slot's arrivals at every barrier point (R272). -/
def State.withdrawBar (s : State) (n k : Nat) : State :=
  match (s.thr n k).barAt with
  | none => s
  | some (p, _) =>
    let s := s.modThr n k fun t => { t with barAt := none }
    match p with
    | .core c => s.modCore c fun x => { x with bars := withdraw n k x.bars }
    | .cluster c => s.modCluster c fun x => { x with bars := withdraw n k x.bars }
    | .die d => s.modDie d fun x => { x with bars := withdraw n k x.bars }
    | .device => s.modIo fun io => { io with bars := withdraw n k io.bars }

/-- A slot is free, with what its unit still held: a message held at the sender, a pending contribution, its waits for a
page (R62, R80, R95). -/
def State.freeSlot (s : State) (n k : Nat) : State :=
  let s := s.freeLong n k
  let s := s.modThr n k fun _ => Thread.reset
  let s := s.modCluster (clusterOf n) fun c =>
    { c with
      exch := (c.exch.map fun x => { x with parts := x.parts.filter fun (_, p) => !(p.core == n && p.slot == k) }).filter
        fun x => !x.parts.isEmpty }
  s.modCore n fun c =>
    { c with
      outbox := c.outbox.filter fun m => m.slot != k
      xpend := if c.xpend == some k then none else c.xpend
      mon := c.mon.map fun (i, m) => (i, { m with tsum := del m.tsum k }) }

/-- The last value that the group writes to a window register, or its value at the group's start (R44). -/
def State.argNow (s : State) (n k i : Nat) : Word :=
  let t := s.thr n k
  match (t.pend.reverse.find? fun w => w.dest == .x i) with
  | some w => ((w.val.getD 0).setWidth 64)
  | none => (s.coreAt n).readX t i

/-- Keeps the resume record of a commit point (R44). -/
def State.keepResume (s : State) (n k : Nat) (pc : BitVec 57) : State :=
  let a := [1, 2, 3, 4, 5].map (s.argNow n k)
  s.modThr n k fun t => { t with resume := { withArgs t.cr a with pc := pc } }

/-- The resume record takes a commit point's own result (R44). -/
def State.resumeResult (s : State) : State := s.keepResume s.cur.core s.cur.slot s.nextPc

/-- An instruction names a stream as a vector operand. -/
def namesStream (i : Instr) : Bool := i.vregs.any fun
  | .s _ => true
  | _ => false

/-- Every coprocessor instruction of the thread that names a stream has been dispatched (R319). -/
def Thread.streamsDone (t : Thread) : Bool := 
  t.copq.all (fun i => !namesStream i.instr) && t.inflight.all fun i => !namesStream i.instr || i.phase == 0

/-- A commit point's earlier accesses have been performed (R139, R141, R319): loads and the group's writes have returned,
SOS are acknowledged, streams have been accessed, and the commit before it is complete. -/
def Thread.settled (t : Thread) : Bool :=
  t.loads.isEmpty && t.sosOut == 0 && t.flip.isNone && t.pendDone && t.streamsDone && t.arRel.isNone

/-- A saturating sum in 128-bit two's complement, and whether it saturated (R97). -/
def satAdd (a b : BitVec 128) : BitVec 128 × Bool := fxSum a b

/-- A commit point adds TSUM of each monitor into SUM (R97, R122). -/
def State.commitSums (s : State) (n k : Nat) : State :=
  s.modCore n fun c =>
    { c with
      mon := c.mon.map fun (i, m) =>
        match find? m.tsum k with
        | none => (i, m)
        | some v =>
          let (sum, sat) := satAdd m.sum v
          (i, { m with sum := sum, tsum := del m.tsum k, cfg := if sat then m.cfg ||| BitVec.ofNat 256 (2 ^ 66) else m.cfg }) }

/-- A task abort zeroes TSUM (R97). -/
def State.zeroSums (s : State) (n k : Nat) : State :=
  s.modCore n fun c => { c with mon := c.mon.map fun (i, m) => (i, { m with tsum := del m.tsum k }) }

/-- Entries of a task in a waiter. -/
def Waiter.ofTask (w : Waiter) (t : BitVec 40) : Bool :=
  match w with
  | .entry e _ _ => e.tent && e.task == t
  | _ => false

/-- Every run and yard with a change made to the entries of each (R122, R123). -/
def State.mapRuns (s : State) (f : List Entry → List Entry) (g : List Entry → List Entry) : State :=
  { s with
    cores := s.cores.map fun (n, c) => (n, { c with stall := f c.stall })
    clusters := s.clusters.map fun (n, c) => (n, { c with shed := f c.shed })
    dies := s.dies.map fun (n, d) =>
      (n, { d with yard := f d.yard, dset := g d.dset, blocks := (d.blocks.map f).filter (!·.isEmpty) }) }

/-- Sheds try again to move the keys that wait, since chains of the yards may have shrunk (R106). -/
def State.retryMoves (s : State) : State :=
  s.push (s.clusters.flatMap fun (cl, c) => c.blocked.map fun k => .shedMoveRetry cl (BitVec.ofNat 64 k))

/-- Applies the entries that a release found behind a tentative one, where no tentative one is ahead any more (R117). -/
def State.applyHeld (s : State) : State :=
  (List.range 4).foldl (fun s die =>
    let d := s.dieAt die
    let due (e : Entry) : Bool := e.mark && !e.op.isFx
    (keysOf ((d.blocks.flatten ++ d.yard).filter due)).foldl (fun s key => s.applyKey die key due) s) s

/-- Discards every tentative entry of a task (R123); entries that a release left behind them are applied (R117). -/
def State.discardTask (s : State) (t : BitVec 40) : State :=
  let keep (l : List Entry) : List Entry := l.filter fun e => !(e.tent && e.task == t)
  let s := s.mapRuns keep keep
  ({ s with
    clusters := s.clusters.map fun (n, c) => (n, { c with dmask := del c.dmask t.toNat })
    dies := s.dies.map fun (n, d) =>
      (n, { d with
        waits := d.waits.map fun w => { w with items := w.items.filter fun x => !(Waiter.ofTask x t) }
        heldAt := d.heldAt.filter fun (e, _) => !(e.tent && e.task == t) }) } : State).applyHeld.retryMoves

/-- A deferred set with the entries of a task committed, each combined with the committed one of its key; with the entries that
then left the range, and what they met (R115, R122, R126). -/
def flipSet (mine : Entry → Bool) (l : List Entry) : List Entry × List (Entry × Entry) :=
  (l.filter mine).foldl (fun (set, bad) e =>
    let e := { e with tent := false }
    let (set, b) := dsetAdd set e
    (set, bad ++ b.toList.map fun old => (e, old))) (l.filter fun e => !mine e, [])

/-- Commits every entry of a task in every run (R122); a deferred set combines it with its committed entry, and a sum out of
range is recorded (R126). -/
def State.flipTask (s : State) (t : BitVec 40) : State :=
  let mine (e : Entry) : Bool := e.tent && e.task == t
  let flip (l : List Entry) : List Entry := mapIf mine (fun e => { e with tent := false }) l
  let bad := s.dies.flatMap fun (_, d) => (flipSet mine d.dset).2
  let s := s.mapRuns flip fun l => (flipSet mine l).1
  bad.foldl (fun s (e, old) => s.postRange e old 4) ({ s with
    dies := s.dies.map fun (n, d) =>
      (n, { d with
        waits := d.waits.map fun w =>
          { w with items := w.items.map fun
              | .entry e a b => .entry (if mine e then { e with tent := false } else e) a b
              | x => x }
        heldAt := d.heldAt.map fun (e, a) => (if mine e then { e with tent := false } else e, a) }) } : State)

/-- The tentative entries of a task whose pages its prepare asks about (R122): those in the runs, in the yards and at a yard's
input. One parked for its page has been asked about. -/
def State.entriesOf (s : State) (t : BitVec 40) : List Entry :=
  let mine (l : List Entry) : List Entry := l.filter fun e => e.tent && e.task == t
  (s.cores.flatMap fun (_, c) => mine c.stall) ++ (s.clusters.flatMap fun (_, c) => mine c.shed)
    ++ (s.dies.flatMap fun (_, d) => mine d.all ++ mine (d.heldAt.map Prod.fst))

/-- One address of each 4 KiB page of entries, with its context (R122). -/
def pagesOf (l : List Entry) : List (Nat × Nat) :=
  l.foldl (fun ps e =>
    let p := (e.ctx, e.va / 4096 * 4096)
    if ps.contains p then ps else ps ++ [p]) []

/-- Makes the current instruction wait for the resources of its commit (R141), then sends the prepare (R122). -/
def State.commitStart (s : State) : State :=
  if s.me.settled then
    let n := s.cur.core
    let k := s.cur.slot
    (((s.closeWindow n k).modMe fun t => { t with commit := .preparing }).push [.commitPrepare n k]).block .prepared 1
  else s.block .settled 0

/-- A release's moves out of stall and shed (R117, R142): the stall run wholly; of the shed, the chains that hold
committed entries of the unit; unordered keys only where `all` (R138, R144, R145). -/
def State.releaseMoves (s : State) (n k : Nat) (sc : Scope) (all : Bool) : State :=
  match sc with
  | .thread | .core => s
  | _ =>
    let s := (s.moveStallAll n).1.closeWindow n k
    if sc == .cluster then s
    else
      let cl := clusterOf n
      let u := (s.thr n k).cr.owner
      let due := (s.clusterAt cl).shed.filter fun e => !e.tent && e.units.contains u && (all || e.ord != 2)
      (keysOf due).foldl (fun s key => (s.moveShedKey cl key).1) s

/-- No message of a paired unit is held for the partner's hash (R179). -/
def Thread.forwarded (t : Thread) : Bool := t.window.isEmpty && t.closed.isEmpty

/-- A core's stall run is empty, and what a slot moved out of it has been forwarded. -/
def State.stallGone (s : State) (n k : Nat) : Bool := (s.coreAt n).stall.isEmpty && (s.thr n k).forwarded

/-- A unit's puts that have not been answered, of either copy of a pair (R142, R327). -/
def State.putsLeft (s : State) (n k : Nat) : Bool :=
  let us := (s.thr n k).cr.owner :: ((s.mateAt n k).map fun (m, j) => (s.thr m j).cr.owner).toList
  s.io.puts.any fun p => us.contains p.unit

/-- An entry of a waiter. -/
def Waiter.entry? : Waiter → Option Entry
  | .entry e _ _ => some e
  | _ => none

/-- The entries that have not entered a yard: held at its input, or parked for a page; with those that wait to be applied
(R104, R124, R170). -/
def Die.outside (d : Die) : List Entry := d.heldAt.map Prod.fst ++ d.waits.flatMap fun w => w.items.filterMap Waiter.entry?

/-- Committed entries of a unit stand in a stall or shed run, or before its home yard: of its core, or of one where an aborted
task of it ran (R44, R46, R117, R144). -/
def State.unitInRuns (s : State) (n k : Nat) (all : Bool) : Bool :=
  let u := (s.thr n k).cr.owner
  let on (e : Entry) : Bool := !e.tent && e.units.contains u && (all || e.ord != 2)
  s.cores.any (fun x => x.2.stall.any on) || s.clusters.any (fun x => x.2.shed.any on) || s.dies.any (fun x => x.2.outside.any on)
    || !(s.thr n k).forwarded

/-- The two bits that a core keeps of a task (R121): S, its stall run holds an entry of the task; C, its shed run does. -/
def State.taskS (s : State) (t : BitVec 40) : Bool := (s.coreAt (tokCore t)).stall.any fun e => e.tent && e.task == t
/-- See `taskS`. -/
def State.taskC (s : State) (t : BitVec 40) : Bool :=
  (s.clusterAt (clusterOf (tokCore t))).shed.any fun e => e.tent && e.task == t

/-- A commit that can no longer fail (R44, R97, R122): TSUM is added into SUM, the resume record kept, the next task begun
and the flip sent. -/
def State.commitDone (s : State) (n k : Nat) (pc : BitVec 57) : State :=
  let old := s.token n k
  let s := ((s.commitSums n k).keepResume n k pc).newTask n k
  (s.modThr n k fun t => { t with commit := .prepared, pin := false, flip := some old }).push [.commitFlip n k old]

/-- The commit of an instruction that acts between its prepare and its end: a thread that waits in it still stands in the
task before it (R51, R340). -/
def State.commitLast (s : State) : State :=
  (s.commitDone s.cur.core s.cur.slot s.nextPc).modMe fun t => { t with commit := .idle }

/-- A commit point of the current instruction: once its prepare has succeeded, `k` goes on. -/
def State.withCommit (s : State) (k : State → Host.Outcome State Fault Refusal) : Host.Outcome State Fault Refusal :=
  match s.phase with
  | 0 => .next s.commitStart
  | _ => k (s.modMe fun t => { t with commit := .idle })

/-- A release of the current instruction (R117, R142): the commit, its completion, the moves, and the application by the
yards, each waited for; then `k` goes on from phase 6. -/
def State.withRelease (s : State) (sc : Scope) (all : Bool) (k : State → Host.Outcome State Fault Refusal) :
    Host.Outcome State Fault Refusal :=
  let n := s.cur.core
  let sl := s.cur.slot
  let apply (s : State) : Host.Outcome State Fault Refusal :=
    let u := s.me.cr.owner
    .next ((s.modMe fun t => { t with applyOut := 4 }).push
      ((List.range 4).map fun d => .releaseApply d u n sl) |>.block .applied 5)
  let tail (s : State) : Host.Outcome State Fault Refusal :=
    if sc == .system && s.putsLeft n sl then .next (s.block .puts 5) else k s
  let moved (s : State) : Host.Outcome State Fault Refusal :=
    match sc with
    | .thread | .core => k s
    | .cluster => if s.stallGone n sl then k s else .next (s.block .stallEmpty 3)
    | .die => if s.unitInRuns n sl all then .next (s.block .shedClear 3) else k s
    | .device | .system => if s.unitInRuns n sl all then .next (s.block .shedClear 3) else apply s
  match s.phase with
  | 0 => .next s.commitStart
  | 1 => .next ((s.modMe fun t => { t with commit := .idle }).block .flipped 2)
  | 2 => moved (s.releaseMoves n sl sc all)
  | 3 => moved (s.releaseMoves n sl sc all)
  | 4 => apply s
  | 5 => tail s
  | _ => k s

/-- Pending late causes that a `bar`, `commit`, release or suspension delivers (R91, R129), MERGE_OP first. TEPC is `pc`. -/
def State.lateDue (s : State) (guard : Bool) (pc : BitVec 57) : Option TrapReq :=
  let t := s.me
  match t.mergePend with
  | some n => some ⟨.mergeOp, true, BitVec.ofNat 64 n, pc⟩
  | none =>
    if guard && t.guard.pending then
      some ⟨.guard, true, BitVec.ofNat 64 (t.guard.bank.toNat * 2 ^ 32 + t.guard.off.toNat), pc⟩
    else none

/-- A late cause that is due enters the handler; it is held while INTRAP = 1 (R182), and to the end of a group that the
instruction ends (R181). -/
def State.dueLate (s : State) (r : TrapReq) : State :=
  if s.me.intrap || s.me.wait == .parked then
    s.modMe fun t => { t with heldLate := if t.heldLate.contains r.cause then t.heldLate else t.heldLate ++ [r.cause] }
  else s.deliverLate s.cur.core s.cur.slot r

/-- After a commit point or release: a pending MERGE_OP is delivered after the instruction's effect (R129, R181). -/
def State.retireCommit (s : State) : State :=
  match s.lateDue false s.nextPc with
  | none => s.retire
  | some r => s.retire.dueLate r

/-- Ends a unit whose record goes (R50): the count on its launch. -/
def State.endUnit (s : State) (n k : Nat) (act : CtrAct) : State :=
  let r := (s.thr n k).cr
  (s.unitEnd r act)

/-- The common part of an abort (R46, R123): tentative entries are discarded in every run, sums zeroed, arrivals
withdrawn, and the slot freed. The resume record of the task's start is returned; with an acknowledgement still to come it
starts as another unit, which that acknowledgement does not reach (log 45). -/
def State.abortTask (s : State) (n k : Nat) : State × Record :=
  let t := s.thr n k
  let s := s.discardTask (s.token n k)
  let s := (s.zeroSums n k).withdrawBar n k
  (s.freeSlot n k, if t.sosOut = 0 then t.resume else { t.resume with owner := 0 })

/-- A resume record waits for a page (R46), or is re-inserted at once where the page waits no longer; in the cycle of the
page's refusal it is refused too (R183). -/
def State.recordWait (s : State) (die ctx va : Nat) (r : Record) : State :=
  if (s.dieAt die).waits.any (·.isPage ctx va) || s.refusedNow ctx va then s.waitOn die ctx va [.record r] 0 0
  else s.insertHeld r

/-- Phase in which the partner of a pair takes what the primary's operation answered (log 33). -/
def followPhase : Nat := 9

/-- The partner of a pair waits for an answer of the primary's operation. -/
def State.mateWaits (s : State) (t : Thread) : Bool :=
  match t.mate with
  | some (m, j) => (s.thr m j).wait == .reply && ((s.thr m j).blocked.any fun i => followPhase ≤ i.phase)
  | none => true

/-- An operation that a pair makes once: the partner waits for its answer, and the primary acts when the partner does
(log 33). -/
def State.lead (s : State) (k : State → State) : State :=
  let t := s.me
  if t.mate.isSome && !t.primary then (s.modMe fun t => { t with reply := none }).block .reply followPhase
  else if s.mateWaits t then k s
  else s.block .fenceTurn s.phase

/-- An answer reaches a thread, and its partner. -/
def State.answer (s : State) (n k : Nat) (v : Word) : State :=
  let m := s.mateAt n k
  let s := s.modThr n k fun t => { t with reply := some v }
  match m with
  | some (a, j) => s.modThr a j fun t => { t with reply := some v }
  | none => s

end Sys2Proof.Machine
end

