-- ==== Sys2Proof/Machine/Operands.lean ====
section
/-! DEFINITION. Operand values: typed scalar operands and results (R231), effective addresses (R250 to R252), local-store
protection and handle checks (R88, R90), vector registers and their lanes (R276, R277). -/

namespace Sys2Proof

/-- Opnd: bits [w-1:0] of a value read with the type's signedness (R231). -/
def Ty.opnd (ty : Ty) (v : Word) : Int :=
  if ty.isSigned then Machine.toSigned ty.width v.toNat else ((v.toNat % 2 ^ ty.width : Nat) : Int)

/-- Res: a result wrapped to the type's width and extended to 64 bits by its signedness (R231). -/
def Ty.res (ty : Ty) (t : Int) : Word :=
  let u := (t % 2 ^ ty.width).toNat
  if ty.isSigned then BitVec.ofInt 64 (Machine.toSigned ty.width u) else BitVec.ofNat 64 u

end Sys2Proof

namespace Sys2Proof.Machine

/-- A typed scalar instruction of two register sources (R231). -/
def State.alu (s : State) (ty : Ty) (f : Int → Int → Int) (a b c : XReg) : Host.Outcome State Fault Refusal :=
  .next (s.wx a (ty.res (f (ty.opnd (s.x b)) (ty.opnd (s.x c))))).retire

/-- A typed scalar instruction of a register and an immediate (R231). -/
def State.aluImm (s : State) (ty : Ty) (f : Int → Int → Int) (a b : XReg) (imm : Word) :
    Host.Outcome State Fault Refusal :=
  .next (s.wx a (ty.res (f (ty.opnd (s.x b)) (ty.opnd imm)))).retire

/-- A typed scalar instruction of one source (R231). -/
def State.alu1 (s : State) (ty : Ty) (f : Int → Int) (a b : XReg) : Host.Outcome State Fault Refusal :=
  .next (s.wx a (ty.res (f (ty.opnd (s.x b))))).retire

/-- A bitwise instruction: on the bits of both sources within the width (R233). -/
def State.logic (s : State) (ty : Ty) (f : Nat → Nat → Nat) (a : XReg) (x y : Word) : Host.Outcome State Fault Refusal :=
  let m := 2 ^ ty.width
  .next (s.wx a (ty.res ((f (x.toNat % m) (y.toNat % m) : Nat) : Int))).retire

/-- Shifts and rotations: `f` of the width, the source bits and the amount, which is taken modulo the width (R233). -/
def State.shift (s : State) (ty : Ty) (f : Nat → Nat → Nat → Int) (a : XReg) (x y : Word) :
    Host.Outcome State Fault Refusal :=
  let w := ty.width
  .next (s.wx a (ty.res (f w (x.toNat % 2 ^ w) (y.toNat % 2 ^ w % w)))).retire

/-- A compare of two values read by their type (R236). -/
def State.cmp (s : State) (ty : Ty) (f : Int → Int → Bool) (a : PReg) (x y : Word) : Host.Outcome State Fault Refusal :=
  .next (s.wp a (f (ty.opnd x) (ty.opnd y))).retire

/-- Sticky flags are raised (R205): in a pipe at once; by an instruction of the core path at its group's end, since `mfts` reads
FLAGS as the group's start left them (R245). -/
def State.orFlagsOf (s : State) (n k : Nat) (f : Flags) : State :=
  s.modThr n k fun t => if s.cur.iss.pipe then { t with flags := t.flags ||| f } else { t with grpFlags := t.grpFlags ||| f }

/-- Sticky flags of the current instruction. -/
def State.orFlags (s : State) (f : Flags) : State := s.orFlagsOf s.cur.core s.cur.slot f

/-- The address of a base and a displacement, wrapped to 57 bits (R250). -/
def eaDisp (base : Word) (disp : Word) : Nat := (base + disp).toNat % 2 ^ 57

/-- The address of a base and a scaled index, wrapped to 57 bits (R250). -/
def eaIndex (base index : Word) (isc : BitVec 3) : Nat := (base + index * BitVec.ofNat 64 (2 ^ isc.toNat)).toNat % 2 ^ 57

/-- Number read from a core's local store; an offset beyond it reads zero. -/
def Core.lsNum (c : Core) (off n : Nat) : Nat := Memory.num c.ls off n

/-- A plain access to a local store passes the protection unit (R88). -/
def Core.lsOk (c : Core) (ctx : BitVec 9) (off n : Nat) (write : Bool) : Bool :=
  off + n ≤ c.spbase.toNat &&
    (List.range 8).any fun i =>
      let r := look c.lspr i 0
      let v := r.toNat
      r.getLsbD 30 && bitsOf v 31 9 == ctx.toNat && bitsOf v 52 12 * 64 ≤ off && off + n ≤ (bitsOf v 40 12 + 1) * 64
        && (if write then r.getLsbD 29 else r.getLsbD 28)

/-- A plain access of the current thread: LS_PROT, with the lowest failing offset, where it does not pass (R88, R252). -/
def State.lsCheck (s : State) (off n : Nat) (write : Bool) : Option (Cause × Word) :=
  let c := s.myCore
  let ctx := s.me.cr.ctx
  if c.lsOk ctx off n write then none
  else
    let bad := ((List.range n).find? fun i => !c.lsOk ctx (off + i) 1 write).getD 0
    some (.lsProt, BitVec.ofNat 64 (off + bad))

/-- An offset that must be a multiple, then a plain access: the order of R227 and the instruction chapters. -/
def State.lsAligned (s : State) (off n al : Nat) (write : Bool) : Option (Cause × Word) :=
  if off % al != 0 then some (.align, BitVec.ofNat 64 off) else s.lsCheck off n write

/-- What an access through a handle meets (R90). -/
inductive HandleAcc where
  | fault (tval : Word)
  | guard (bank : Nat) (at' : Int)
  | ok (core off : Nat)
  deriving DecidableEq, Repr

/-- A handle table entry is valid (R89). -/
def State.handleOk (s : State) (cl : Nat) (v : BitVec 64) : Bool :=
  let n := v.toNat
  let base := bitsOf n 49 12
  let size := bitsOf n 37 12
  let sp := (s.coreAt (coreOf cl (bitsOf n 61 3))).spbase.toNat
  v.getLsbD 20 && 1 ≤ size && 1 ≤ base && sp ≤ (base - 1) * 64 && (base + size + 1) * 64 ≤ 0x3F000

/-- The thread holds a handle entry (R90). -/
def holds (v : BitVec 64) (t : Thread) (core slot : Nat) : Bool :=
  bitsOf v.toNat 21 9 == t.cr.ctx.toNat && bitsOf v.toNat 30 3 == posOf core && bitsOf v.toNat 33 4 == slot

/-- The handle entry that an access is checked against: in the cycle of a give, the entry before it (R275). -/
def State.handleEntry (s : State) (cl i : Nat) : BitVec 64 :=
  match find? (s.clusterAt cl).gave i with
  | some (c, v) => if c = s.now then v else look (s.clusterAt cl).htab i 0
  | none => look (s.clusterAt cl).htab i 0

/-- One byte of an access [h:o] (R90). -/
def State.handleByte (s : State) (h : Word) (o : Int) : HandleAcc :=
  let cl := clusterOf s.cur.core
  let v := s.handleEntry cl (bitsOf h.toNat 0 9)
  let size : Int := bitsOf v.toNat 37 12
  if bitsOf h.toNat 9 7 != 0 || !s.handleOk cl v || !holds v s.me s.cur.core s.cur.slot then .fault h
  else if o < -64 || 64 * size + 64 ≤ o then
    .fault (BitVec.ofNat 64 (h.toNat * 2 ^ 32 + (o % 2 ^ 32).toNat))
  else if o < 0 || 64 * size ≤ o then .guard (bitsOf v.toNat 61 3) o
  else .ok (coreOf cl (bitsOf v.toNat 61 3)) (64 * bitsOf v.toNat 49 12 + o.toNat)

/-- An access [h:o] of `n` bytes: an access that straddles a granule is checked for each byte, and the first byte that does
not pass decides (R90). -/
def State.handleAcc (s : State) (h : Word) (o : Int) (n : Nat) : HandleAcc :=
  let first := s.handleByte h o
  let bad := (List.range n).find? fun (i : Nat) =>
    match s.handleByte h (o + (i : Int)) with
    | .ok _ _ => false
    | _ => true
  match bad with
  | some i => s.handleByte h (o + (i : Int))
  | none => first

/-- A guard touch is recorded: the first bank and offset, and a count that saturates (R91). -/
def State.guardTouch (s : State) (bank : Nat) (o : Int) : State :=
  s.modMe fun t =>
    let g := t.guard
    { t with
      guard := if g.pending then { g with count := BitVec.ofNat 8 (min (g.count.toNat + 1) 255) }
        else ⟨true, BitVec.ofNat 3 bank, BitVec.ofInt 32 o, 1⟩ }

end Sys2Proof.Machine
end

