-- ==== Sys2Proof/Machine/Control.lean ====
section
/-! DEFINITION. Control transfers, the repeat prefix, the index register, thread state registers, the cycle counter, traps
and `tret` (R226, R240 to R248, R334). -/

namespace Sys2Proof.Machine

/-- A relative target: the transfer's address plus 4·Imm (R240). -/
def State.target (s : State) (imm : Word) : BitVec 57 := BitVec.ofNat 57 (s.cur.iss.pc.setWidth 64 + imm * 4).toNat

/-- A computed transfer, with its link: ALIGN at the transfer where the target is not word aligned (R241). -/
def State.jump (s : State) (t : Word) (link : Option XReg) : State :=
  if t.toNat % 4 != 0 then s.raise .align (BitVec.ofNat 64 (t.toNat % 2 ^ 57))
  else
    let s := match link with
      | some a => s.wx a (s.nextPc.setWidth 64)
      | none => s
    s.retireTo (some (BitVec.ofNat 57 t.toNat))

/-- BR (R240). -/
def execBr (a : PReg) (imm : Word) (s : State) : Host.Outcome State Fault Refusal :=
  .next (s.retireTo (if s.me.pred a then some (s.target imm) else none))
/-- BRN (R240). -/
def execBrn (a : PReg) (imm : Word) (s : State) : Host.Outcome State Fault Refusal :=
  .next (s.retireTo (if s.me.pred a then none else some (s.target imm)))
/-- JR (R241). -/
def execJr (b : XReg) (s : State) : Host.Outcome State Fault Refusal := .next (s.jump (s.x b) none)
/-- CALL (R241). -/
def execCall (a : XReg) (imm : Word) (s : State) : Host.Outcome State Fault Refusal :=
  .next ((s.wx a (s.nextPc.setWidth 64)).retireTo (some (s.target imm)))
/-- CALLR (R241). -/
def execCallr (a b : XReg) (s : State) : Host.Outcome State Fault Refusal := .next (s.jump (s.x b) (some a))
/-- RET (R241). -/
def execRet (b : XReg) (s : State) : Host.Outcome State Fault Refusal := .next (s.jump (s.x b) none)
/-- LOOP (R242). -/
def execLoop (a : XReg) (imm : Word) (s : State) : Host.Outcome State Fault Refusal :=
  let t := s.x a - 1
  .next ((s.wx a t).retireTo (if t != 0 then some (s.target imm) else none))

/-- REP: the prefix sets the repeat state and leaves the pc at itself; it is one instruction of its group (R74, R87, R226).
The next issue of the thread is the first repeat. -/
def execRep (count : BitVec 6) (mask : BitVec 4) (s : State) : Host.Outcome State Fault Refusal :=
  .next (s.modMe fun t =>
    { t with
      wait := .none, blocked := none, repLen := s.cur.iss.hdr.len, repcnt := BitVec.ofNat 7 (count.toNat + 1), repdone := 0
      repmask := mask, repLive := true })

/-- IXSET (R244). -/
def execIxset (b : XReg) (imm : Word) (s : State) : Host.Outcome State Fault Refusal :=
  .next (s.wr .ix (((s.x b + imm).setWidth 16).setWidth 2048)).retire
/-- IXADD (R244). -/
def execIxadd (b : XReg) (imm : Word) (s : State) : Host.Outcome State Fault Refusal :=
  .next (s.wr .ix ((s.me.ix + (s.x b + imm).setWidth 16).setWidth 2048)).retire
/-- IXGET (R244). -/
def execIxget (a : XReg) (s : State) : Host.Outcome State Fault Refusal := .next (s.wx a (s.me.ix.signExtend 64)).retire

/-- A write of a snapshot register: the group write buffer counts it (R77). -/
def Dest.snapshot : Dest → Bool
  | .x _ | .p _ | .v _ | .ix => true
  | _ => false

/-- TSTAT of a thread (R85). -/
def Thread.tstat (t : Thread) : Word :=
  BitVec.ofNat 64
    (t.mmtk.toNat * 2 ^ 48 + t.mmta.toNat * 2 ^ 47 + t.repcnt.toNat * 2 ^ 40 + t.repdone.toNat * 2 ^ 34
      + t.repmask.toNat * 2 ^ 30 + t.long.toNat * 2 ^ 29 + t.lctx.toNat * 2 ^ 26 + (t.gwb.filter fun w => w.dest.snapshot).length % 64 * 2 ^ 20
      + t.intrap.toNat * 2 ^ 19 + t.sup.toNat * 2 ^ 18 + t.pin.toNat * 2 ^ 17 + t.lend.toNat * 2 ^ 16
      + t.flags.toNat * 2 ^ 11)

/-- The value of a thread state register (R85, R245). -/
def State.tregValue (s : State) (r : TReg) : Word :=
  let t := s.me
  match r with
  | .tstat => t.tstat
  | .tcause => t.tcause.setWidth 64
  | .tepc => t.tepc.setWidth 64
  | .tval => t.tval
  | .xbase => t.xbase.setWidth 64
  | .xcount => t.xcount.setWidth 64
  | .seq => t.seq.setWidth 64
  | .cringh => t.cringh.setWidth 64
  | .stallhw => s.myCore.stallhw.setWidth 64
  | .stallage => s.myCore.stallage.setWidth 64

/-- MFTS (R245). -/
def execMfts (a : XReg) (b : TReg) (s : State) : Host.Outcome State Fault Refusal :=
  .next (s.wx a (s.tregValue b)).retire

/-- Instruction bits [63:0], the TVAL of ILLEGAL_OP and PRIV (R181). -/
def State.iw64 (s : State) : Word := s.cur.iss.iw.setWidth 64

/-- MTTS: takes effect at the group's end (R245); a write of FLAGS replaces what the group raised before it. -/
def execMtts (a : TReg) (b : XReg) (s : State) : Host.Outcome State Fault Refusal :=
  let v := s.x b
  match a with
  | .tstat =>
    .next ((s.wr .flags (BitVec.ofNat 2048 (bitsOf v.toNat 11 5))).modMe fun t => { t with grpFlags := 0 }).retire
  | .tepc =>
    if s.me.intrap then .next (s.wr .tepc (BitVec.ofNat 2048 (bitsOf v.toNat 2 55 * 4))).retire
    else .next (s.raise .priv s.iw64)
  | .stallhw => .next (s.wr .stallhw (BitVec.ofNat 2048 (min (max v.toNat 1) 128))).retire
  | .stallage => .next (s.wr .stallage (BitVec.ofNat 2048 (max (v.toNat % 2 ^ 16) 64))).retire
  | .tcause | .tval | .xbase | .xcount | .seq | .cringh => .next (s.raise .illegalOp s.iw64)

/-- RDCYC: two in one group return the same value (R246). -/
def execRdcyc (a : XReg) (s : State) : Host.Outcome State Fault Refusal :=
  let v := s.me.cyc.getD (BitVec.ofNat 64 (s.now - s.myCore.epoch))
  .next ((s.modMe fun t => { t with cyc := some v }).wx a v).retire

/-- BRK (R247). -/
def execBrk (imm : Word) (s : State) : Host.Outcome State Fault Refusal := .next (s.raise .brk imm)
/-- TRAP: TEPC is the next instruction (R247); its switch marker ends the group on the return. -/
def execTrap (imm : Word) (s : State) : Host.Outcome State Fault Refusal :=
  .next ((s.modMe fun t => { t with gwbPark := s.cur.iss.hdr.sw }).takeTrap s.cur.core s.cur.slot ⟨.trap, false, imm, s.nextPc⟩)
/-- NOP (R248). -/
def execNop (s : State) : Host.Outcome State Fault Refusal := .next s.retire

/-- TRET: ILLEGAL_OP outside the handler; otherwise it ends its group, whatever its SW bit, and the group's end returns
from the handler to TEPC (R334). -/
def execTret (s : State) : Host.Outcome State Fault Refusal :=
  if s.me.intrap then
    .next ((s.wr .tret (s.me.tepc.setWidth 2048)).modMe fun t => { t with blocked := none }).park
  else .next (s.raise .illegalOp s.iw64)

end Sys2Proof.Machine
end

