-- ==== Sys2Proof/Machine/Barrel.lean ====
section
/-! DEFINITION. The barrel of a core: which slot issues (R71 to R73), instruction fetch (R219, R230), the checks before an
instruction acts (R74, R78, R80, R226, R227), the end of a group (R75), and what an access that finds no page brings
about (R46, R163, R369). -/

namespace Sys2Proof.Machine

/-- A supervisor-only operation: OPC 0xE0 (R229). -/
def isSup (i : Instr) : Bool :=
  match i with
  | .svCtab .. | .svQrec .. | .svQprio .. | .svGstart .. | .svTeardown .. | .svRht .. | .svDph .. | .svPtbr ..
  | .svPtw .. | .svTinv .. | .svPres .. | .svPref .. | .svMigr .. | .svHint .. | .svFq .. | .svSfq ..
  | .svFlue .. | .svVac .. | .svVrel .. | .svPdk .. | .svKill .. | .svPrel .. | .svLspr .. | .svSpb ..
  | .svHtab .. | .svYov .. => true
  | _ => false

/-- An instruction of the matrix unit (R73, R81, R343). -/
def isMatrix (i : Instr) : Bool :=
  match i with
  | .mma .. | .mmas .. | .mmt .. | .azero .. | .aspill .. | .afill .. | .aadd ..
  | .aread .. | .topk .. | .mvh .. | .hset .. | .hmul .. | .hdiv ..
  | .hprod .. | .hscale .. | .hrd .. | .hwr .. | .hdeg .. | .sbld .. | .sbst .. => true
  | _ => false

/-- An instruction of the thread's vector pipe (R263, R277, R321). -/
def isVector (i : Instr) : Bool :=
  match i with
  | .unpk .. | .vaddF .. | .vsubF .. | .vmulF .. | .vdiv .. | .vminF .. | .vmaxF .. | .vabsF .. | .vneg .. | .vsqrt ..
  | .vfma .. | .vfms .. | .vfnma .. | .vaddI .. | .vsubI .. | .vmulI .. | .vminI .. | .vmaxI .. | .vabsI .. | .vadds ..
  | .vsubs .. | .vand .. | .vor .. | .vxor .. | .vsll .. | .vsrl .. | .vsra .. | .vexp .. | .vlog .. | .vrcp ..
  | .vrsqrt .. | .vtanh .. | .vsig .. | .vcmpEq .. | .vcmpNe .. | .vcmpLt .. | .vcmpLe .. | .vcmpGt .. | .vcmpGe ..
  | .vsel .. | .vperm .. | .vshuf .. | .vbcast .. | .vrot .. | .vredadd .. | .vredmax .. | .vredmin .. | .cvt ..
  | .cvtn .. | .vquant .. | .sbupd .. | .vhash .. | .vbcmp .. | .vmov .. | .vins .. | .vext .. | .sopen .. | .sadv ..
  | .stend .. | .sclose .. | .fopen .. => true
  | _ => false

/-- A core-path instruction that names a long register acts after the thread's long-unit instructions (R76). -/
def State.longHazard (s : State) (n k : Nat) (i : Instr) : Bool :=
  !isVector i && !isMatrix i && (i.vregs.any fun
    | .w _ => true
    | _ => false) && (((s.thr n k).copq ++ (s.thr n k).inflight).any fun x => x.pipeNo == 1)

/-- A copy channel is running (R92, R323). -/
def Chan.busy (c : Chan) : Bool :=
  let v := c.st.toNat
  bitsOf v 253 3 != 0 && !c.st.getLsbD 251 && bitsOf v 0 32 < bitsOf v 32 32

/-- The local-store writes that a thread has issued are performed: none is held in a window (R148, R179). -/
def Thread.lsDone (t : Thread) : Bool := (t.window ++ t.closed.flatten).all fun m => m.ls.isNone

/-- Every access of an engine class that the thread has issued is complete (R148). The core path's include those of its streams
(R319); a pair's collective is run by one copy and waited for by both. -/
def State.engineDone (s : State) (n k : Nat) (e : Engine) : Bool :=
  let t := s.thr n k
  match e with
  | .co => t.loads.isEmpty && t.sosOut == 0 && t.streamsDone && t.lsDone
  | .cp => (s.coreAt n).chan.all fun (_, c) => !(c.busy && bitsOf c.st.toNat 242 4 == k && c.unit == t.unit)
  | .mx => (t.copq ++ t.inflight).all fun i => !isMatrix i.instr
  | .gp =>
    !s.putsLeft n k && (t.window ++ t.closed.flatten).all (fun m => m.out.isNone)
      && s.io.gets.all fun g => (g.core, g.slot) != (n, k) && some (g.core, g.slot) != t.mate
  | .cl => ((n, k) :: (s.mateAt n k).toList).all fun (m, j) =>
      (s.coreAt m).colls.all fun c => !(c.slot == j && c.unit == (s.thr m j).unit)
  | .fl => s.io.flue.isNone

/-- What a thread waits for has come about (R71). -/
def State.waitOver (s : State) (n k : Nat) : Bool :=
  let t := s.thr n k
  let c := s.coreAt n
  match t.wait with
  | .none => true
  | .parked | .page _ _ _ => false
  | .settled => t.settled
  | .loads | .loadReturn => t.loads.isEmpty
  | .sos => t.sosOut == 0
  | .prepared => t.commit == .prepared
  | .flipped => t.flip.isNone
  | .stallEmpty => c.stall.isEmpty || s.shedOpen (clusterOf n)
  | .shedClear => !s.unitInRuns n k false
  | .applied => t.applyOut == 0
  | .unorderedClear => !s.unitInRuns n k true
  | .stallRoom m => s.shedOpen (clusterOf n) && c.stall.length + m ≤ 128
  | .longCtx => t.lgrant.isSome || t.mode
  | .longDone => (t.copq ++ t.inflight).all fun i => i.pipeNo != 1
  | .shortDone => !t.shortDue
  | .copqRoom => t.copq.length < 8
  | .copqDrained => t.streamsDone
  | .mailbox m => (m % 2 = 1 && !c.mboxHi.isEmpty) || (m / 2 % 2 = 1 && !c.mboxLo.isEmpty)
  | .mailSent | .mailFull => c.outbox.all fun x => x.slot != k
  | .channel i => !(look c.chan i Chan.reset).busy
  | .engine e => s.engineDone n k e
  | .flue m => m ≤ s.io.flueDone
  | .barrier => t.barAt.isNone
  | .barrierRoom | .fenceTurn => true
  | .exchange | .reply | .started => t.reply.isSome
  | .exchangeTurn => c.xpend.isNone
  | .handle h =>
    let v := look (s.clusterAt (clusterOf n)).htab h 0
    let ok := s.handleOk (clusterOf n) v
    if t.blocked.any fun i => i.phase == 0 then ok else !ok || holds v t n k
  | .drain => t.drainOut == 0
  | .collRoom => c.colls.length < 4
  | .puts => !s.putsLeft n k
  | .trap => t.pendDone && t.trapReq.isSome && !(t.intrap || s.tha t.cr.ctx.toNat == 0)

/-- A slot is ready (R71). -/
def State.ready (s : State) (n k : Nat) : Bool := (s.thr n k).status == .running && s.waitOver n k

/-- LEND of a slot is cleared. -/
def State.clearLend (s : State) (n k : Nat) : State := s.modThr n k fun t => { t with lend := false }

/-- An access of a thread finds no page, or is refused (R46, R163, R369). The thread waits: a pinned unit's thread on the
page's list; otherwise its task aborts. At a frozen page, and where 256 other pages wait, the thread is held at the
interface until a cycle's end finds it can go on (R166, R170). -/
def State.accessMiss (s : State) (n k : Nat) (m : LoadMiss) (acc : Nat) : State :=
  let t := s.thr n k
  let tok := s.token n k
  let wait (s : State) : State := s.modThr n k fun t => { t with wait := .page m.die m.ctx m.va }
  let onPage (s : State) (cause lvl val : Nat) : State :=
    let w0 := supWord 1 cause acc lvl m.die tok
    if m.held || !s.waitRoom m.die m.ctx m.va then s
    else if t.pin then s.waitOn m.die m.ctx m.va [.thread n k] w0 val
    else (s.waitOn m.die m.ctx m.va [] w0 val).push [.taskAbort n k (.page m.die m.ctx m.va)]
  match m.tr with
  | .ok _ _ _ _ => s
  | .absent lvl v _ => onPage (wait s) 1 lvl (bitsOf v.toNat 0 64)
  | .refused c lvl v =>
    if c = 5 || c = 6 then ((wait s).postRefused c acc lvl m.die tok m.ctx m.va v).push [.taskAbort n k .refused]
    else onPage (wait s) c lvl v.toNat

/-- A load of the current instruction misses: it runs again once the page is there (R46). -/
def State.miss (s : State) (m : LoadMiss) : State :=
  (s.modMe fun t => { t with blocked := some s.cur.iss }).accessMiss s.cur.core s.cur.slot m 0

/-- A fetch block: its bits and the poison of its granules. -/
structure Block where
  v : Nat
  psn : List Bool
  deriving DecidableEq, Repr

/-- A doubleword of code as home and its yard give it (R230) to a task; a frozen page holds the fetch (R170), and an uncorrectable
error ends it with the paddock (R175). -/
def State.codeDw (s : State) (core ctx va : Nat) (task : BitVec 40) : State × Except LoadMiss Dw :=
  let die := (s.route ctx va).home
  let held : LoadMiss := ⟨die, ctx, va, .absent 0 0 0, true⟩
  if (s.dieAt die).isFrozen ctx va then (s, .error held) else
  let (s, r) := s.xlate die ctx va .ex
  match r with
  | .ok pa leaf _ _ =>
    let (s, lost) := s.sectorRead (pa / 64) (.core core true task)
    if lost then (s, .error held)
    else (s, .ok (combineLevels (s.homeDw leaf pa) (s.homeLevels die (keyOf ctx va) [])))
  | r => (s, .error ⟨die, ctx, va, r, false⟩)

/-- The fetch block at an address, read at the home of the code page (R219, R230); a core may use a copy it has kept. -/
def State.fetchBlock (s : State) (core ctx pc : Nat) (task : BitVec 40) : State × Except LoadMiss Block :=
  let base := pc / 32 * 32
  let key := ctx * 2 ^ 52 + base / 32
  let (s', r) := (List.range 4).foldl (fun (acc : State × Except LoadMiss Block) i =>
    match acc.2 with
    | .error _ => acc
    | .ok b =>
      match acc.1.codeDw core ctx (base + 8 * i) task with
      | (s, .ok d) => (s, .ok ⟨b.v + d.v * 2 ^ (64 * i), b.psn ++ [d.psn0, d.psn1]⟩)
      | (s, .error m) => (s, .error m)) (s, .ok ⟨0, []⟩)
  let (s, r) := match find? (s.coreAt core).icache key with
    | none => (s', r)
    | some c =>
      let same := match r with
        | .ok b => b.v == c.toNat && !b.psn.any id
        | .error _ => false
      if same then (s, r)
      else if Config.cacheKeeps s.fresh then (s.tick, .ok ⟨c.toNat, List.replicate 8 false⟩) else (s'.tick, r)
  match r with
  | .ok b =>
    (if b.psn.any id then s
      else s.modCore core fun c => { c with icache := put c.icache key (BitVec.ofNat 256 b.v) }, r)
  | .error m => (s, .error m)

/-- What a fetch gives: the instruction's word with its length, or a fault, or no page. -/
inductive Fetched where
  | word (len : Len) (w : Nat)
  | fault (c : Cause) (tval : Word)
  | miss (m : LoadMiss)
  deriving DecidableEq, Repr

/-- The instruction at an address (R219, R227 steps 1 and 2, R230): ILLEGAL_LEN, then FETCH_SPAN, then POISON. -/
def State.fetchAt (s : State) (core ctx : Nat) (pc : BitVec 57) (task : BitVec 40) : State × Fetched :=
  let at' : Word := pc.setWidth 64
  match s.fetchBlock core ctx pc.toNat task with
  | (s, .error m) => (s, .miss m)
  | (s, .ok b) =>
    let off := pc.toNat % 32
    let w := b.v / 2 ^ (8 * off)
    match lenOf (w % 4) with
    | none => (s, .fault .illegalLen at')
    | some len =>
      if 32 < off + len.bytes then (s, .fault .fetchSpan at')
      else
        match (List.range (len.bytes / 4)).find? fun i => (b.psn.getD (off / 4 + i) false) with
        | some i => (s, .fault .poison (BitVec.ofNat 64 (pc.toNat + 4 * i)))
        | none => (s, .word len (w % 2 ^ (8 * len.bytes)))

/-- The checks of R227 from step 7 on, before the instruction's own: the 33rd of its group, privilege, window bounds; and
the vector mode check of R80, which is of step 6. -/
def Thread.issueCheck (t : Thread) (h : Hdr) (i : Instr) (w : Nat) : Option (Cause × Word) :=
  let iw : Word := BitVec.ofNat 64 w
  let wrong : VReg → Bool := fun
    | .v _ => t.mode
    | .w _ => !t.mode
    | .s _ => false
  if !i.wf h || i.vregs.any wrong then some (.illegalOp, iw)
  else if 32 ≤ t.groupLen then some (.illegalOp, 33)
  else if isSup i && !t.sup then some (.priv, iw)
  else
    match i.xregs.find? fun r => !t.inWindow r with
    | some r => some (.regBounds, BitVec.ofInt 64 (t.index r))
    | none => none

/-- A precise fault found before an instruction acts. -/
def State.issueFault (s : State) (n k : Nat) (c : Cause) (tval : Word) (tepc : BitVec 57) : State :=
  s.takeTrap n k ⟨c, false, tval, tepc⟩

/-- Latches an instruction for this step: it is one more of its group (R74). -/
def State.latch (s : State) (n k : Nat) (iss : Issue) : State :=
  ({ s with cur := ⟨n, k, iss⟩, issue := some iss } : State).modThr n k fun t =>
    { t with groupLen := t.groupLen + 1, wait := .none, blocked := none }

/-- The issue of an instruction. -/
def State.issueOf (s : State) (t : Thread) (h : Hdr) (i : Instr) (w : Nat) (pc : BitVec 57) : Issue :=
  { Issue.none with
    hdr := h, instr := i, iw := BitVec.ofNat 128 w, pc := pc, ix := t.ix, repdone := t.repdone.toNat, entered := s.now }

/-- What a ready slot issues: a trap that waited or an instruction that goes on; a fault found before an instruction acts; or an
instruction. -/
inductive Next where
  | resume
  | fault (c : Cause) (tval : Word) (tepc : BitVec 57)
  | go (iss : Issue)
  deriving DecidableEq, Repr

/-- An instruction whose turn has come waits for its place in a coprocessor queue (R73), or for the thread's long unit (R76): its
thread is not ready. -/
def State.notYet (s : State) (n k : Nat) (i : Instr) : Option Wait :=
  if (isVector i || isMatrix i) && 8 ≤ (s.thr n k).copq.length then some .copqRoom
  else if s.longHazard n k i then some .longDone
  else none

/-- What an instruction that has been fetched and decoded gives its thread: R227 from step 6 on. -/
def State.nextOf (s : State) (n k : Nat) (h : Hdr) (i : Instr) (w : Nat) (pc tepc : BitVec 57) : State × Option Next :=
  let t := s.thr n k
  match t.issueCheck h i w with
  | some (c, v) => (s, some (.fault c v tepc))
  | none =>
    match s.notYet n k i with
    | some wait => (s.modThr n k fun t => { t with wait := wait }, none)
    | none => (s, some (.go (s.issueOf t h i w pc)))

/-- The word after a repeat prefix, where it has been fetched (R226). -/
def State.repeated (s : State) (n k : Nat) (h : Hdr) (i : Instr) (pc : BitVec 57) : State × Option (Len × Nat) :=
  match i with
  | .rep _ _ =>
    match s.fetchAt n (s.thr n k).cr.ctx.toNat (pc + BitVec.ofNat 57 h.len.bytes) (s.token n k) with
    | (s, .word len w) => (s, some (len, w))
    | (s, _) => (s, none)
  | _ => (s, none)

/-- The repeat prefix is refused before it acts where its mask, or the word after it, is none that may be repeated (R226). -/
def prefixBad (i : Instr) (next : Option (Len × Nat)) : Bool :=
  match i, next with
  | .rep _ mask, some (len, w) => !repeatOk len w mask
  | _, _ => false

/-- The next instruction of a thread that is not in a repeat (R71, R227); none while it has not been fetched. -/
def State.nextPlain (s : State) (n k : Nat) : State × Option Next :=
  let t := s.thr n k
  match s.fetchAt n t.cr.ctx.toNat t.pc (s.token n k) with
  | (s, .miss m) => (s.accessMiss n k m 2, none)
  | (s, .fault c v) => (s, some (.fault c v t.pc))
  | (s, .word len w) =>
    match decodeWord len w with
    | none => (s, some (.fault .illegalOp (BitVec.ofNat 64 w) t.pc))
    | some (h, i) =>
      let (s, next) := s.repeated n k h i t.pc
      if prefixBad i next then (s, some (.fault .illegalOp (BitVec.ofNat 64 w) t.pc))
      else (if next.isSome then s.modThr n k fun t => { t with repWord := next } else s).nextOf n k h i w t.pc t.pc

/-- A repeat of a word under the state of a thread's prefix (R87, R226, R243). -/
def State.nextRepeat (s : State) (n k : Nat) (pc : BitVec 57) (len : Len) (w : Nat) : State × Option Next :=
  let t := s.thr n k
  let bad : Next := .fault .illegalOp (BitVec.ofNat 64 w) t.pc
  match decodeWord len w with
  | none => (s, some bad)
  | some (h, i) =>
    match repeatOf h i t.repmask t.repdone.toNat with
    | none => (s, some bad)
    | some j => s.nextOf n k h j w pc t.pc

/-- The next repeat of a thread at its prefix (R87, R226, R243): the prefix is not read again, and the repeated instruction is
fetched once. A fault at its fetch, with no repeat issued, is raised at it and leaves no repeat; once one has been issued
it leaves the state of R87. -/
def State.repeatOn (s : State) (n k : Nat) : State × Option Next :=
  let t := s.thr n k
  let pc := t.pc + BitVec.ofNat 57 t.repLen.bytes
  match t.repWord with
  | some (len, w) => s.nextRepeat n k pc len w
  | none =>
    match s.fetchAt n t.cr.ctx.toNat pc (s.token n k) with
    | (s, .miss m) => (s.accessMiss n k m 2, none)
    | (s, .fault c v) =>
      if t.repdone = 0 then
        (s.modThr n k fun t => { t with repLive := false, repcnt := 0, repmask := 0 }, some (.fault c v pc))
      else (s, some (.fault c v t.pc))
    | (s, .word len w) => (s.modThr n k fun t => { t with repWord := some (len, w) }).nextRepeat n k pc len w

/-- What a slot would issue; none where it is not ready (R71). -/
def State.poll (s : State) (n k : Nat) : State × Option Next :=
  let t := s.thr n k
  if !s.ready n k then (s, none)
  else if t.trapReq.isSome || t.blocked.isSome then (s, some .resume)
  else if t.repLive then s.repeatOn n k
  else s.nextPlain n k

/-- The search of R72 over slots in turn: the slot that issues, the slot whose turn it uses, and what is issued. -/
def State.search (s : State) (n : Nat) : List Nat → State × Option (Nat × Nat × Next)
  | [] => (s, none)
  | k :: l =>
    match s.poll n k with
    | (s, some x) => (if (s.thr n k).lend then s.clearLend n k else s, some (k, k, x))
    | (s, none) =>
      if !(s.thr n k).lend then s.search n l
      else
        match s.poll n (k ^^^ 1) with
        | (s, some x) => (s.clearLend n k, some (k ^^^ 1, k, x))
        | (s, none) => (s.clearLend n k).search n l

/-- A thread's turn (R72): a trap that waited, an instruction that goes on, a fault, or the next instruction. -/
def State.turnOf (s : State) (n k : Nat) : Next → State
  | .fault c v tepc => s.issueFault n k c v tepc
  | .go iss => s.latch n k iss
  | .resume =>
    match (s.thr n k).trapReq, (s.thr n k).blocked with
    | some r, _ => s.takeTrap n k r
    | none, some iss => ({ s with cur := ⟨n, k, iss⟩, issue := some iss } : State).modThr n k fun t => { t with wait := .none }
    | none, none => s

/-- BARREL_ISSUE (R72): the search from P; at most one instruction; P moves on behind the turn that was used. -/
def execBarrelIssue (s : State) : Host.Outcome State Fault Refusal :=
  match s.ev with
  | .barrelIssue n =>
    let p := (s.coreAt n).rot.toNat
    match s.search n ((List.range 16).map fun i => (p + i) % 16) with
    | (s, none) => .next s
    | (s, some (k, turn, x)) => .next ((s.modCore n fun c => { c with rot := BitVec.ofNat 4 (turn + 1) }).turnOf n k x)
  | _ => .next s

/-- GROUP_END (R75, R84): the group of a parked thread ends once its writes have returned; a stall run at a new high-water
mark moves out (R245). A repeat that is not the last leaves its thread ready for the next. -/
def execGroupEnd (s : State) : Host.Outcome State Fault Refusal :=
  match s.ev with
  | .groupEnd n k =>
    let t := s.thr n k
    if t.status == .running && t.wait == .parked && t.pendDone then .next ((s.endGroup n k).stallFill n) else .next s
  | _ => .next s

end Sys2Proof.Machine
end

