-- ==== Sys2Proof/Machine/Memory.lean ====
section
/-! DEFINITION. Loads, keyed stores, local-store and scratchpad accesses, gathers and scatters, fetches at home, transposed
loads and prefetches (R250 to R264), with the monitors that count updates (R97). -/

namespace Sys2Proof.Machine

/-- A value in units of weight `2^exp`: the value, whether it was rounded, and whether it has no value there and stands at an
end of the 128-bit range (R97). -/
def numWindow (x : Num) (exp : Int) : Int × Bool × Bool :=
  match x with
  | .nan _ => (2 ^ 127 - 1, false, true)
  | .inf s => (if s then -(2 ^ 127) else 2 ^ 127 - 1, false, true)
  | .zero _ => (0, false, false)
  | .fin m e =>
    let (r, exact) := roundMag .rne (m < 0) m.natAbs (e - exp)
    (if m < 0 then -(r : Int) else r, !exact, false)

/-- An exact sum that saturates at the ends of the 128-bit range, and whether it did (R97). -/
def sumWindow (a : BitVec 128) (v : Int) : BitVec 128 × Bool :=
  let i := a.toInt + v
  if i < -(2 ^ 127) then (BitVec.ofNat 128 (2 ^ 127), true)
  else if 2 ^ 127 ≤ i then (BitVec.ofNat 128 (2 ^ 127 - 1), true)
  else (BitVec.ofInt 128 i, false)

/-- The value of an update's data by a monitor's FMT (R97). -/
def monValue (fmt bits : Nat) : Num :=
  match fmt with
  | 0 => .ofInt (toSigned 32 bits)
  | 1 => .ofInt (toSigned 64 bits)
  | 2 => .ofInt ((bits % 2 ^ 32 : Nat) : Int)
  | 3 => .ofInt ((bits % 2 ^ 64 : Nat) : Int)
  | 4 => fp32.decode (bits % 2 ^ 32)
  | _ => fp64.decode (bits % 2 ^ 64)

/-- The operators that a monitor's FMT counts (R97). -/
def monOp (fmt : Nat) (op : MOp) : Bool :=
  match fmt with
  | 0 | 1 => op == .add || op == .addsI
  | 2 | 3 => op == .add || op == .addsN
  | _ => op == .fadd || op == .faddx

/-- The field of a monitor holds the element (R97). -/
def monField (cfg va n : Nat) : Bool :=
  let base := bitsOf cfg 192 57
  let stride := bitsOf cfg 144 16
  let foff := bitsOf cfg 132 12
  base ≤ va && va + n ≤ base + bitsOf cfg 160 32
    && (if stride = 0 then va - base == foff else (va - base) % stride == foff)

/-- One monitor counts an update of a slot (R97): into TSUM, or directly into SUM. -/
def Monitor.count (m : Monitor) (slot : Nat) (op : MOp) (w : Bool) (va bits : Nat) (direct : Bool) : Monitor :=
  let cfg := m.cfg.toNat
  let fmt := bitsOf cfg 128 4
  if !m.cfg.getLsbD 64 || 6 ≤ fmt || !monField cfg va (if w then 8 else 4) then m
  else if (fmt % 2 == 1) != w || !monOp fmt op then { m with cfg := m.cfg ||| BitVec.ofNat 256 (2 ^ 67) }
  else
    let exp := (BitVec.ofNat 8 (bitsOf cfg 120 8)).toInt
    let (v, inx, out) := numWindow (monValue fmt bits) exp
    let (sum, sat) := sumWindow (if direct then m.sum else look m.tsum slot 0) v
    let flags := (if inx then 2 ^ 65 else 0) + (if out || sat then 2 ^ 66 else 0)
    let m := { m with cfg := m.cfg ||| BitVec.ofNat 256 flags }
    if direct then { m with sum := sum } else { m with tsum := put m.tsum slot sum }

/-- The monitors of a core count an update at its emission (R97). -/
def State.monitor (s : State) (n k : Nat) (op : MOp) (w : Bool) (va bits : Nat) (direct : Bool) : State :=
  s.modCore n fun c => { c with mon := c.mon.map fun (i, m) => (i, m.count k op w va bits direct) }

/-- An update that a thread emits for one element (R103, R115, R121, R257): its ordering kind and window exponent come from
the range home table; a faddx or rowx value is converted, with NX and a record of level 0. -/
def State.update (s : State) (n k : Nat) (op : MOp) (trp : Bool) (va : Nat) (w : Bool) (bits : Nat) : State × Entry :=
  let t := s.thr n k
  let ctx := t.cr.ctx.toNat
  let r := s.route ctx va
  let (val, psn, nx, cause) := if op.isFx then toWindow w r.wexp bits else (BitVec.ofNat 128 bits, false, false, 0)
  let e : Entry :=
    { key := BitVec.ofNat 64 (keyOf ctx va), op := op, w := w, tent := r.ord != 1, trp := trp, psn := psn
      wexp := if op.isFx then r.wexp else 0, task := s.token n k, val := val, ord := BitVec.ofNat 2 r.ord
      units := [t.cr.owner], age := s.now, mark := false }
  let s := if nx then s.orFlagsOf n k Flags.nx else s
  let s := if cause = 0 then s else s.postMerge e 0 cause 0 val t.cr.launch n
  (s.monitor n k op w (va % 2 ^ 57) bits false, e)

/-- An element of a store: address, width and bits. -/
abbrev Elem := Nat × Bool × Nat

/-- Emits elements into a core's stall run, all of them or none (R107, R257). -/
def State.emitAll (s : State) (n k : Nat) (op : MOp) (trp : Bool) (l : List Elem) : Option State :=
  l.foldlM (fun s (va, w, bits) =>
    let (s, e) := s.update n k op trp va w bits
    s.emit n e) s

/-- Sends one strongly ordered update to its home yard (R131, R139); the unit is pinned (R46). -/
def State.emitSos (s : State) (n k : Nat) (op : MOp) (trp : Bool) (el : Elem) : State :=
  let (va, w, bits) := el
  let (s, e) := s.update n k op trp va w bits
  let die := (s.route (keyCtx e.key.toNat) va).home
  let s := s.modThr n k fun t => { t with sosOut := t.sosOut + 1, pin := true }
  s.send n k (.event (entryBytes e) (.yardEntry die e 1)) true

/-- The page of an element is strongly ordered in the range home table (R133). -/
def State.strong (s : State) (va : Nat) : Bool := (s.route s.me.cr.ctx.toNat va).ord == 1

/-- Elements in ascending address order (R140). -/
def sortElems (l : List Elem) : List Elem :=
  l.foldl (fun r e => r.takeWhile (fun x => x.1 ≤ e.1) ++ e :: r.dropWhile (fun x => x.1 ≤ e.1)) []

/-- The steps of a store that holds an element of an ORD 1 page: in ascending address order each such element, and then the
others together (R140); or in lane order each such element and each stretch of others (R260). -/
def State.storeSteps (s : State) (inLanes : Bool) (l : List Elem) : List (List Elem) :=
  if inLanes then
    l.foldr (fun e r =>
      match r with
      | (x :: g) :: r => if s.strong e.1 || s.strong x.1 then [e] :: (x :: g) :: r else (e :: x :: g) :: r
      | r => [e] :: r) []
  else (sortElems (l.filter fun e => s.strong e.1)).map (fun e => [e]) ++ [l.filter fun e => !s.strong e.1]

/-- A store of elements (R140, R257): with an element of an ORD 1 page the implicit commit comes first and is complete; then
its steps, a strongly ordered element acknowledged before the next step. Phases 2 and up count the steps taken. -/
def State.store (s : State) (op : MOp) (trp inLanes : Bool) (l : List Elem) : State :=
  let n := s.cur.core
  let k := s.cur.slot
  let put (s : State) (l : List Elem) (done : State → State) : State :=
    match s.emitAll n k op trp l with
    | some s => done (s.stallFill n)
    | none => s.block (.stallRoom l.length) s.phase
  if !s.me.streamsDone then s.block .copqDrained s.phase
  else if !l.any fun e => s.strong e.1 then put s l State.retire
  else
    match s.phase with
    | 0 => s.commitStart
    | 1 => (s.modMe fun t => { t with commit := .idle }).block .flipped 2
    | p =>
      let g := s.storeSteps inLanes l
      let next (s : State) : State := if p - 1 < g.length then s.block .none (p + 1) else s.retire
      match g[p - 2]? with
      | none => s.retire
      | some g =>
        if s.me.sosOut != 0 then s.block .sos p
        else
          match g with
          | [e] => if s.strong e.1 then (s.emitSos n k op trp e).block .sos (p + 1) else put s g next
          | g => put s g next

/-- Elements of a scalar or vector datum at an address (R140, R251). -/
def elemsOf (ty : Ty) (va v : Nat) : List Elem :=
  if ty == .b128 then (List.range 4).map fun i => (va + 4 * i, false, bitsOf v (32 * i) 32)
  else if ty.bytes = 8 then [(va, true, v % 2 ^ 64)]
  else [(va, false, v % 2 ^ 32)]

/-- The natural alignment of a type's elements (R252). -/
def alignOf (ty : Ty) : Nat := if ty == .b128 then 4 else ty.bytes

/-- The data of a store. -/
def State.data (s : State) (a : DReg) : Nat :=
  match a with
  | .x r => (s.x r).toNat
  | .v r => (s.vec r).toNat

/-- Keyed store of one value (R257): ALIGN, then the store. -/
def State.storeAt (s : State) (ty : Ty) (op : MOp) (trp : Bool) (a : DReg) (ea : Nat) : State :=
  if ea % alignOf ty != 0 then s.raise .align (BitVec.ofNat 64 ea) else s.store op trp false (elemsOf ty ea (s.data a))

/-- ST (R257). -/
def execSt (ty : Ty) (op : MOp) (t : Bool) (a : DReg) (b : XReg) (imm : Word) (s : State) :
    Host.Outcome State Fault Refusal :=
  .next (s.storeAt ty op t a (eaDisp (s.x b) imm))

/-- ST, indexed (R257). -/
def execStIndexed (ty : Ty) (op : MOp) (t : Bool) (a : DReg) (b c : XReg) (isc : BitVec 3) (s : State) :
    Host.Outcome State Fault Refusal :=
  .next (s.storeAt ty op t a (eaIndex (s.x b) (s.x c) isc))

/-- One lane of a load: its address, what decodes it on a scaled page, and the doublewords it reads (R140, R254). -/
structure Lane where
  ea : Nat
  dec : Option (Ty × Option Nat)
  dws : List Nat
  deriving DecidableEq, Repr

/-- Whether a .f32 load at an address of a page is a decoding load: the element's format and the place of its scale byte
(R210, R254). -/
def decodeAt (leaf : BitVec 128) (ea : Nat) : Option (Ty × Option Nat) :=
  let fmt := leafFmt leaf
  let o := ea % 4096
  if !fmtNarrow fmt then none
  else
    match fmtTy fmt, geomG (leafGeom leaf) with
    | some ty, none => some (ty, none)
    | some ty, some g =>
      let b := 4096 / (g + 1)
      if o < b * g then some (ty, some (ea / 4096 * 4096 + 4096 - b + o / g)) else none
    | none, _ => none

/-- The leaf of a page as its home translates a load (R163). -/
def State.pageLeaf (s : State) (ctx va : Nat) : State × Except LoadMiss (BitVec 128) :=
  let die := (s.route ctx va).home
  if (s.dieAt die).isFrozen ctx va then (s, .error ⟨die, ctx, va, .absent 0 0 0, true⟩)
  else
    match s.xlate die ctx va .rd with
    | (s, .ok _ leaf _ _) => (s, .ok leaf)
    | (s, r) => (s, .error ⟨die, ctx, va, r, false⟩)

/-- Prepares a lane of a load (R254): only .f32 loads decode. -/
def State.laneOf (s : State) (ctx : Nat) (ty : Ty) (ea : Nat) : State × Except LoadMiss Lane :=
  let plain : Lane := ⟨ea, none, dwsOf ea ty.bytes⟩
  if ty != .f32 then (s, .ok plain)
  else
    match s.pageLeaf ctx ea with
    | (s, .error m) => (s, if ea % 4 = 0 then .ok plain else .error m)
    | (s, .ok leaf) =>
      match decodeAt leaf ea with
      | none => (s, .ok plain)
      | some (t, none) => (s, .ok ⟨ea, some (t, none), [ea / 8 * 8]⟩)
      | some (t, some sc) => (s, .ok ⟨ea, some (t, some sc), [ea / 8 * 8, sc / 8 * 8]⟩)

/-- Lanes of a load, or the first miss. -/
def State.lanesOf (s : State) (ctx : Nat) (ty : Ty) (l : List Nat) : State × Except LoadMiss (List Lane) :=
  l.foldl (fun (acc : State × Except LoadMiss (List Lane)) ea =>
    match acc.2 with
    | .error _ => acc
    | .ok ls =>
      match acc.1.laneOf ctx ty ea with
      | (s, .ok x) => (s, .ok (ls ++ [x]))
      | (s, .error m) => (s, .error m)) (s, .ok [])

/-- An element decoded with its block scale (R202, R210): a scale code of 0xFF gives the canonical NaN and NV. -/
def decodeScaled (ty : Ty) (bits code : Nat) : Num × Flags :=
  if code = 0xFF then (.nan false, Flags.nv)
  else
    let x := valOf ty bits
    (x.scale ((code : Int) - 127), snan [x])

/-- What a lane gives: its bits, whether a granule of it is poisoned, and flags (R119, R253, R254). -/
def laneValue (ds : List (Nat × Dw)) (ty : Ty) (l : Lane) : Nat × Bool × Flags :=
  match l.dec with
  | none => let (v, p) := dwNum ds l.ea ty.bytes; (v, p, 0)
  | some (t, sc) =>
    let (b, p) := dwNum ds l.ea 1
    let (c, q) := match sc with
      | some a => dwNum ds a 1
      | none => (127, false)
    let (x, f) := decodeScaled t b c
    let (v, g) := roundTy .f32 .rne x
    (v, p || q, f ||| g)

/-- The lines that a load may leave in the read cache (R113). -/
def State.lineFills (s : State) (n k ctx : Nat) (dws : List Nat) : State × List (Nat × BitVec 512) :=
  let lines := dws.foldl (fun l a => insertNat (a / 64) l) []
  lines.foldl (fun (s, fs) a =>
    match s.lineFill n k ctx (64 * a) (.core n false (s.token n k)) with
    | (s, some f) => (s, fs ++ [f])
    | (s, none) => (s, fs)) (s, [])

/-- A load whose value is known to its home goes on its way back (R118): its destination is reserved, its keys bear read
marks until it returns. A strongly ordered load, and one that will raise POISON, holds the thread (R130, R139). -/
def State.sendLoad (s : State) (d : Dest) (v : Val) (bad : Option Nat) (f : Flags) (dws : List Nat) : State :=
  let n := s.cur.core
  let k := s.cur.slot
  let ctx := s.me.cr.ctx.toNat
  let (s, fills) := s.lineFills n k ctx dws
  let s := match dws with
    | a :: _ => s.replicate n ctx a
    | [] => s
  let tag := s.ids
  let s := s.reserve d
  let l : Load :=
    { tag := tag, core := n, die := (s.route ctx (dws.headD 0)).home, keys := keysAt ctx dws, va := bad.getD 0
      val := if bad.isSome then none else some v, flags := f, fills := fills }
  let s := (s.modMe fun t => { t with loads := t.loads ++ [l] }).push [.loadResultReturn n k tag]
  if bad.isSome || dws.any s.strong then s.block .loadReturn 1 else s.retire

/-- Loads of lanes (R252, R253, R260): every lane is prepared and checked, then all are read; the first miss aborts the
task or holds the thread; a poisoned lane is the lowest in lane order. `pack` forms the destination's value. -/
def State.loadLanes (s : State) (ty : Ty) (d : Dest) (eas : List Nat) (pack : List Nat → Val) : State :=
  if s.phase != 0 then s.retire
  else
    let n := s.cur.core
    let k := s.cur.slot
    let ctx := s.me.cr.ctx.toNat
    match s.lanesOf ctx ty eas with
    | (s, .error m) => s.miss m
    | (s, .ok ls) =>
      let misaligned := (ls.filter fun l => l.dec.isNone && l.ea % alignOf ty != 0).map Lane.ea
      match misaligned with
      | a :: as => s.raise .align (BitVec.ofNat 64 (as.foldl min a))
      | [] =>
        let dws := ls.flatMap Lane.dws
        if !s.me.streamsDone then s.block .copqDrained 0
        else if dws.any s.strong && s.me.sosOut != 0 then s.block .sos 0
        else
          match s.loadDws n k ctx dws with
          | (s, .error m) => s.miss m
          | (s, .ok ds) =>
            let vs := ls.map (laneValue ds ty)
            let bad := ((ls.zip vs).find? fun p => p.2.2.1).map fun p => p.1.ea
            let f := vs.foldl (fun f v => f ||| v.2.2) 0
            s.sendLoad d (pack (vs.map Prod.fst)) bad f dws

/-- A loaded value extended by its type (R253). -/
def extendTy (ty : Ty) (v : Nat) : Val :=
  if ty == .b128 then BitVec.ofNat 2048 v else (ty.res (v : Int)).setWidth 2048

/-- The destination of a load. -/
def State.destD (s : State) (a : DReg) : Dest :=
  match a with
  | .x r => s.destX r
  | .v r => destV r

/-- Combining load of one value (R253, R254). -/
def State.loadAt (s : State) (ty : Ty) (a : DReg) (ea : Nat) : State :=
  s.loadLanes ty (s.destD a) [ea] fun vs => extendTy ty (vs.headD 0)

/-- LD (R253). -/
def execLd (ty : Ty) (a : DReg) (b : XReg) (imm : Word) (s : State) : Host.Outcome State Fault Refusal :=
  .next (s.loadAt ty a (eaDisp (s.x b) imm))

/-- LD, indexed (R253). -/
def execLdIndexed (ty : Ty) (a : DReg) (b c : XReg) (isc : BitVec 3) (s : State) : Host.Outcome State Fault Refusal :=
  .next (s.loadAt ty a (eaIndex (s.x b) (s.x c) isc))

/-- A read cache keeps a line: 64 KiB of lines of 64 bytes (R113). -/
def keepLine (m : SMap (BitVec 512)) (f : Nat × BitVec 512) : SMap (BitVec 512) :=
  put (if (find? m f.1).isNone && 1024 ≤ m.length then m.tail else m) f.1 f.2

/-- LOAD_RESULT_RETURN (R118, R119, R130): the value is delivered and the read marks go; the read cache keeps the lines; a
poisoned result raises POISON at the load and writes no register. -/
def execLoadResultReturn (s : State) : Host.Outcome State Fault Refusal :=
  match s.ev with
  | .loadResultReturn n k tag =>
    let t := s.thr n k
    match t.loads.find? fun l => l.tag == tag with
    | none => .next s
    | some l =>
      let s := s.modThr n k fun t => { t with loads := t.loads.filter fun x => x.tag != tag }
      match l.val with
      | some v =>
        let s := s.modCore n fun c => { c with rcache := l.fills.foldl keepLine c.rcache }
        .next ((s.modThr n k fun t => { t with flags := t.flags ||| l.flags }).fill n k tag v)
      | none =>
        let s := s.modThr n k fun t => { t with pend := t.pend.filter fun w => w.tag != tag, groupLen := t.groupLen - 1 }
        .next (s.takeTrap n k ⟨.poison, false, BitVec.ofNat 64 l.va, t.pc⟩)
  | _ => .next s

/-- Writes a loaded value that is known at issue. -/
def State.writeD (s : State) (a : DReg) (ty : Ty) (v : Nat) : State :=
  match a with
  | .x r => s.wx r ((extendTy ty v).setWidth 64)
  | .v r => s.wv r (extendTy ty v)

/-- Alignment, then the protection unit (R252). -/
def State.lsTyped (s : State) (ty : Ty) (off : Nat) (write : Bool) : Option (Cause × Word) :=
  s.lsAligned off ty.bytes (alignOf ty) write

/-- LD from the local store (R256). -/
def execLdLs (ty : Ty) (a : DReg) (b : XReg) (imm : Word) (s : State) : Host.Outcome State Fault Refusal :=
  let off := (s.x b + imm).toNat
  match s.lsTyped ty off false with
  | some (c, v) => .next (s.raise c v)
  | none => .next (s.writeD a ty (s.myCore.lsNum off ty.bytes)).retire

/-- ST to the local store (R256). -/
def execStLs (ty : Ty) (a : DReg) (b : XReg) (imm : Word) (s : State) : Host.Outcome State Fault Refusal :=
  let off := (s.x b + imm).toNat
  match s.lsTyped ty off true with
  | some (c, v) => .next (s.raise c v)
  | none => .next (s.modMyCore fun c => c.lsWrite off (leBytes ty.bytes (s.data a))).retire

/-- The handle of an operand: its low 16 bits (R256). -/
def handleOf (x : Word) : Word := BitVec.ofNat 64 (x.toNat % 2 ^ 16)

/-- An access through a handle with the order of R252: HANDLE, ALIGN, guard granule, access. -/
def State.handleDo (s : State) (ty : Ty) (h : Word) (o : Int) (guard : State → State) (go : Nat → Nat → State) : State :=
  let v := s.handleEntry (clusterOf s.cur.core) (bitsOf h.toNat 0 9)
  let place : Int := 64 * (bitsOf v.toNat 49 12 : Nat) + o
  match s.handleAcc h o ty.bytes with
  | .fault tval => s.raise .handle tval
  | r =>
    if place % alignOf ty != 0 then s.raise .align (BitVec.ofInt 64 place)
    else
      match r with
      | .guard bank at' => guard (s.guardTouch bank at')
      | .ok core off => go core off
      | .fault tval => s.raise .handle tval

/-- A load through a handle (R256). -/
def State.loadHandle (s : State) (ty : Ty) (a : DReg) (h : Word) (o : Int) : State :=
  s.handleDo ty h o (fun s => (s.writeD a ty 0).retire) fun core off =>
    (s.writeD a ty ((s.coreAt core).lsNum off ty.bytes)).retire

/-- A store through a handle (R256). -/
def State.storeHandle (s : State) (ty : Ty) (a : DReg) (h : Word) (o : Int) : State :=
  s.handleDo ty h o (fun s => s.retire) fun core off =>
    (s.storeLs s.cur.core s.cur.slot core off (leBytes ty.bytes (s.data a))).retire

/-- LD [xh:disp] (R256). -/
def execLdHandleDisp (ty : Ty) (a : DReg) (b : XReg) (imm : Word) (s : State) : Host.Outcome State Fault Refusal :=
  .next (s.loadHandle ty a (handleOf (s.x b)) (toSigned 32 imm.toNat))
/-- LD [xh:xo] (R256). -/
def execLdHandleReg (ty : Ty) (a : DReg) (b c : XReg) (s : State) : Host.Outcome State Fault Refusal :=
  .next (s.loadHandle ty a (handleOf (s.x b)) (toSigned 32 (s.x c).toNat))
/-- ST [xh:disp] (R256). -/
def execStHandleDisp (ty : Ty) (a : DReg) (b : XReg) (imm : Word) (s : State) : Host.Outcome State Fault Refusal :=
  .next (s.storeHandle ty a (handleOf (s.x b)) (toSigned 32 imm.toNat))
/-- ST [xh:xo] (R256). -/
def execStHandleReg (ty : Ty) (a : DReg) (b c : XReg) (s : State) : Host.Outcome State Fault Refusal :=
  .next (s.storeHandle ty a (handleOf (s.x b)) (toSigned 32 (s.x c).toNat))

/-- Addresses of the lanes of a gather or scatter, in lane order (R260). -/
def State.laneAddrs (s : State) (ty : Ty) (b : XReg) (c : VReg) (idx : Idx) : List Nat :=
  let rb := s.me.rb
  let i := 2 ^ idx.iw.toNat
  let base := s.x b
  (List.range (min (rb / ty.bytes) (rb / i))).map fun j =>
    let raw := bitsOf (s.vec c).toNat (8 * i * j) (8 * i)
    let v : Word := if idx.is then BitVec.ofInt 64 (toSigned (8 * i) raw) else BitVec.ofNat 64 raw
    eaIndex base v idx.isc

/-- GATHER (R260). -/
def execGather (ty : Ty) (a : VReg) (b : XReg) (c : VReg) (idx : Idx) (s : State) : Host.Outcome State Fault Refusal :=
  let eas := s.laneAddrs ty b c idx
  .next (s.loadLanes ty (destV a) eas fun vs =>
    BitVec.ofNat 2048 ((vs.zipIdx).foldl (fun n (v, j) => n + v * 2 ^ (ty.width * j)) 0))

/-- SCATTER (R260): every lane is checked first. -/
def execScatter (ty : Ty) (op : MOp) (t : Bool) (a : VReg) (b : XReg) (c : VReg) (idx : Idx) (s : State) :
    Host.Outcome State Fault Refusal :=
  let eas := s.laneAddrs ty b c idx
  match eas.filter fun ea => ea % alignOf ty != 0 with
  | x :: xs => .next (s.raise .align (BitVec.ofNat 64 (xs.foldl min x)))
  | [] =>
    let v := (s.vec a).toNat
    .next (s.store op t true ((eas.zipIdx).flatMap fun (ea, j) => elemsOf ty ea (bitsOf v (ty.width * j) ty.width)))

/-- The task that a commit point ended: T of R259, whose serial is the one before. -/
def State.endedToken (s : State) (n k : Nat) : BitVec 40 :=
  BitVec.ofNat 40 (n * 2 ^ 28 + k * 2 ^ 24 + (look (s.coreAt n).serial k 0 - 1).toNat)

/-- FETCH (R259): the commit point; the key's chain moves out of stall and shed, and is forwarded; the step at home, which a
pair makes once (log 33); then the old value. The unit is held as a pinned unit from the prepare to the value's return. -/
def execFetch (ty : Ty) (_op : MOp) (a b c : XReg) (s : State) : Host.Outcome State Fault Refusal :=
  let n := s.cur.core
  let k := s.cur.slot
  let _ := c
  let ea := (s.x b).toNat % 2 ^ 57
  let key := BitVec.ofNat 64 (keyOf s.me.cr.ctx.toNat ea)
  if ea % alignOf ty != 0 then .next (s.raise .align (BitVec.ofNat 64 ea))
  else
    match s.phase with
    | 0 => .next s.commitStart
    | 1 => .next ((s.modMe fun t => { t with commit := .idle }).block .flipped 2)
    | 2 =>
      let (s, m1) := if (chain s.myCore.stall key).isEmpty then (s, true)
        else if s.shedOpen (clusterOf n) then s.moveStallKey n key else (s, false)
      let s := s.closeWindow n s.cur.slot
      let (s, m2) := if m1 && s.me.forwarded then s.moveShedKey (clusterOf n) key else (s, false)
      if m2 then
        .next (s.lead fun s => (s.modMe fun t => { t with reply := none }).push [.fetchHomeStep n k] |>.block .reply 3)
      else .next (s.block .fenceTurn 2)
    | _ =>
      let v := s.me.reply.getD 0
      let s := s.modMe fun t => { t with reply := none, pin := false }
      .next ((s.wx a (ty.res (v.toNat : Int))).resumeResult.retire)

/-- The resume record of a fetch whose entry has been appended: behind it, with its value (R44, R259). -/
def State.fetchResume (s : State) (a : XReg) (v : Word) : State :=
  let r := (s.wx a v).resumeResult.me.resume
  s.modMe fun t => { t with resume := r }

/-- A fetch finds a poisoned value: it raises POISON, in each copy of a pair, and the unit is pinned no longer. -/
def State.fetchPoison (s : State) (ea : Nat) : State :=
  let one (s : State) (n k : Nat) : State :=
    match (s.thr n k).blocked with
    | some iss =>
      (({ s with cur := ⟨n, k, iss⟩ } : State).modMe fun t => { t with pin := false, blocked := none, wait := .none }).raise .poison
        (BitVec.ofNat 64 ea)
    | none => s
  let n := s.cur.core
  let k := s.cur.slot
  let m := s.mateAt n k
  let s := one s n k
  match m with
  | some (a, j) => one s a j
  | none => s

/-- FETCH_HOME_STEP (R259, R97): in one step at the home yard the old value is formed from home and the committed entries
there, and the committed entry is appended, checked as one that enters the yard (R104); it waits behind entries held at the
yard's input. A poisoned old value appends nothing and raises POISON. -/
def execFetchHomeStep (s : State) : Host.Outcome State Fault Refusal :=
  match s.ev with
  | .fetchHomeStep n k =>
    match (s.thr n k).blocked with
    | none => .next s
    | some iss =>
      match iss.instr with
      | .fetch ty op a b c =>
        let s := { s with cur := ⟨n, k, iss⟩ }
        let ctx := s.me.cr.ctx.toNat
        let ea := (s.x b).toNat % 2 ^ 57
        let w := ty.bytes == 8
        let die := (s.route ctx ea).home
        let again (s : State) : State := s.modMe fun t => { t with blocked := some { iss with phase := 2 } }
        let later (s : State) : State := (again s).modMe fun t => { t with wait := .fenceTurn }
        let kk := keyOf ctx ea
        let miss (s : State) (r : Tr) (held : Bool) : State := (again s).accessMiss n k ⟨die, ctx, ea, r, held⟩ 1
        if (s.dieAt die).isFrozen ctx ea then .next (miss s (.absent 0 0 0) true)
        else if (s.dieAt die).heldAt.any (·.1.key == BitVec.ofNat 64 kk) then .next (later s)
        else
          match s.xlate die ctx ea .wr with
          | (s, .ok pa leaf leafAt _) =>
            match s.sectorRead (pa / 64) (.core n false (s.endedToken n k)) with
            | (s, true) => .next (miss s (.absent 0 0 0) true)
            | (s, false) =>
              let (old, psn) := (combineLevels (s.homeDw leaf pa) (s.homeLevels die kk [])).element kk w
              if psn then .next (s.fetchPoison ea)
              else
                let bits := (s.x c).toNat % 2 ^ ty.width
                let (s1, e) := s.update n k op false ea w bits
                let e := { e with tent := false, task := s.endedToken n k }
                -- the committed entry is counted directly into SUM
                let s2 := ((s1.modCore n fun x => { x with mon := (s.coreAt n).mon }).monitor n k op w ea bits true)
                let s2 := if e.ord.toNat != leafOrd leaf then s2.postUnit e 3 6 0 e.val else s2
                let s2 := if e.op.isFx && e.wexp != leafWexp leaf then s2.postUnit e 3 4 0 e.val else s2
                match ((s2.dropReplicas ctx ea).setDirty leafAt).yardInsert die { e with ord := BitVec.ofNat 2 (leafOrd leaf) } with
                | some s3 =>
                  .next (((s3.yardFill die).fetchResume a (ty.res (old : Int))).answer n k (BitVec.ofNat 64 old))
                | none => .next (later s)
          | (s, r) => .next (miss s r false)
      | _ => .next s
  | _ => .next s

/-- The first misaligned offset of a transposed load (R262). -/
def ldtMisaligned (xa xp : Word) (k : Nat) : Option Word :=
  if xa.toNat % k != 0 then some xa else if xp.toNat % k != 0 then some (xa + xp) else none

/-- LDT (R262): a 16 by 4 block of the local store, transposed into registers. -/
def execLdt (ty : Ty) (a : VReg) (b c : XReg) (s : State) : Host.Outcome State Fault Refusal :=
  let k := ty.bytes
  let xa := s.x b
  let xp := s.x c
  let at' (r cc : Nat) : Nat := (xa + BitVec.ofNat 64 r * xp + BitVec.ofNat 64 (cc * k)).toNat
  match ldtMisaligned xa xp k with
  | some v => .next (s.raise .align v)
  | none =>
    let places := (List.range 16).flatMap fun r => (List.range 4).map fun cc => (r, cc)
    let bad := places.filterMap fun (r, cc) => (s.lsCheck (at' r cc) k false).map fun p => p.2.toNat
    match bad with
    | x :: xs => .next (s.raise .lsProt (BitVec.ofNat 64 (xs.foldl min x)))
    | [] =>
      let v := places.foldl (fun n (r, cc) => n + s.myCore.lsNum (at' r cc) k * 2 ^ (8 * ((cc * 16 + r) * k))) 0
      match a with
      | .w _ => .next (s.wv a (BitVec.ofNat 2048 v)).retire
      | .v m =>
        let s := (List.range (2 * k)).foldl (fun s i =>
          s.wr (.v (m.toNat + i)) (BitVec.ofNat 2048 (bitsOf v (256 * i) 256))) s
        .next s.retire
      | .s _ => .next s.retire

/-- PREFETCH (R264): it may fill the line or do nothing; it never faults. -/
def execPrefetch (b : XReg) (imm : Word) (s : State) : Host.Outcome State Fault Refusal :=
  let ea := eaDisp (s.x b) imm
  let ctx := s.me.cr.ctx.toNat
  let here := match s.walk ctx ea .rd with
    | .ok _ _ _ _ => true
    | _ => false
  if here && (s.route ctx ea).ord != 1 && Config.prefetchFills s.fresh then
    match s.tick.lineFill s.cur.core s.cur.slot ctx ea .prefetch with
    | (s, some f) => .next (s.modMyCore fun c => { c with rcache := keepLine c.rcache f }).retire
    | (s, none) => .next s.retire
  else .next s.tick.retire

end Sys2Proof.Machine
end

