-- ==== Sys2Proof/Machine/Sync.lean ====
section
/-! DEFINITION. Synchronisation: commit points and their messages (R122, R123, R139), fences (R142 to R148, R266 to R268),
barriers (R269 to R272), drains (R265) and handle transfers (R273, R274). -/

namespace Sys2Proof.Machine

/-- The implicit commit of these instructions comes before their own effect, so their resume record starts at them; so does
that of a `bar` and of an `xmax` (R44, R270, R292), and of a `fetch` until its entry has been appended (R259). -/
def resumesHere (i : Instr) : Bool :=
  match i with
  | .st .. | .stIndexed .. | .scatter .. | .fetch .. | .ctadd .. | .ctcancel .. | .ctread .. | .fqrd .. | .bar .. | .xmax .. => true
  | _ => false

/-- These act between the commit's prepare and its end (R340). -/
def actsPrepared (i : Instr) : Bool :=
  match i with
  | .msend .. | .mrecv .. => true
  | _ => false

/-- The acquire's action of a scope (R143). -/
def State.acquire (s : State) (sc : Scope) : State :=
  let n := s.cur.core
  let ctx := s.me.cr.ctx.toNat
  match sc with
  | .thread | .core => s
  | .cluster | .die => s.dropLines n ctx false
  | .device | .system => (s.dropLines n ctx false).dropControl n ctx

/-- A cancel has been seen by a thread that starts to wait where a cancel aborts its task (R51). -/
def State.waitCancel (s : State) : State :=
  if s.me.cancelled then s.push [.taskAbort s.cur.core s.cur.slot .cancel] else s

/-- COMMIT (R266). -/
def execCommit (s : State) : Host.Outcome State Fault Refusal := s.withCommit fun s => .next s.retireCommit

/-- FENCE_REL (R267). -/
def execFenceRel (sc : Scope) (s : State) : Host.Outcome State Fault Refusal :=
  s.withRelease sc false fun s => .next s.retireCommit

/-- FENCE_ACQ (R143, R267, R319): every earlier load, those of streams with it, has returned. -/
def execFenceAcq (sc : Scope) (s : State) : Host.Outcome State Fault Refusal :=
  if !s.me.loads.isEmpty then .next (s.block .loads 0)
  else if !s.me.streamsDone then .next (s.block .copqDrained 0)
  else .next (s.acquire sc).retire

/-- FENCE_AR (R144): the release is started at the commit point, the acquire made, and the release goes on behind the
thread. -/
def execFenceAr (sc : Scope) (s : State) : Host.Outcome State Fault Refusal :=
  s.withCommit fun s => .next ((s.modMe fun t => { t with arRel := some (sc, false) }).acquire sc).retireCommit

/-- A scope of `fence.sc` that also waits for unordered updates (R144). -/
def Scope.wide : Scope → Bool
  | .thread | .core | .cluster => false
  | .die | .device | .system => true

/-- FENCE_SC (R144): the release, then the acquire; the fences complete one at a time. -/
def execFenceSc (sc : Scope) (s : State) : Host.Outcome State Fault Refusal :=
  s.withRelease sc (Scope.wide sc) fun s =>
    .next ((s.modIo fun io => { io with serialFence := io.serialFence + 1 }).acquire sc).retireCommit

/-- FENCE_X (R148, R268). -/
def execFenceX (ea _eb : Engine) (s : State) : Host.Outcome State Fault Refusal :=
  if s.phase != 0 || s.engineDone s.cur.core s.cur.slot ea then .next s.retire
  else
    match ea with
    | .fl => .next (s.block (.flue (s.io.flueDone + 1)) 1)
    | e => .next (s.block (.engine e) 0)

/-- The release that `fence.ar` started goes one step further (R117, R142, R144). -/
def State.arStep (s : State) (n k : Nat) : State :=
  let t := s.thr n k
  let finish (s : State) : State := s.modThr n k fun t => { t with arRel := none }
  match t.arRel with
  | none => s
  | some (sc, asked) =>
    if t.flip.isSome then s
    else
      match sc with
      | .thread | .core => finish s
      | _ =>
        if asked then (if t.applyOut == 0 && (sc != .system || !s.putsLeft n k) then finish s else s)
        else
          let s := s.releaseMoves n k sc false
          if sc == .cluster then (if s.stallGone n k then finish s else s)
          else if s.unitInRuns n k false then s
          else if sc == .die then finish s
          else
            (s.modThr n k fun t => { t with arRel := some (sc, true), applyOut := 4 }).push
              ((List.range 4).map fun d => .releaseApply d t.cr.owner n k)

/-- COMMIT_PREPARE (R46, R122): one probe for each page among the task's entries, at the page's home; a page that is not
resident, or a refused translation, aborts the task, or holds a pinned unit's prepare. A frozen page's probe waits for
its new home (R132, R170), one that meets a 257th page is asked again (R166), and the prepare waits for the windows of a pair to be forwarded (R179). -/
def execCommitPrepare (s : State) : Host.Outcome State Fault Refusal :=
  match s.ev with
  | .commitPrepare n k =>
    let t := s.thr n k
    if t.commit != .preparing || !t.forwarded then .next s
    else
      let pages := pagesOf (s.entriesOf (s.token n k))
      let home (ctx va : Nat) : Nat := (s.route ctx va).home
      if pages.any fun (ctx, va) => (s.dieAt (home ctx va)).isFrozen ctx va then .next s
      else
        let (s, bad) := pages.foldl (fun (acc : State × Option LoadMiss) (ctx, va) =>
          match acc.2 with
          | some _ => acc
          | none =>
            let die := home ctx va
            match acc.1.xlate die ctx va .wr with
            | (s, .ok _ _ _ _) => (s, none)
            | (s, r) => (s, some ⟨die, ctx, va, r, false⟩)) (s, none)
        match bad with
        | none => .next (s.push [.prepareAnswer n k true])
        | some m =>
          let hold (s : State) : State := s.modThr n k fun t => { t with commit := .held m.die m.ctx m.va }
          let tok := s.token n k
          let onPage (cause lvl val : Nat) : State :=
            let w0 := supWord 1 cause 1 lvl m.die tok
            if !s.waitRoom m.die m.ctx m.va then s
            else if t.pin then (hold s).waitOn m.die m.ctx m.va [.thread n k] w0 val
            else (s.waitOn m.die m.ctx m.va [] w0 val).push [.taskAbort n k (.page m.die m.ctx m.va)]
          match m.tr with
          | .absent lvl v _ => .next (onPage 1 lvl (bitsOf v.toNat 0 64))
          | .refused c lvl v =>
            if c = 5 || c = 6 then
              .next ((s.postRefused c 1 lvl m.die tok m.ctx m.va v).push [.taskAbort n k .refused])
            else .next (onPage c lvl v.toNat)
          | .ok _ _ _ _ => .next s
  | _ => .next s

/-- The unit is held as a pinned one from the prepare of these to their end (R259). -/
def pinsOn (i : Instr) : Bool :=
  match i with
  | .fetch .. => true
  | _ => false

/-- PREPARE_ANSWER (R44, R97, R101, R122): the commit can no longer fail; `msend` and `mrecv` complete it when they have
acted (R340). -/
def execPrepareAnswer (s : State) : Host.Outcome State Fault Refusal :=
  match s.ev with
  | .prepareAnswer n k true =>
    let t := s.thr n k
    if t.commit != .preparing then .next s
    else
      match t.pipeCommit.or t.blocked with
      | none => .next s
      | some iss =>
        let after := iss.pc + BitVec.ofNat 57 iss.hdr.len.bytes
        if actsPrepared iss.instr then .next (s.modThr n k fun t => { t with commit := .prepared })
        else .next ((s.commitDone n k (if iss.pipe then iss.pc else if resumesHere iss.instr then t.pc else after)).modThr n k fun t =>
          { t with pin := pinsOn iss.instr })
  | _ => .next s

/-- COMMIT_FLIP (R122): every run commits the task's entries; a strongly ordered chain may then move on. -/
def execCommitFlip (s : State) : Host.Outcome State Fault Refusal :=
  match s.ev with
  | .commitFlip n k task => .next ((s.flipTask task).retryMoves.push [.flipAcknowledge n k task])
  | _ => .next s

/-- FLIP_ACKNOWLEDGE (R122): the commit is complete. -/
def execFlipAcknowledge (s : State) : Host.Outcome State Fault Refusal :=
  match s.ev with
  | .flipAcknowledge n k task =>
    let s := s.modCluster (clusterOf n) fun c => { c with dmask := del c.dmask task.toNat }
    .next (s.modThr n k fun t => { t with flip := if t.flip == some task then none else t.flip })
  | _ => .next s

/-- RELEASE_APPLY (R109, R117): the yard applies the unit's committed immediate and insert entries, each chain in order; one
behind a tentative entry is left, to be applied once that one is gone. It answers when no other is left, nor parked for its
page (R124). -/
def execReleaseApply (s : State) : Host.Outcome State Fault Refusal :=
  match s.ev with
  | .releaseApply die unit n k =>
    let d := s.dieAt die
    let mine (e : Entry) : Bool := !e.tent && !e.op.isFx && e.units.contains unit
    let keys := keysOf ((d.blocks.flatten ++ d.yard).filter mine)
    let s := keys.foldl (fun s key => s.applyKey die key mine) s
    let d := s.dieAt die
    let parked := d.waits.any fun w => w.items.any fun
      | .entry e _ true => mine e
      | _ => false
    if parked || keys.any fun key => (d.applicable key).any mine then .next (s.retryMoves.defer (.releaseApply die unit n k))
    else
      let hold (l : List Entry) : List Entry := mapIf mine (fun e => { e with mark := true }) l
      let s := s.modDie die fun d => { d with yard := hold d.yard, blocks := d.blocks.map hold }
      .next ((s.modThr n k fun t => { t with applyOut := t.applyOut - 1 }).retryMoves)
  | _ => .next s

/-- SOS_ACKNOWLEDGE (R131, R139, R167): an update is acknowledged, or a refusal ends the unit. -/
def execSosAcknowledge (s : State) : Host.Outcome State Fault Refusal :=
  match s.ev with
  | .sosAcknowledge n k unit good =>
    if (s.thr n k).status == .free || (s.thr n k).cr.owner != unit then .next s
    else
      let s := s.modThr n k fun t => { t with sosOut := t.sosOut - 1 }
      let s := match s.mateAt n k with
        | some (m, j) => s.modThr m j fun t => { t with sosOut := t.sosOut - 1 }
        | none => s
      if good then .next s
      else .next (s.push [.taskAbort n k .refused])
  | _ => .next s

/-- Joins the list of a page that moves to a die, which posts no record (R170). -/
def State.moveWait (s : State) (die ctx va : Nat) (w : List Waiter) : State :=
  s.modDie die fun d =>
    { d with
      waits := if d.waits.any (·.isPage ctx va) then
          mapIf (·.isPage ctx va) (fun l => { l with items := l.items ++ w }) d.waits
        else d.waits ++ [⟨ctx, va % 2 ^ 57 / 4096, w⟩] }

/-- What becomes of an aborted unit's record (R46, R50, R51, R64, R68, R123, R167, R177, R182). -/
def State.abortEnd (s : State) (n k : Nat) (why : AbortWhy) : State :=
  let t := s.thr n k
  let trap := t.trapReq
  let tok := s.token n k
  let (s, r) := s.abortTask n k
  match why with
  | .page die ctx va => s.recordWait die ctx va r
  | .keyErase | .vacate => s.insertHeld r
  | .migration die ctx va => s.moveWait die ctx va [.record r]
  | .refused => s.unitEnd r (.ended false)
  | .cancel => s.unitEnd r (.ended true)
  | .kill => s.launchFaults r.ctx r.launch 1
  | .teardown | .pairing => s
  | .double =>
    let (code, val) := match trap with
      | some q => (q.cause.code, q.tval.toNat)
      | none => (0, 0)
    let s := s.tick
    (s.unitEnd r (.ended false)).postSup (supWord 3 code (Config.recordField (s.fresh - 1) % 8) 0 (dieOf n) tok)
      (Config.recordField s.fresh) val

/-- The abort of a task (R123): a mate's copy ends with it. -/
def State.abort (s : State) (n k : Nat) (why : AbortWhy) : State :=
  let t := s.thr n k
  if t.status == .free then s
  else
    let s := s.abortEnd n k why
    match t.mate with
    | some (m, j) => if (s.thr m j).mate == some (n, k) then (s.abortTask m j).1 else s
    | none => s

/-- The thread's arrival at a barrier or its contribution to an exchange stands: a last one that comes in this cycle still opens
or completes it before the thread's abort (R272, R297). -/
def State.abortLater (s : State) (n k : Nat) : Bool :=
  s.inTurns && (s.thr n k).status != .free && ((s.thr n k).barAt.isSome || (s.coreAt n).xpend == some k)

/-- TASK_ABORT (R123, R272, R297). -/
def execTaskAbort (s : State) : Host.Outcome State Fault Refusal :=
  match s.ev with
  | .taskAbort n k why => .next (if s.abortLater n k then s.defer s.ev else s.abort n k why)
  | _ => .next s

/-- ABORT_NOTICE_ARRIVAL (R123): the core aborts the task that the notice names, if it still runs. -/
def execAbortNoticeArrival (s : State) : Host.Outcome State Fault Refusal :=
  match s.ev with
  | .abortNoticeArrival task why =>
    let n := tokCore task
    let k := tokSlot task
    if (s.thr n k).status != .free && s.token n k == task then .next (s.abort n k why) else .next s
  | _ => .next s

/-- The barrier point of a scope (R269). -/
def barPointOf (sc : Scope) (core : Nat) : BarPoint :=
  match sc with
  | .thread | .core => .core core
  | .cluster => .cluster (clusterOf core)
  | .die => .die (dieOf core)
  | .device | .system => .device

/-- Open generations that a point can hold (R269). -/
def barRoom : BarPoint → Nat
  | .core _ => 16
  | .cluster _ => 64
  | .die _ => 256
  | .device => 1024

/-- The open generations of a point. -/
def State.barsAt (s : State) : BarPoint → List Gen
  | .core c => (s.coreAt c).bars
  | .cluster c => (s.clusterAt c).bars
  | .die d => (s.dieAt d).bars
  | .device => s.io.bars

/-- Writes the open generations of a point. -/
def State.setBars (s : State) (p : BarPoint) (l : List Gen) : State :=
  match p with
  | .core c => s.modCore c fun x => { x with bars := l }
  | .cluster c => s.modCluster c fun x => { x with bars := l }
  | .die d => s.modDie d fun x => { x with bars := l }
  | .device => s.modIo fun io => { io with bars := l }

/-- What a core contributes of a monitor (R270). -/
def contribOf (m : Monitor) : MonContrib where
  sum := m.sum
  ref := m.ref
  bound := m.cfg.setWidth 64
  mexp := BitVec.ofNat 8 (bitsOf m.cfg.toNat 120 8)
  ovf := m.cfg.getLsbD 66
  en := m.cfg.getLsbD 64

/-- Delivers the late causes due at a `bar` (R91, R129, R270): the first at its exit, the others held. -/
def State.retireBar (s : State) : State :=
  let t := s.me
  let pc := s.nextPc
  let causes : List TrapReq :=
    (match t.consPend with
      | some f => [⟨.conservation, true, f.setWidth 64, pc⟩]
      | none => [])
    ++ (match t.mergePend with
      | some n => [⟨.mergeOp, true, BitVec.ofNat 64 n, pc⟩]
      | none => [])
    ++ (if t.guard.pending then
        [⟨.guard, true, BitVec.ofNat 64 (t.guard.bank.toNat * 2 ^ 32 + t.guard.off.toNat), pc⟩] else [])
  match causes with
  | [] => s.retire
  | r :: rest =>
    let s := s.retire
    let s := if s.me.intrap || s.me.wait == .parked then s.dueLate r else s
    let s := rest.foldl (fun s r =>
      s.modMe fun t => { t with heldLate := if t.heldLate.contains r.cause then t.heldLate else t.heldLate ++ [r.cause] }) s
    if s.me.intrap || s.me.wait == .parked then s else s.dueLate r

/-- BAR (R270): the release, the arrival, the wait, the acquire, the late causes. -/
def execBar (sc : Scope) (b : XReg) (imm : BitVec 23) (s : State) : Host.Outcome State Fault Refusal :=
  s.withRelease sc false fun s =>
    let n := s.cur.core
    let k := s.cur.slot
    if s.phase = 7 then .next (s.acquire sc).retireBar
    else
      let g := imm.toNat / 16
      let mask := BitVec.ofNat 4 imm.toNat
      let p := barPointOf sc n
      let mons := (List.range 4).map fun i => contribOf (look s.myCore.mon i Monitor.reset)
      let a : Arrival := ⟨n, k, (s.x b).setWidth 32, mask, mons⟩
      .next ((((s.modMe fun t => { t with barAt := some (p, g) }).push
        [.barrierArrival p s.me.cr.ctx.toNat g a]).block .barrier 7).waitCancel)

/-- N of a generation; 0 acts as 1 (R269). -/
def Gen.need (g : Gen) : Nat := max g.n 1

/-- A generation reaches its N and opens, before a withdrawal of the same cycle (R270, R272). -/
def State.barCheck (s : State) (p : BarPoint) (ctx g : Nat) : State :=
  match (s.barsAt p).find? fun x => x.ctx == ctx && x.g == g with
  | some x => if x.need ≤ x.arrivals.length then s.pushFront [.barrierGenerationOpen p ctx g] else s
  | none => s

/-- BARRIER_ARRIVAL (R269): counted in its generation, or opening a new one; at a full point the thread waits. -/
def execBarrierArrival (s : State) : Host.Outcome State Fault Refusal :=
  match s.ev with
  | .barrierArrival p ctx g a =>
    let t := s.thr a.core a.slot
    if t.barAt != some (p, g) then .next s
    else
      let l := s.barsAt p
      let same (x : Gen) : Bool := x.ctx == ctx && x.g == g
      if l.any same then
        .next ((s.setBars p (mapIf same (fun x => { x with arrivals := x.arrivals ++ [a] }) l)).barCheck p ctx g)
      else if l.length < barRoom p then
        .next ((s.setBars p (l ++ [⟨ctx, g, a.n.toNat, [a]⟩])).barCheck p ctx g)
      else
        .next (s.modThr a.core a.slot fun t =>
          { t with wait := .barrierRoom, barAt := none, blocked := t.blocked.map fun i => { i with phase := 6 } })
  | _ => .next s

/-- The last arrival of each core, lowest core first (R271). -/
def lastByCore (l : List Arrival) : List Arrival :=
  let cores := l.foldl (fun r a => insertNat a.core r) []
  cores.filterMap fun c => l.reverse.find? fun a => a.core == c

/-- A value of weight 2^MEXP in units of 2^-128. -/
def unitsOf (v : Int) (mexp : BitVec 8) : Int := v * 2 ^ (mexp.toInt + 128).toNat

/-- Whether a monitor fails over the contributions to a generation (R271). -/
def monFails (l : List MonContrib) : Bool :=
  let on := l.filter MonContrib.en
  match on with
  | [] => false
  | m :: _ =>
    let total := on.foldl (fun t c => t + unitsOf c.sum.toInt c.mexp) 0
    let bound := unitsOf (m.bound.toNat : Int) m.mexp
    bound < ((total - unitsOf m.ref.toInt m.mexp).natAbs : Int) || l.any MonContrib.ovf

/-- The monitors of a generation that fail (R271). -/
def judge (l : List Arrival) : BitVec 4 :=
  let last := lastByCore l
  (List.range 4).foldl (fun f i =>
    let cs := last.filterMap fun a => if a.mask.getLsbD i then a.mons[i]? else none
    if monFails cs then f ||| BitVec.ofNat 4 (2 ^ i) else f) 0

/-- BARRIER_GENERATION_OPEN (R270, R271): the first N arrivals leave with the judgement; the others start the next
generation. -/
def execBarrierGenerationOpen (s : State) : Host.Outcome State Fault Refusal :=
  match s.ev with
  | .barrierGenerationOpen p ctx g =>
    let l := s.barsAt p
    let same (x : Gen) : Bool := x.ctx == ctx && x.g == g
    match l.find? same with
    | none => .next s
    | some x =>
      if x.arrivals.length < x.need then .next s
      else
        let go := x.arrivals.take x.need
        let rest := x.arrivals.drop x.need
        let failed := judge go
        let s := s.setBars p (match rest with
          | [] => l.filter fun y => !same y
          | a :: _ => mapIf same (fun y => { y with n := a.n.toNat, arrivals := rest }) l)
        let s := go.foldl (fun s a => s.modThr a.core a.slot fun t =>
          { t with
            barAt := none
            consPend := if failed == 0 then t.consPend else some (t.consPend.getD 0 ||| failed) }) s
        .next (s.barCheck p ctx g)
  | _ => .next s

/-- The keys that a drain names in a run: those whose granule meets the range (R265). -/
def namedKeys (ctx base len : Nat) (l : List Entry) : List Word :=
  keysOf (l.filter fun e => e.ctx == ctx && base < e.va + 4 && e.va < base + len)

/-- A chain of a run holds a committed entry. -/
def hasCommitted (run : List Entry) (key : Word) : Bool := (chain run key).any fun e => !e.tent

/-- Starts a drain (R265): the core's stall run moves the named chains that hold a committed entry; once they have been
forwarded (R179), the request goes to the shed. -/
def State.drainStart (s : State) (apply : Bool) (sc : Scope) (b c : XReg) : State :=
  let n := s.cur.core
  let k := s.cur.slot
  let ctx := s.me.cr.ctx
  let base := (s.x b).toNat % 2 ^ 57
  let len := (s.x c).toNat % 2 ^ 32
  if s.phase != 0 then s.retire
  else if len = 0 || sc == .thread || sc == .core then s.retire
  else
    let due (s : State) : List Word :=
      (namedKeys ctx.toNat base len (s.coreAt n).stall).filter (hasCommitted (s.coreAt n).stall)
    let s := if s.shedOpen (clusterOf n) then (due s).foldl (fun s key => (s.moveStallKey n key).1) s else s
    let s := s.closeWindow n k
    if !(due s).isEmpty || !s.me.forwarded then s.block .fenceTurn 0
    else if sc == .cluster then (s.shedFill (clusterOf n)).retire
    else
      let d : DrainReq := ⟨.shed (clusterOf n), ctx, base, len, sc, apply, n, k⟩
      (((s.shedFill (clusterOf n)).modMe fun t => { t with drainOut := 1 }).push [.drainRequestArrival d]).block .drain 1

/-- DRAIN (R265). -/
def execDrain (sc : Scope) (b c : XReg) (s : State) : Host.Outcome State Fault Refusal :=
  .next (s.drainStart false sc b c)
/-- DRAIN, apply (R265). -/
def execDrainApply (sc : Scope) (b c : XReg) (s : State) : Host.Outcome State Fault Refusal :=
  .next (s.drainStart true sc b c)

/-- A part of a drain has been answered. -/
def State.drainAnswer (s : State) (d : DrainReq) : State :=
  s.modThr d.core d.slot fun t => { t with drainOut := t.drainOut - 1 }

/-- DRAIN_REQUEST_ARRIVAL (R265): at the shed the named chains that hold a committed entry move to their home yards; at a
yard the named chains are applied up to the first tentative entry, and with the apply modifier the committed faddx
entries of the deferred set and of its blocks. A chain that cannot move yet keeps the request waiting. -/
def execDrainRequestArrival (s : State) : Host.Outcome State Fault Refusal :=
  match s.ev with
  | .drainRequestArrival d =>
    let ctx := d.ctx.toNat
    match d.at' with
    | .shed cl =>
      let due (s : State) : List Word :=
        (namedKeys ctx d.base d.len (s.clusterAt cl).shed).filter (hasCommitted (s.clusterAt cl).shed)
      let s := (due s).foldl (fun s key => (s.moveShedKey cl key).1) s
      if !(due s).isEmpty then .next (s.defer (.drainRequestArrival d))
      else if d.scope == .die then .next (s.drainAnswer d)
      else
        .next ((s.modThr d.core d.slot fun t => { t with drainOut := t.drainOut + 3 }).push
          ((List.range 4).map fun die => .drainRequestArrival { d with at' := .yard die }))
    | .yard die =>
      let x := s.dieAt die
      let keys := namedKeys ctx d.base d.len (x.blocks.flatten ++ x.yard)
      let fx := if !d.apply then [] else
        (x.dset ++ x.blocks.flatten).filter fun e =>
          e.op == .faddx && !e.tent && !e.mark && (namedKeys ctx d.base d.len [e]).contains e.key
      let s := keys.foldl (fun s key => s.applyKey die key fun e => !e.op.isFx) s
      let s := fx.foldl (fun s e => s.applyFx die e) s
      if fx.any (fun e => s.yardMarked e.key) || keys.any (fun key => !((s.dieAt die).applicable key).isEmpty) then
        .next (s.retryMoves.defer (.drainRequestArrival d))
      else .next (s.drainAnswer d).retryMoves
  | _ => .next s

/-- HGIVE (R273): the first two rows of R90, then the target's form; earlier writes through the handle are performed, and the
holder fields change; accesses of the same cycle still meet the entry as it was (R275). -/
def execHgive (b c : XReg) (s : State) : Host.Outcome State Fault Refusal :=
  let h := handleOf (s.x b)
  let dest := (s.x c).toNat
  let cl := clusterOf s.cur.core
  match s.handleByte h 0 with
  | .fault _ => .next (s.raise .handle h)
  | _ =>
    if dest / 2 ^ 7 ≠ 0 then .next (s.raise .handle h)
    else if !s.me.lsDone then .next ((s.closeWindow s.cur.core s.cur.slot).block .fenceTurn 0)
    else
      let i := bitsOf h.toNat 0 9
      .next (s.modCluster cl fun x =>
        let v := look x.htab i 0
        let v := (v &&& ~~~(BitVec.ofNat 64 (2 ^ 37 - 2 ^ 30))) ||| BitVec.ofNat 64 (bitsOf dest 4 3 * 2 ^ 30 + dest % 16 * 2 ^ 33)
        { x with htab := put x.htab i v, gave := put x.gave i (s.now, look x.htab i 0) }).retire

/-- HTAKE (R274): waits until the entry is valid and names the thread; one that becomes invalid meanwhile raises HANDLE. -/
def execHtake (a b : XReg) (s : State) : Host.Outcome State Fault Refusal :=
  let h := handleOf (s.x b)
  let cl := clusterOf s.cur.core
  let i := h.toNat % 2 ^ 9
  let v := look (s.clusterAt cl).htab i 0
  if h.toNat / 2 ^ 9 ≠ 0 then .next (s.raise .handle h)
  else if s.handleOk cl v then
    if holds v s.me s.cur.core s.cur.slot then
      .next (s.wx a (BitVec.ofNat 64 (64 * bitsOf v.toNat 37 12))).retire
    else .next ((s.block (.handle i) 1).waitCancel)
  else if s.phase = 1 then .next (s.raise .handle h)
  else .next ((s.block (.handle i) 0).waitCancel)

end Sys2Proof.Machine
end

