-- ==== Sys2Proof/Machine/Pipe.lean ====
section
/-! DEFINITION. Coprocessor instructions: their queue, dispatch, completion and faults (R73, R76, R82 to R84), vector mode
and long contexts (R80, R278), and streams as operands (R317 to R321). -/

namespace Sys2Proof.Machine

/-- What a pipe makes of an instruction: its results, in the order of its destinations, with flags; a fault (R83); or a
wait, with the phase at which it goes on. -/
inductive CopOut where
  | ok (s : State) (vals : List Val) (f : Flags)
  | fault (s : State) (swizzle : Bool)
  | hold (s : State) (phase : Nat)
  deriving DecidableEq, Repr

/-- The pipe of an instruction under its thread's mode (R82). -/
def pipeNoOf (t : Thread) (i : Instr) : Nat := if isMatrix i then 2 else if t.mode then 1 else 0

/-- The result goes back as a snapshot write: every one but a long register of a vector instruction (R76, R277, R300). -/
def snapshotDest (i : Instr) (d : Dest) : Bool :=
  match d with
  | .w _ => isMatrix i
  | _ => true

/-- A coprocessor instruction enters its thread's queue (R73): its operands are read, its destinations reserved. -/
def State.copEnter (s : State) (dests : List Dest) : State :=
  let t := s.me
  let i := s.cur.iss.instr
  if 8 ≤ t.copq.length then s.block .copqRoom 0
  else
    let xs := i.xregs.map fun r => (r, s.x r)
    let vs := i.vregs.filterMap fun r =>
      match r with
      | .v _ => some (r, s.vec r)
      | _ => none
    let due := dests.filter (snapshotDest i)
    let tags := (List.range due.length).map (s.ids + ·)
    let s := due.foldl (fun s d => s.reserve d) s
    let iss := { s.cur.iss with
      pipe := true, pipeNo := pipeNoOf t i, xs := xs, vs := vs, tags := tags, entered := s.now, phase := 0 }
    (s.modMe fun t => { t with copq := t.copq ++ [iss] }).retire

/-- The instruction of the pipe waits at a phase; 1 is the wait for a page. -/
def State.copHold (s : State) (phase : Nat) : State :=
  s.modMe fun t =>
    { t with inflight := mapIf (fun i => i.seq == s.cur.iss.seq) (fun _ => { s.cur.iss with phase := phase }) t.inflight }

/-- The results of a finished instruction, by tag; a long register of a vector instruction is written. -/
def State.copFinish (s : State) (dests : List Dest) (vals : List Val) (f : Flags) : State :=
  let i := s.cur.iss.instr
  let n := s.cur.core
  let k := s.cur.slot
  let pairs := dests.zip vals
  let s := pairs.foldl (fun s (d, v) =>
    match d with
    | .w r => if snapshotDest i d then s else s.writeW n k r v
    | _ => s) s
  let due := (pairs.filter fun (d, _) => snapshotDest i d).map Prod.snd
  (s.modMe fun t => { t with results := t.results ++ [(s.cur.iss.seq, s.cur.iss.tags.zip due, f)] }).push
    [.coprocessorComplete n k (BitVec.ofNat 32 s.cur.iss.seq)]

/-- A coprocessor instruction: at issue it enters its queue; in its pipe it acts. -/
def State.cop (s : State) (dests : List Dest) (f : State → CopOut) : Host.Outcome State Fault Refusal :=
  if s.cur.iss.pipe then
    match f s with
    | .ok s vals fl => .next (s.copFinish dests vals fl)
    | .fault s sw =>
      .next (s.push [.copFaultDetect s.cur.core s.cur.slot (BitVec.ofNat 32 s.cur.iss.seq) sw])
    | .hold s phase => .next (s.copHold phase)
  else .next (s.copEnter dests)

/-- An access of an instruction in a pipe finds no page, or is refused (R46, R163, R369): a pinned unit's instruction is
held, otherwise the task aborts. At a frozen page, or where 256 other pages wait, it tries again (R166, R170). -/
def State.copMiss (s : State) (m : LoadMiss) : CopOut :=
  let n := s.cur.core
  let k := s.cur.slot
  let tok := s.token n k
  let onPage (cause lvl val : Nat) : CopOut :=
    let w0 := supWord 1 cause 0 lvl m.die tok
    if m.held || !s.waitRoom m.die m.ctx m.va then .hold s 2
    else if s.me.pin then .hold (s.waitOn m.die m.ctx m.va [.pipe n k] w0 val) 1
    else .hold ((s.waitOn m.die m.ctx m.va [] w0 val).push [.taskAbort n k (.page m.die m.ctx m.va)]) 1
  match m.tr with
  | .ok _ _ _ _ => .hold s 2
  | .absent lvl v _ => onPage 1 lvl (bitsOf v.toNat 0 64)
  | .refused c lvl v =>
    if c = 5 || c = 6 then
      .hold ((s.postRefused c 0 lvl m.die tok m.ctx m.va v).push [.taskAbort n k .refused]) 1
    else onPage c lvl v.toNat

/-- The scalar operands that an instruction reads, in field order (R82). -/
def Instr.xsrcs (i : Instr) : List XReg :=
  match i with
  | .vredadd .. | .vredmax .. | .vredmin .. | .vbcmp .. | .vext .. | .hrd .. => i.xregs.drop 1
  | _ => i.xregs

/-- A CRING entry at dispatch (R82). -/
def cringEntry (iss : Issue) (ix : BitVec 16) (st : Nat) : BitVec 512 :=
  let ops := (Instr.xsrcs iss.instr).take 3
  let opv := (ops.zipIdx).foldl (fun n (r, j) =>
    n + (((iss.xs.find? fun p => p.1 == r).map fun p => p.2.toNat).getD 0) * 2 ^ (64 * j)) 0
  BitVec.ofNat 512
    ((ix.toNat + iss.repdone * 2 ^ 16) * 2 ^ 448 + opv * 2 ^ 256 + iss.iw.toNat * 2 ^ 128
      + iss.seq % 2 ^ 32 * 2 ^ 96 + iss.pipeNo * 2 ^ 94 + st * 2 ^ 92 + iss.pc.toNat / 4 * 4)

/-- Sets ST of the CRING entry of a dispatch (R82, R83). -/
def Thread.cringSt (t : Thread) (seq st : Nat) : Thread :=
  let e := look t.cring (seq % 64) 0
  { t with
    cring := put t.cring (seq % 64) ((e &&& ~~~(BitVec.ofNat 512 (3 * 2 ^ 92))) ||| BitVec.ofNat 512 (st * 2 ^ 92)) }

/-- Snapshot writes that no result will reach are dropped (R83). -/
def State.dropTags (s : State) (n k : Nat) (tags : List Nat) : State :=
  let s := s.modThr n k fun t =>
    { t with
      pend := t.pend.filter fun w => !tags.contains w.tag
      gwb := t.gwb.filter fun w => !tags.contains w.tag }
  if (s.thr n k).wait == .parked then s.push [.groupEnd n k] else s

/-- A held instruction of a pipe can go on (R319): a page has come, or its implicit commit or its acknowledgements have. -/
def State.heldReady (s : State) (n : Nat) (t : Thread) (i : Issue) : Bool :=
  match i.phase with
  | 0 | 1 => false
  | 40 => t.loads.isEmpty && t.sosOut == 0 && t.flip.isNone && t.commit == .idle && t.arRel.isNone
  | 41 => t.commit == .prepared
  | 42 => t.flip.isNone
  | 43 | 44 => t.sosOut == 0
  | 61 => s.now % 2 == 0
  | 60 => s.shedOpen (clusterOf n) && (s.coreAt n).stall.length ≤ 64
  | p => p < 100 || t.sosOut == 0

/-- The tile macro instruction (R307). -/
def isMmt (i : Instr) : Bool :=
  match i with
  | .mmt .. => true
  | _ => false

/-- The thread waits for a write of an instruction that is still in its queue. -/
def Thread.queueStops (t : Thread) : Bool :=
  (t.wait == .parked || t.wait == .trap || t.wait == .settled)
    && t.copq.any fun i => i.tags.any fun g => t.pend.any fun w => w.tag == g && w.val.isNone

/-- A thread's queue head may be dispatched (R73, R81, R13): nothing of it is held in a pipe, no more than 64 are in flight,
no mmt stands before a matrix instruction, and no fault of its pipe awaits delivery (R83). -/
def State.headReady (s : State) (t : Thread) (i : Issue) : Bool :=
  (!t.faultPipes.contains i.pipeNo || t.queueStops) && t.inflight.all (fun x => x.phase == 0) && t.inflight.length < 64
    && !(i.pipeNo == 2 && (t.mmtStop.isSome || t.inflight.any fun x => isMmt x.instr))
    && !(i.pipeNo == 2 && s.io.throttled && s.now % 4 == 3)

/-- Heads that may be dispatched, by slot. -/
def State.heads (s : State) (n : Nat) : List (Nat × Issue) :=
  (s.coreAt n).slots.filterMap fun (k, t) =>
    match t.copq with
    | i :: _ => if s.headReady t i then some (k, i) else none
    | [] => none

/-- The head that entered its queue earliest; among equals the lower slot (R73). -/
def earliest : List (Nat × Issue) → Option (Nat × Issue)
  | [] => none
  | x :: l =>
    match earliest l with
    | some y => if y.2.entered < x.2.entered then some y else some x
    | none => some x

/-- What the core's pipes take up next: a held instruction that can go on, an interrupted mmt after its trap's return, but for a
unit that is about to be saved exactly (R81, R308), or a head. -/
def State.copGo (s : State) (n : Nat) : Option (Nat × Issue × Bool) :=
  let slots := (s.coreAt n).slots
  let held := slots.findSome? fun (k, t) => (t.inflight.find? (s.heldReady n t)).map fun i => (k, i, false)
  let mmt := slots.findSome? fun (k, t) =>
    match t.mmtStop with
    | some i => if t.intrap || (t.pin && t.leaveBy.any (· ≤ s.now)) then none else some (k, { i with ctl := [], xs := i.instr.xregs.map fun r =>
        (r, (s.coreAt n).readX t (t.index r).toNat) }, false)
    | none => none
  (held.or mmt).or ((earliest (s.heads n)).map fun (k, i) => (k, i, true))

/-- COPROCESSOR_DISPATCH (R73, R82, R83): the next sequence number and its CRING entry. An instruction of a pipe whose fault
awaits delivery stays in the queue; where the thread's group could not end without its write, it is cancelled (log 27). -/
def execCoprocessorDispatch (s : State) : Host.Outcome State Fault Refusal :=
  match s.ev with
  | .coprocessorDispatch n =>
    match s.copGo n with
    | none => .next s
    | some (k, i, false) =>
      let go (x : Issue) : Issue := { x with phase := 0 }
      let s := s.modThr n k fun t =>
        { t with
          mmtStop := none
          inflight := if t.inflight.any (·.seq == i.seq) then mapIf (·.seq == i.seq) go t.inflight
            else t.inflight ++ [go i] }
      .next { s with cur := ⟨n, k, i⟩, issue := some i }
    | some (k, i, true) =>
      let t := s.thr n k
      let seq := t.seq.toNat
      let i := { i with seq := seq }
      let lost := t.faultPipes.contains i.pipeNo
      let s := s.modThr n k fun t =>
        { t with
          copq := t.copq.drop 1, seq := t.seq + 1, cringh := BitVec.ofNat 6 seq
          cring := put t.cring (seq % 64) (cringEntry i t.ix (if lost then 3 else 0))
          inflight := if lost then t.inflight else t.inflight ++ [i] }
      if lost then .next ((s.dropTags n k i.tags).endLong n k)
      else .next { s with cur := ⟨n, k, i⟩, issue := some i }
  | _ => .next s

/-- COPROCESSOR_COMPLETE (R76, R82, R205): results return, flags are ORed in, ST = 1. -/
def execCoprocessorComplete (s : State) : Host.Outcome State Fault Refusal :=
  match s.ev with
  | .coprocessorComplete n k q =>
    match (s.thr n k).results.find? fun r => r.1 == q.toNat with
    | none => .next s
    | some (seq, vals, f) =>
      let s := s.modThr n k fun t =>
        { (t.cringSt seq 1) with
          inflight := t.inflight.filter fun i => i.seq != seq
          results := t.results.filter fun r => r.1 != seq
          flags := t.flags ||| f
          cycFlags := if t.cycAt = s.now then t.cycFlags ||| f else f
          cycAt := s.now }
      .next ((vals.foldl (fun s (tag, v) => s.fill n k tag v) s).endLong n k)
  | _ => .next s

/-- COP_FAULT_DETECT (R83, R84): ST = 2; the later instructions of the thread in the same pipe are cancelled, and the fault
pends for the thread's next group end. -/
def execCopFaultDetect (s : State) : Host.Outcome State Fault Refusal :=
  match s.ev with
  | .copFaultDetect n k q sw =>
    let t := s.thr n k
    match t.inflight.find? fun i => i.seq == q.toNat with
    | none => .next s
    | some i =>
      let gone := t.inflight.filter fun x => x.pipeNo == i.pipeNo && i.seq ≤ x.seq
      let s := s.modThr n k fun t =>
        let t := gone.foldl (fun t x => t.cringSt x.seq (if x.seq = i.seq then 2 else 3)) t
        { t with
          inflight := t.inflight.filter fun x => !gone.contains x
          results := t.results.filter fun r => gone.all fun x => x.seq != r.1
          faultPipes := insertNat i.pipeNo t.faultPipes
          copFault := match t.copFault with
            | some (m, b) => if i.seq < m then some (i.seq, sw) else some (m, b)
            | none => some (i.seq, sw) }
      .next ((s.dropTags n k (gone.flatMap Issue.tags)).endLong n k)
  | _ => .next s

/-- VMODE_SHORT (R278): takes effect at the group's end. -/
def execVmodeShort (s : State) : Host.Outcome State Fault Refusal :=
  .next (if s.me.mode then (s.wr .vshort 0).retire else s.retire)

/-- A free long context: the lowest (R80). -/
def Cluster.freeLong (c : Cluster) : Option Nat := (List.range 8).find? fun i => (find? c.longOwner i).isNone

/-- A long context is granted to a slot; its registers are zeroed (R80). -/
def State.grantLong (s : State) (cl : Nat) (n k i : Nat) : State :=
  (s.modCluster cl fun c =>
    { c with longOwner := put c.longOwner i (n, k), w := c.w.filter fun (r, _) => r / 16 != i }).modThr n k fun t =>
    { t with lgrant := some (BitVec.ofNat 3 i) }

/-- VMODE_LONG (R80, R278): waits for the lowest free context, in order of the requests; long mode and the zeroing take
effect at the group's end. -/
def execVmodeLong (s : State) : Host.Outcome State Fault Refusal :=
  let n := s.cur.core
  let k := s.cur.slot
  let cl := clusterOf n
  let t := s.me
  if t.mode || t.lgrant.isSome then .next (s.wr .vlong 0).retire
  else if t.shortDue then .next (s.block .shortDone 0)
  else
    let c := s.clusterAt cl
    match (if c.longQ.isEmpty then c.freeLong else none) with
    | some i => .next ((s.grantLong cl n k i).wr .vlong 0).retire
    | none =>
      let s := s.modCluster cl fun c =>
        { c with longQ := if c.longQ.contains (n, k) then c.longQ else c.longQ ++ [(n, k)] }
      .next ((s.block .longCtx 1).waitCancel)

/-- LONG_CONTEXT_GRANT (R80): a freed context goes to the oldest request. -/
def execLongContextGrant (s : State) : Host.Outcome State Fault Refusal :=
  match s.ev with
  | .longContextGrant cl =>
    let c := s.clusterAt cl
    match c.longQ, c.freeLong with
    | (n, k) :: rest, some i => .next ((s.modCluster cl fun c => { c with longQ := rest }).grantLong cl n k i)
    | _, _ => .next s
  | _ => .next s

/-- A stream's state (R318). -/
structure Stream where
  mode : Nat
  ls : Bool
  fin : Bool
  err : Bool
  op : Nat
  ty : Nat
  base : Nat
  pbase : Nat
  rowlen : Nat
  pitch : Nat
  nrows : Nat
  cur : Nat
  nzi : Nat
  deriving DecidableEq, Repr

/-- A stream's state from its 512 bits (R318). -/
def streamOf (v : BitVec 512) : Stream :=
  let n := v.toNat
  ⟨bitsOf n 509 3, v.getLsbD 508, v.getLsbD 507, v.getLsbD 506, bitsOf n 501 5, bitsOf n 496 5, bitsOf n 384 57,
    bitsOf n 320 57, bitsOf n 288 32, bitsOf n 256 32, bitsOf n 224 32, bitsOf n 160 64, bitsOf n 128 32⟩

/-- The 512 bits of a stream's state. -/
def streamBits (x : Stream) : BitVec 512 :=
  BitVec.ofNat 512
    (x.mode * 2 ^ 509 + x.ls.toNat * 2 ^ 508 + x.fin.toNat * 2 ^ 507 + x.err.toNat * 2 ^ 506 + x.op * 2 ^ 501
      + x.ty * 2 ^ 496 + x.base * 2 ^ 384 + x.pbase * 2 ^ 320 + x.rowlen * 2 ^ 288 + x.pitch * 2 ^ 256
      + x.nrows * 2 ^ 224 + x.cur % 2 ^ 64 * 2 ^ 160 + x.nzi % 2 ^ 32 * 2 ^ 128)

/-- A stream register of the current thread. -/
def State.stream (s : State) (r : SReg) : Stream := streamOf (look s.me.s r.toNat 0)
/-- Writes a stream register of the current thread. -/
def State.setStream (s : State) (r : SReg) (x : Stream) : State :=
  s.modMe fun t => { t with s := put t.s r.toNat (streamBits x) }

/-- Bytes of a stream's element. -/
def Stream.k (x : Stream) : Nat := ((tyOf x.ty).map Ty.bytes).getD 4

/-- Length of a stream: bytes of a dense stream, elements of a fibre (R318). -/
def Stream.length (x : Stream) : Nat := if x.mode = 3 then x.pitch else x.rowlen * x.nrows

/-- Place of a logical byte of a dense stream (R318). -/
def Stream.place (x : Stream) (b : Nat) : Nat := x.base + b / x.rowlen * x.pitch + b % x.rowlen

/-- A stream whose cursor has moved; END once it reaches the length (R318). -/
def Stream.move (x : Stream) (by' : Nat) : Stream :=
  let c := x.cur + by'
  { x with cur := c, fin := x.fin || x.length ≤ c }

/-- A stream access that failed: ERR := 1 and a COP fault (R319). -/
def State.streamErr (s : State) (r : SReg) : CopOut := .fault (s.setStream r { s.stream r with err := true }) false

/-- Bytes that a stream reads at places of `k` bytes each, in order (R319): combining loads of the current task, or plain
local-store reads. -/
def State.streamRead (s : State) (r : SReg) (x : Stream) (k : Nat) (l : List Nat) :
    Except CopOut (State × List Nat) :=
  if l.any fun a => a % k != 0 then .error (s.streamErr r)
  else if x.ls then
    if l.any fun a => (s.lsCheck a k false).isSome then .error (s.streamErr r)
    else .ok (s, l.map fun a => s.myCore.lsNum a k)
  else
    let ctx := s.me.cr.ctx.toNat
    let dws := l.flatMap fun a => dwsOf (a % 2 ^ 57) k
    if dws.any s.strong && s.me.sosOut != 0 then .error (.hold s 44)
    else
      match s.loadDws s.cur.core s.cur.slot ctx dws with
      | (s, .error m) => .error (s.copMiss m)
      | (s, .ok ds) =>
        let vs := l.map fun a => dwNum ds (a % 2 ^ 57) k
        if vs.any Prod.snd then .error (s.streamErr r) else .ok (s, vs.map Prod.fst)

/-- Positions of a fibre from entry `i` on, as many as one access can pass. -/
def State.fibrePos (s : State) (r : SReg) (x : Stream) (i n : Nat) : Except CopOut (State × List Nat) :=
  s.streamRead r x 4 ((List.range (min n (x.rowlen - i))).map fun j => x.pbase + 4 * (i + j))

/-- Passes entries before a dense position, a bounded number of positions at a time (R320). -/
def State.fibreTo (s : State) (r : SReg) (x : Stream) (d : Nat) : Nat → Nat → Except CopOut (State × Nat)
  | 0, nzi => .ok (s, nzi)
  | fuel + 1, nzi =>
    if x.rowlen ≤ nzi then .ok (s, nzi)
    else
      let from' := nzi - 1
      match s.fibrePos r x from' 2 with
      | .error e => .error e
      | .ok (s, ps) =>
        let prev := ps.getD 0 0
        let p := ps.getD (nzi - from') 0
        if x.pitch ≤ p || (0 < nzi && p ≤ prev) then .error (s.streamErr r)
        else if p < d then s.fibreTo r x d fuel (nzi + 1)
        else .ok (s, nzi)

/-- The next dense elements of a fibre (R320): their bits from element `d` on, and the entry that is next. -/
def State.fibreRead (s : State) (r : SReg) (x : Stream) (k : Nat) : Nat → Nat → Nat → Except CopOut (State × Nat × Nat)
  | 0, _, nzi => .ok (s, 0, nzi)
  | n + 1, d, nzi =>
    match s.fibreTo r x d (x.rowlen + 1 - nzi) nzi with
    | .error e => .error e
    | .ok (s, nzi) =>
      let rest (s : State) (v : Nat) : Except CopOut (State × Nat × Nat) :=
        match s.fibreRead r x k n (d + 1) nzi with
        | .error e => .error e
        | .ok (s, w, nzi) => .ok (s, v + 2 ^ (8 * k) * w, nzi)
      if d < x.pitch && nzi < x.rowlen then
        match s.fibrePos r x nzi 1 with
        | .error e => .error e
        | .ok (s, ps) =>
          if ps.headD 0 = d then
            match s.streamRead r x k [x.base + k * nzi] with
            | .error e => .error e
            | .ok (s, vs) => rest s (vs.headD 0)
          else rest s 0
      else rest s 0

/-- One source stream of an instruction is read (R319): its bytes, and the stream after the access. -/
def State.streamSource (s : State) (r : SReg) (rb : Nat) : Except CopOut (State × Val × Stream) :=
  let x := s.stream r
  let k := x.k
  if x.mode = 0 then .error (.fault s false)
  else if x.err || x.mode = 2 then .error (s.streamErr r)
  else if x.mode = 3 then
    match s.fibreRead r x k (rb / k) x.cur x.nzi with
    | .error e => .error e
    | .ok (s, v, nzi) => .ok (s, BitVec.ofNat 2048 v, { (x.move (rb / k)) with nzi := nzi })
  else
    let n := min rb (x.length - x.cur) / k
    match s.streamRead r x k ((List.range n).map fun j => x.place (x.cur + k * j)) with
    | .error e => .error e
    | .ok (s, vs) =>
      .ok (s, BitVec.ofNat 2048 ((vs.zipIdx).foldl (fun a (v, j) => a + v * 2 ^ (8 * k * j)) 0), x.move rb)

/-- The bytes of the register width under which an instruction of a pipe runs (R276, R319). -/
def State.rbNow (s : State) : Nat := if s.cur.iss.pipeNo = 1 then 256 else 32

/-- Reads the source streams of an instruction, each once (R277, R319); the cursors move once all have been read. -/
def State.streamSources (s : State) (l : List VReg) : Except CopOut State :=
  let rs := l.foldl (fun (rs : List SReg) v =>
    match v with
    | .s r => if rs.contains r then rs else rs ++ [r]
    | _ => rs) []
  let r := rs.foldl (fun (acc : Except CopOut (State × List (SReg × Val × Stream))) r =>
    match acc with
    | .error e => .error e
    | .ok (s, got) =>
      match s.streamSource r s.rbNow with
      | .error e => .error e
      | .ok (s, v, x) => .ok (s, got ++ [(r, v, x)])) (.ok (s, []))
  match r with
  | .error e => .error e
  | .ok (s, got) =>
    let s := got.foldl (fun s (r, _, x) => s.setStream r x) s
    .ok { s with cur := { s.cur with iss := { s.cur.iss with vs := s.cur.iss.vs ++ got.map fun (r, v, _) => (.s r, v) } } }

/-- Emits the elements of a write stream (R319): those of ORD 1 pages after the implicit commit and one by one, then the
others. Phases from 100 on count the strongly ordered elements sent, each acknowledged before the next (R139). -/
def State.streamEmit (s : State) (op : MOp) (l : List Elem) (next : State → CopOut) : CopOut :=
  let n := s.cur.core
  let k := s.cur.slot
  let sos := sortElems (l.filter fun e => s.strong e.1)
  let rest := l.filter fun e => !s.strong e.1
  let finish (s : State) : CopOut :=
    match s.emitAll n k op false rest with
    | some s => next (s.stallFill n)
    | none => .hold s 60
  let step (s : State) (j : Nat) : CopOut :=
    match sos[j]? with
    | some e => .hold (s.emitSos n k op false e) (101 + j)
    | none => finish s
  if sos.isEmpty then finish s
  else
    match s.cur.iss.phase with
    | 40 => .hold ((s.modMe fun t => { t with commit := .preparing, pipeCommit := some s.cur.iss }).push
        [.commitPrepare n k]) 41
    | 41 => .hold (s.modMe fun t => { t with commit := .idle, pipeCommit := none }) 42
    | 42 => step s 0
    | 60 => finish s
    | p => if 100 ≤ p then step s (p - 100) else .hold s 40

/-- Writes a result to a write stream (R319): the bytes within the length; the cursor moves on. -/
def State.streamWrite (s : State) (r : SReg) (v : Val) (next : State → CopOut) : CopOut :=
  let x := s.stream r
  let k := x.k
  let rb := s.rbNow
  let n := min rb (x.length - x.cur) / k
  let places := (List.range n).map fun j => (x.place (x.cur + k * j), bitsOf v.toNat (8 * k * j) (8 * k))
  let moved (s : State) : CopOut := next (s.setStream r (x.move rb))
  if x.mode = 0 then .fault s false
  else if x.err || x.mode != 2 then s.streamErr r
  else if places.any fun (a, _) => a % k != 0 then s.streamErr r
  else if x.ls then
    if places.any fun (a, _) => (s.lsCheck a k true).isSome then s.streamErr r
    else moved (places.foldl (fun s (a, b) => s.modMyCore fun c => c.lsWrite a (leBytes k b)) s)
  else if k < 4 then .fault s false
  else s.streamEmit ((opOf x.op).getD .rep) (places.map fun (a, b) => (a % 2 ^ 57, k == 8, b)) moved

/-- A vector instruction (R277, R319): stream sources are read, the result formed and written. An instruction that is held
while it writes goes on with the result it has formed; its flags are raised as it completes (R205). -/
def State.vop (s : State) (d : VReg) (srcs : List VReg) (f : State → Val × Flags) : Host.Outcome State Fault Refusal :=
  s.cop [destV d] fun s =>
    match d with
    | .s r =>
      let write (s : State) (v : Val) (fl : Flags) : CopOut := s.streamWrite r v fun s => .ok s [0] fl
      if 40 ≤ s.cur.iss.phase && s.cur.iss.phase != 44 then write s (s.vec d) (f s).2
      else
        let x := s.stream r
        if x.mode = 0 then .fault s false
        else if x.err || x.mode != 2 then s.streamErr r
        else
          match s.streamSources srcs with
          | .error e => e
          | .ok s =>
            let (v, fl) := f s
            -- a source that is the destination as well has been refused above
            write { s with cur := { s.cur with iss := { s.cur.iss with vs := s.cur.iss.vs ++ [(d, v)] } } } v fl
    | _ =>
      match s.streamSources srcs with
      | .error e => e
      | .ok s =>
        let (v, fl) := f s
        .ok s [v] fl

/-- Reads a control block of 64 bytes by combining loads as the current task (R150, R288, R306): its bits and whether a
granule is poisoned. A core may use the copy it has kept since its last acquire of device scope; an instruction that was held
keeps the version that it captured. -/
def State.control (s : State) (va : Nat) : Except CopOut (State × Nat × Bool) :=
  let va := va % 2 ^ 57 / 64 * 64
  let captured (s : State) (v : BitVec 512) : State :=
    { s with cur := { s.cur with iss := { s.cur.iss with ctl := put s.cur.iss.ctl va v } } }
  match find? s.cur.iss.ctl va with
  | some v => .ok (s, v.toNat, false)
  | none =>
  let n := s.cur.core
  let ctx := s.me.cr.ctx.toNat
  let dws := dwsOf va 64
  let key := lineOf ctx va
  let kept := find? s.myCore.ctl key
  if dws.any s.strong && s.me.sosOut != 0 then .error (.hold s 44)
  else
    let (s', r) := s.loadDws n s.cur.slot ctx dws
    let now : Option (Nat × Bool) := match r with
      | .ok ds => some (dwNum ds va 64)
      | .error _ => none
    let old := match kept with
      | some c => now != some (c.toNat, false) && Config.cacheKeeps s.fresh
      | none => false
    if old then .ok (captured s.tick (kept.getD 0), (kept.getD 0).toNat, false)
    else
      let s := if kept.isSome then s'.tick else s'
      match r with
      | .error m => .error (s.copMiss m)
      | .ok ds =>
        let (v, psn) := dwNum ds va 64
        .ok (if psn then s
          else captured (s.modMyCore fun c => { c with ctl := put c.ctl key (BitVec.ofNat 512 v) }) (BitVec.ofNat 512 v), v, psn)

/-- The bytes of the 64-byte record that an operand of `sopen` or `fopen` names (R321). -/
def State.streamRecord (s : State) (a : Word) : Except CopOut (State × Option Nat) :=
  if a.getLsbD 63 then
    let off := a.toNat % 2 ^ 18 / 64 * 64
    if (s.lsCheck off 64 false).isSome then .ok (s, none) else .ok (s, some (s.myCore.lsNum off 64))
  else
    match s.control a.toNat with
    | .error e => .error e
    | .ok (s, v, psn) => .ok (s, if psn then none else some v)

/-- The code of a type (R223). -/
def tyCodeOf (ty : Ty) : Nat := ((List.range 32).find? fun c => tyOf c == some ty).getD 0

/-- Opens a stream (R321). -/
def State.openStream (s : State) (fibre : Bool) (ty : Ty) (a : SReg) (b : XReg) : CopOut :=
  let closed : Stream := streamOf 0
  let bad (s : State) : CopOut := .fault (s.setStream a { closed with err := true }) false
  match s.streamRecord (s.x b) with
  | .error e => e
  | .ok (s, none) => bad s
  | .ok (s, some w) =>
    let k := ty.bytes
    let dir := bitsOf w (3 * 64 + 30) 2
    let ls := bitsOf w 63 1 = 1
    let op := bitsOf w (3 * 64 + 25) 5
    let x : Stream :=
      { mode := if fibre then 3 else 1 + dir, ls := ls, fin := false, err := false, op := op, ty := tyCodeOf ty
        base := bitsOf w 0 57, pbase := bitsOf w 64 57, rowlen := bitsOf w (2 * 64 + 32) 32, pitch := bitsOf w (2 * 64) 32
        nrows := bitsOf w (3 * 64 + 32) 32, cur := 0, nzi := 0 }
    let badOp : Bool := match opOf op with
      | some o => !storeOk ty o false
      | none => true
    let odd := x.base % k != 0 || (!fibre && (x.rowlen % k != 0 || x.pitch % k != 0))
    if 2 ≤ dir || (fibre && dir = 1) || odd || (!fibre && dir = 1 && !ls && badOp) then bad s
    else .ok (s.setStream a { x with fin := x.length = 0 }) [] 0

/-- SOPEN (R321). -/
def execSopen (ty : Ty) (a : SReg) (b : XReg) (s : State) : Host.Outcome State Fault Refusal :=
  s.cop [] fun s => s.openStream false ty a b
/-- FOPEN (R321). -/
def execFopen (ty : Ty) (a : SReg) (b : XReg) (s : State) : Host.Outcome State Fault Refusal :=
  s.cop [] fun s => s.openStream true ty a b

/-- SADV (R321). -/
def execSadv (a : SReg) (b : XReg) (s : State) : Host.Outcome State Fault Refusal :=
  s.cop [] fun s =>
    let x := s.stream a
    let c := (s.x b).toNat
    if x.mode = 0 || x.err then .fault s false
    else if x.mode = 3 then
      match s.fibreTo a x (x.cur + c) (x.rowlen + 1 - x.nzi) x.nzi with
      | .error e => e
      | .ok (s, nzi) => .ok (s.setStream a { (x.move c) with nzi := nzi }) [] 0
    else if c % x.k != 0 then s.streamErr a
    else .ok (s.setStream a (x.move c)) [] 0

/-- STEND (R321). -/
def execStend (a : PReg) (b : SReg) (s : State) : Host.Outcome State Fault Refusal :=
  s.cop [destP a] fun s =>
    let x := s.stream b
    .ok s [if x.mode != 0 && x.fin then 1 else 0] 0

/-- SCLOSE (R321). -/
def execSclose (a : SReg) (s : State) : Host.Outcome State Fault Refusal :=
  s.cop [] fun s => .ok (s.setStream a (streamOf 0)) [] 0

end Sys2Proof.Machine
end

