-- ==== Sys2Proof/Machine/Vector.lean ====
section
/-! DEFINITION. Vector instructions (R263, R276 to R297). -/

namespace Sys2Proof.Machine

/-- The lanes of a register of `rb` bytes at a lane width of `k` bytes, lowest first (R276). -/
def lanes (k rb : Nat) (v : Val) : List Nat := (List.range (rb / k)).map fun j => bitsOf v.toNat (8 * k * j) (8 * k)

/-- A register from its lanes. -/
def ofLanes (k : Nat) (l : List Nat) : Val :=
  BitVec.ofNat 2048 ((l.zipIdx).foldl (fun n (v, j) => n + v % 2 ^ (8 * k) * 2 ^ (8 * k * j)) 0)

/-- Lane results with their flags ORed (R277). -/
def packFlags (k : Nat) (l : List (Nat × Flags)) : Val × Flags :=
  (ofLanes k (l.map Prod.fst), l.foldl (fun f x => f ||| x.2) 0)

/-- A lane-wise instruction of one source. -/
def State.lane1 (s : State) (ty : Ty) (a b : VReg) (f : Nat → Nat × Flags) : Host.Outcome State Fault Refusal :=
  s.vop a [b] fun s => packFlags ty.bytes ((lanes ty.bytes s.rbNow (s.vec b)).map f)

/-- A lane-wise instruction of two sources. -/
def State.lane2 (s : State) (ty : Ty) (a b c : VReg) (f : Nat → Nat → Nat × Flags) : Host.Outcome State Fault Refusal :=
  s.vop a [b, c] fun s =>
    let k := ty.bytes
    packFlags k (((lanes k s.rbNow (s.vec b)).zip (lanes k s.rbNow (s.vec c))).map fun (x, y) => f x y)

/-- A rounded result of exact values (R206). -/
def rounded (ty : Ty) (rm : Rm) (r : Num × Flags) : Nat × Flags :=
  let (v, f) := roundTy ty rm r.1
  (v, f ||| r.2)

/-- The exact sum of two values, a zero sum negative only under `.rdn` (R279). -/
def sum2 (rm : Rm) (a b : Num) : Num × Flags := sumNum (rm == .rdn) [a, b]

/-- VADD (R279). -/
def execVaddF (ty : Ty) (rm : Rm) (a b c : VReg) (s : State) : Host.Outcome State Fault Refusal :=
  s.lane2 ty a b c fun x y => rounded ty rm (sum2 rm (valOf ty x) (valOf ty y))
/-- VSUB (R279). -/
def execVsubF (ty : Ty) (rm : Rm) (a b c : VReg) (s : State) : Host.Outcome State Fault Refusal :=
  s.lane2 ty a b c fun x y => rounded ty rm (sum2 rm (valOf ty x) (valOf ty y).negate)
/-- VMUL (R279). -/
def execVmulF (ty : Ty) (rm : Rm) (a b c : VReg) (s : State) : Host.Outcome State Fault Refusal :=
  s.lane2 ty a b c fun x y => rounded ty rm (mulNum (valOf ty x) (valOf ty y))
/-- VDIV (R279). -/
def execVdiv (ty : Ty) (rm : Rm) (a b c : VReg) (s : State) : Host.Outcome State Fault Refusal :=
  s.lane2 ty a b c fun x y => rounded ty rm (divNum (valOf ty x) (valOf ty y))

/-- The fmin or fmax rule on the codes of a type (R114). -/
def minmaxTy (ty : Ty) (isMax : Bool) (x y : Nat) : Nat × Flags :=
  match ffmtOf ty with
  | some f => fminmax f isMax x y
  | none =>
    let less : Bool := if ty.isSigned then toSigned ty.width x < toSigned ty.width y else x < y
    (if less == isMax then y else x, 0)

/-- VMIN, floating (R279). -/
def execVminF (ty : Ty) (a b c : VReg) (s : State) : Host.Outcome State Fault Refusal :=
  s.lane2 ty a b c (minmaxTy ty false)
/-- VMAX, floating (R279). -/
def execVmaxF (ty : Ty) (a b c : VReg) (s : State) : Host.Outcome State Fault Refusal :=
  s.lane2 ty a b c (minmaxTy ty true)

/-- A change of a lane's sign bit; a NaN gives the canonical NaN (R279). -/
def signOp (ty : Ty) (f : Nat → Nat) (x : Nat) : Nat × Flags :=
  let v := valOf ty x
  if v.isNan then ((roundTy ty .rne (.nan false)).1, snan [v]) else (f x, 0)

/-- VABS, floating (R279). -/
def execVabsF (ty : Ty) (a b : VReg) (s : State) : Host.Outcome State Fault Refusal :=
  s.lane1 ty a b (signOp ty fun x => x % 2 ^ (ty.width - 1))
/-- VNEG (R279). -/
def execVneg (ty : Ty) (a b : VReg) (s : State) : Host.Outcome State Fault Refusal :=
  s.lane1 ty a b (signOp ty fun x => x ^^^ 2 ^ (ty.width - 1))
/-- VSQRT (R279). -/
def execVsqrt (ty : Ty) (rm : Rm) (a b : VReg) (s : State) : Host.Outcome State Fault Refusal :=
  s.lane1 ty a b fun x => rounded ty rm (sqrtNum (valOf ty x))

/-- Fused multiply-add of lanes (R280): the signs of the product and of the addend; one rounding. -/
def State.fused (s : State) (ty : Ty) (rm : Rm) (a b c d : VReg) (negP negD : Bool) : Host.Outcome State Fault Refusal :=
  s.vop a [b, c, d] fun s =>
    let k := ty.bytes
    let l (r : VReg) : List Nat := lanes k s.rbNow (s.vec r)
    packFlags k ((((l b).zip (l c)).zip (l d)).map fun ((x, y), z) =>
      let (p, f) := mulNum (valOf ty x) (valOf ty y)
      let p := if negP then p.negate else p
      let w := valOf ty z
      let (r, g) := sum2 rm p (if negD then w.negate else w)
      rounded ty rm (r, f ||| g))

/-- VFMA (R280). -/
def execVfma (ty : Ty) (rm : Rm) (a b c d : VReg) (s : State) : Host.Outcome State Fault Refusal :=
  s.fused ty rm a b c d false false
/-- VFMS (R280). -/
def execVfms (ty : Ty) (rm : Rm) (a b c d : VReg) (s : State) : Host.Outcome State Fault Refusal :=
  s.fused ty rm a b c d false true
/-- VFNMA (R280). -/
def execVfnma (ty : Ty) (rm : Rm) (a b c d : VReg) (s : State) : Host.Outcome State Fault Refusal :=
  s.fused ty rm a b c d true false

/-- A lane read by Opnd (R231, R281). -/
def laneInt (ty : Ty) (x : Nat) : Int := if ty.isSigned then toSigned ty.width x else ((x % 2 ^ ty.width : Nat) : Int)

/-- A result wrapped to a lane. -/
def wrapLane (ty : Ty) (i : Int) : Nat × Flags := ((i % 2 ^ ty.width).toNat, 0)

/-- A result saturated at the bounds of a lane's type (R281). -/
def satLane (ty : Ty) (i : Int) : Nat × Flags :=
  let w := ty.width
  if ty.isSigned then wrapLane ty (clampInt (-(2 ^ (w - 1))) (2 ^ (w - 1) - 1) i)
  else wrapLane ty (clampInt 0 (2 ^ w - 1) i)

/-- VADD, integer (R281). -/
def execVaddI (ty : Ty) (a b c : VReg) (s : State) : Host.Outcome State Fault Refusal :=
  s.lane2 ty a b c fun x y => wrapLane ty (laneInt ty x + laneInt ty y)
/-- VSUB, integer (R281). -/
def execVsubI (ty : Ty) (a b c : VReg) (s : State) : Host.Outcome State Fault Refusal :=
  s.lane2 ty a b c fun x y => wrapLane ty (laneInt ty x - laneInt ty y)
/-- VMUL, integer (R281). -/
def execVmulI (ty : Ty) (a b c : VReg) (s : State) : Host.Outcome State Fault Refusal :=
  s.lane2 ty a b c fun x y => wrapLane ty (laneInt ty x * laneInt ty y)
/-- VMIN, integer (R281). -/
def execVminI (ty : Ty) (a b c : VReg) (s : State) : Host.Outcome State Fault Refusal :=
  s.lane2 ty a b c fun x y => wrapLane ty (min (laneInt ty x) (laneInt ty y))
/-- VMAX, integer (R281). -/
def execVmaxI (ty : Ty) (a b c : VReg) (s : State) : Host.Outcome State Fault Refusal :=
  s.lane2 ty a b c fun x y => wrapLane ty (max (laneInt ty x) (laneInt ty y))
/-- VABS, integer (R281). -/
def execVabsI (ty : Ty) (a b : VReg) (s : State) : Host.Outcome State Fault Refusal :=
  s.lane1 ty a b fun x => wrapLane ty (laneInt ty x).natAbs
/-- VADDS (R281). -/
def execVadds (ty : Ty) (a b c : VReg) (s : State) : Host.Outcome State Fault Refusal :=
  s.lane2 ty a b c fun x y => satLane ty (laneInt ty x + laneInt ty y)
/-- VSUBS (R281). -/
def execVsubs (ty : Ty) (a b c : VReg) (s : State) : Host.Outcome State Fault Refusal :=
  s.lane2 ty a b c fun x y => satLane ty (laneInt ty x - laneInt ty y)
/-- VAND (R281). -/
def execVand (ty : Ty) (a b c : VReg) (s : State) : Host.Outcome State Fault Refusal :=
  s.lane2 ty a b c fun x y => (x &&& y, 0)
/-- VOR (R281). -/
def execVor (ty : Ty) (a b c : VReg) (s : State) : Host.Outcome State Fault Refusal :=
  s.lane2 ty a b c fun x y => (x ||| y, 0)
/-- VXOR (R281). -/
def execVxor (ty : Ty) (a b c : VReg) (s : State) : Host.Outcome State Fault Refusal :=
  s.lane2 ty a b c fun x y => (x ^^^ y, 0)
/-- VSLL (R281). -/
def execVsll (ty : Ty) (a b c : VReg) (s : State) : Host.Outcome State Fault Refusal :=
  s.lane2 ty a b c fun x y => wrapLane ty (x * 2 ^ (y % ty.width) : Nat)
/-- VSRL (R281). -/
def execVsrl (ty : Ty) (a b c : VReg) (s : State) : Host.Outcome State Fault Refusal :=
  s.lane2 ty a b c fun x y => (x / 2 ^ (y % ty.width), 0)
/-- VSRA (R281). -/
def execVsra (ty : Ty) (a b c : VReg) (s : State) : Host.Outcome State Fault Refusal :=
  s.lane2 ty a b c fun x y => wrapLane ty (toSigned ty.width x / 2 ^ (y % ty.width))

/-- A special function of the lanes (R282). -/
def State.special (s : State) (ty : Ty) (rm : Rm) (a b : VReg) (f : Num → Num × Flags) :
    Host.Outcome State Fault Refusal :=
  s.lane1 ty a b fun x => rounded ty rm (f (valOf ty x))

/-- VEXP (R282). -/
def execVexp (ty : Ty) (rm : Rm) (a b : VReg) (s : State) : Host.Outcome State Fault Refusal :=
  s.special ty rm a b expNum
/-- VLOG (R282). -/
def execVlog (ty : Ty) (rm : Rm) (a b : VReg) (s : State) : Host.Outcome State Fault Refusal :=
  s.special ty rm a b logNum
/-- VRCP (R282). -/
def execVrcp (ty : Ty) (rm : Rm) (a b : VReg) (s : State) : Host.Outcome State Fault Refusal :=
  s.special ty rm a b fun x => divNum (.ofInt 1) x
/-- VRSQRT (R282). -/
def execVrsqrt (ty : Ty) (rm : Rm) (a b : VReg) (s : State) : Host.Outcome State Fault Refusal :=
  s.special ty rm a b rsqrtNum
/-- VTANH (R282). -/
def execVtanh (ty : Ty) (rm : Rm) (a b : VReg) (s : State) : Host.Outcome State Fault Refusal :=
  s.special ty rm a b tanhNum
/-- VSIG (R282). -/
def execVsig (ty : Ty) (rm : Rm) (a b : VReg) (s : State) : Host.Outcome State Fault Refusal :=
  s.special ty rm a b sigNum

/-- A compare of lanes (R283): by value; a NaN makes only `.ne` true. -/
def State.vcmp (s : State) (ty : Ty) (a b c : VReg) (nan : Bool) (f : Ordering → Bool) :
    Host.Outcome State Fault Refusal :=
  s.lane2 ty a b c fun x y =>
    let u := valOf ty x
    let v := valOf ty y
    let r := if u.isNan || v.isNan then nan else f (cmpNum u v)
    (if r then 2 ^ ty.width - 1 else 0, snan [u, v])

/-- VCMP_EQ (R283). -/
def execVcmpEq (ty : Ty) (a b c : VReg) (s : State) : Host.Outcome State Fault Refusal :=
  s.vcmp ty a b c false (· == .eq)
/-- VCMP_NE (R283). -/
def execVcmpNe (ty : Ty) (a b c : VReg) (s : State) : Host.Outcome State Fault Refusal :=
  s.vcmp ty a b c true (· != .eq)
/-- VCMP_LT (R283). -/
def execVcmpLt (ty : Ty) (a b c : VReg) (s : State) : Host.Outcome State Fault Refusal :=
  s.vcmp ty a b c false (· == .lt)
/-- VCMP_LE (R283). -/
def execVcmpLe (ty : Ty) (a b c : VReg) (s : State) : Host.Outcome State Fault Refusal :=
  s.vcmp ty a b c false (· != .gt)
/-- VCMP_GT (R283). -/
def execVcmpGt (ty : Ty) (a b c : VReg) (s : State) : Host.Outcome State Fault Refusal :=
  s.vcmp ty a b c false (· == .gt)
/-- VCMP_GE (R283). -/
def execVcmpGe (ty : Ty) (a b c : VReg) (s : State) : Host.Outcome State Fault Refusal :=
  s.vcmp ty a b c false (· != .lt)

/-- VSEL (R284). -/
def execVsel (ty : Ty) (a b c d : VReg) (s : State) : Host.Outcome State Fault Refusal :=
  s.vop a [b, c, d] fun s =>
    let k := ty.bytes
    let l (r : VReg) : List Nat := lanes k s.rbNow (s.vec r)
    (ofLanes k ((((l b).zip (l c)).zip (l d)).map fun ((m, x), y) => if m / 2 ^ (ty.width - 1) = 1 then x else y), 0)

/-- VPERM (R285). -/
def execVperm (ty : Ty) (a b c : VReg) (s : State) : Host.Outcome State Fault Refusal :=
  s.vop a [b, c] fun s =>
    let k := ty.bytes
    let x := lanes k s.rbNow (s.vec b)
    (ofLanes k ((lanes k s.rbNow (s.vec c)).map fun i => x.getD i 0), 0)
/-- VSHUF (R285). -/
def execVshuf (ty : Ty) (a b c d : VReg) (s : State) : Host.Outcome State Fault Refusal :=
  s.vop a [b, c, d] fun s =>
    let k := ty.bytes
    let x := lanes k s.rbNow (s.vec b) ++ lanes k s.rbNow (s.vec c)
    (ofLanes k ((lanes k s.rbNow (s.vec d)).map fun i => x.getD i 0), 0)
/-- VBCAST (R285). -/
def execVbcast (ty : Ty) (a : VReg) (b : XReg) (s : State) : Host.Outcome State Fault Refusal :=
  s.vop a [] fun s =>
    let k := ty.bytes
    (ofLanes k (List.replicate (s.rbNow / k) ((s.x b).toNat % 2 ^ (8 * k))), 0)
/-- VROT (R285). -/
def execVrot (ty : Ty) (a b : VReg) (c : XReg) (s : State) : Host.Outcome State Fault Refusal :=
  s.vop a [b] fun s =>
    let k := ty.bytes
    let x := lanes k s.rbNow (s.vec b)
    let n := x.length
    let r := (s.x c).toNat % n
    (ofLanes k ((List.range n).map fun j => x.getD ((j + n - r) % n) 0), 0)

/-- A reduction's result extended to 64 bits: Res for integers, zero-extended bits for floating types (R286). -/
def resTy (ty : Ty) (v : Nat) : Word := if ty.isInt then ty.res (v : Int) else BitVec.ofNat 64 v

/-- Lanes reduced by the fmin or fmax rule, or to the least or greatest (R286). -/
def reduceTy (ty : Ty) (isMax : Bool) (l : List Nat) : Nat × Flags :=
  match l with
  | [] => (0, 0)
  | x :: xs =>
    let (v, f) := xs.foldl (fun (v, f) y => let (r, g) := minmaxTy ty isMax v y; (r, f ||| g)) (x, 0)
    let v := if (valOf ty v).isNan && !ty.isInt then (roundTy ty .rne (.nan false)).1 else v
    (v, f ||| (if ty.isInt then 0 else snan (l.map (valOf ty))))

/-- Lanes summed: exactly, then rounded once or wrapped (R286). -/
def sumTy (ty : Ty) (rm : Rm) (l : List Nat) : Nat × Flags :=
  if ty.isInt then wrapLane ty (l.foldl (fun t x => t + laneInt ty x) 0)
  else rounded ty rm (sumNum false (l.map (valOf ty)))

/-- A reduction to a scalar. -/
def State.reduce (s : State) (ty : Ty) (a : XReg) (b : VReg) (f : List Nat → Nat × Flags) :
    Host.Outcome State Fault Refusal :=
  s.cop [s.destX a] fun s =>
    let (v, fl) := f (lanes ty.bytes s.rbNow (s.vec b))
    .ok s [(resTy ty v).setWidth 2048] fl

/-- VREDADD (R286). -/
def execVredadd (ty : Ty) (rm : Rm) (a : XReg) (b : VReg) (s : State) : Host.Outcome State Fault Refusal :=
  s.reduce ty a b (sumTy ty rm)
/-- VREDMAX (R286). -/
def execVredmax (ty : Ty) (a : XReg) (b : VReg) (s : State) : Host.Outcome State Fault Refusal :=
  s.reduce ty a b (reduceTy ty true)
/-- VREDMIN (R286). -/
def execVredmin (ty : Ty) (a : XReg) (b : VReg) (s : State) : Host.Outcome State Fault Refusal :=
  s.reduce ty a b (reduceTy ty false)

/-- The part of a conversion (R287): source bits in, destination lanes out, the others as they were. -/
def cvtLanes (ty ty2 : Ty) (rm : Rm) (rb q : Nat) (src old : Val) : Val × Flags :=
  let kd := ty.bytes
  let ks := ty2.bytes
  let m := rb / max kd ks
  let part := q % (max kd ks / min kd ks)
  let from' := lanes ks rb src
  let conv (x : Nat) : Nat × Flags := roundTy ty rm (valOf ty2 x)
  let fl (x : Nat) : Flags := (conv x).2 ||| snan [valOf ty2 x]
  let was := lanes kd rb old
  if kd < ks then
    let new := (List.range (rb / kd)).map fun j =>
      if part * m ≤ j && j < part * m + m then (conv (from'.getD (j - part * m) 0)).1 else was.getD j 0
    (ofLanes kd new, from'.foldl (fun f x => f ||| fl x) 0)
  else
    let used := (from'.drop (part * m)).take m
    (ofLanes kd (used.map fun x => (conv x).1), used.foldl (fun f x => f ||| fl x) 0)

/-- CVT (R287). -/
def execCvt (ty ty2 : Ty) (rm : Rm) (a b : VReg) (c : XReg) (s : State) : Host.Outcome State Fault Refusal :=
  s.vop a [b] fun s =>
    let old := match a with
      | .s _ => 0
      | r => s.vec r
    cvtLanes ty ty2 rm s.rbNow (s.x c).toNat (s.vec b) old

/-- UNPK (R263). -/
def execUnpk (ty ty2 : Ty) (rm : Rm) (a b : VReg) (c : XReg) (s : State) : Host.Outcome State Fault Refusal :=
  s.vop a [b] fun s =>
    let x := (s.x c).toNat
    let k := ty.bytes
    let n := s.rbNow / k
    let q := bitsOf x 8 2 % k
    let bs := lanes 1 s.rbNow (s.vec b)
    packFlags k ((List.range n).map fun j =>
      let (v, f) := decodeScaled ty2 (bs.getD (q * n + j) 0) (x % 256)
      rounded ty rm (v, f))

/-- The way of an amax update in its yard (R212, R131): it waits until the entry is in the yard's runs, and for device and
system scope until it is applied, unless a tentative entry stands before it (R117). Phase 62. -/
def State.amaxSettle (s : State) (die : Nat) (key : Word) (apply : Bool) (next : State → CopOut) : CopOut :=
  let mine (e : Entry) : Bool := e.key == key && e.op == .amax && e.task == noTask && !e.tent
  if (s.dieAt die).outside.any mine then .hold s 62
  else if !apply then next s
  else
    let s := s.applyKey die key mine
    if ((s.dieAt die).applicable key ++ (s.dieAt die).outside).any mine then .hold s 62 else next s

/-- The amax update of a conversion under a TNR (R212, R291): committed, of no task, counted by the monitors (R97) and brought
as far as its scope asks before the instruction completes. One on an ORD 1 page goes to its yard at once and pins the unit
(R131). While its way is not free nothing is emitted. -/
def State.amaxEmit (s : State) (t : Tnr) (l : List Num) (next : State → CopOut) : CopOut :=
  match maxAbs l with
  | none => next s
  | some m =>
    if t.ascope = 0 || t.ascope = 7 then next s
    else
      let ctx := s.me.cr.ctx.toNat
      let n := s.cur.core
      let k := s.cur.slot
      let va := t.amaxa / 4 * 4
      let r := s.route ctx va
      let bits := (roundTy .f32 .rne m).1
      let e : Entry := { repGranule ctx va bits with op := .amax, ord := BitVec.ofNat 2 r.ord, age := s.now }
      let settle (s : State) : CopOut := s.amaxSettle r.home e.key (5 ≤ t.ascope) next
      let counted (s : State) : State := s.monitor n k .amax false va bits false
      if s.cur.iss.phase = 62 then settle s
      else if r.ord = 1 then
        if s.me.sosOut != 0 then .hold s 44
        else
          match s.yardAccept r.home e 1 with
          | some s => settle ((counted s).modMe fun t => { t with pin := true })
          | none => .hold s 61
      else
        match s.emit n e with
        | none => .hold s 61
        | some s1 =>
          let s1 := (counted s1).stallFill n
          if t.ascope ≤ 2 then next s1
          else if !s1.shedOpen (clusterOf n) then .hold s 61
          else
            match s1.moveStallKey n e.key with
            | (_, false) => .hold s 61
            | (s1, true) =>
              if t.ascope = 3 then next s1
              else
                match s1.moveShedKey (clusterOf n) e.key with
                | (_, false) => .hold s 61
                | (s1, true) => settle s1

/-- Captures a TNR that names a narrow format (R288): a poisoned record or another format is a COP fault. -/
def State.narrowTnr (s : State) (c : XReg) (go : State → Tnr → Ty → CopOut) : CopOut :=
  match s.control (s.x c).toNat with
  | .error e => e
  | .ok (s, v, psn) =>
    let t := Tnr.ofImage v psn
    match fmtTy t.fmt with
    | some ty => if psn || !fmtNarrow t.fmt then .fault s false else go s t ty
    | none => .fault s false

/-- Lanes of a conversion with whether each lies within the tensor (R288). -/
def inRange (ctl : Nat) (cols : Nat) (j : Nat) : Bool := ctl / 2 ^ 40 % 2 = 0 && ctl % 2 ^ 32 + j < cols

/-- CVTN (R288, R289, R291). -/
def execCvtn (ty2 : Ty) (rm : Rm) (a b : VReg) (c d : XReg) (s : State) : Host.Outcome State Fault Refusal :=
  s.cop [destV a] fun s => s.narrowTnr c fun s t ty =>
    let ctl := (s.x d).toNat
    let src := (lanes ty2.bytes s.rbNow (s.vec b)).map (valOf ty2)
    let inr (j : Nat) : Bool := inRange ctl t.cols j
    let out := (src.zipIdx).map fun (x, j) =>
      if inr j then
        let (r, f) := convertCode ty t.bound x (bitsOf ctl 32 8) rm
        (r, f ||| snan [x])
      else (0, 0)
    s.amaxEmit t ((src.zipIdx).filterMap fun (x, j) => if inr j then some x else none) fun s =>
      let (v, f) := packFlags 1 out
      .ok s [v] f

/-- VQUANT (R288, R290, R291). -/
def execVquant (ty2 : Ty) (rm : Rm) (a b : VReg) (c d : XReg) (s : State) : Host.Outcome State Fault Refusal :=
  s.cop [destV a] fun s => s.narrowTnr c fun s t ty =>
    let ctl := (s.x d).toNat
    let src := (lanes ty2.bytes s.rbNow (s.vec b)).map (valOf ty2)
    let n := src.length
    let inr (j : Nat) : Bool := inRange ctl t.cols j
    let part (i g : Nat) : List Num :=
      (List.range g).filterMap fun j => if inr (g * i + j) then src[g * i + j]? else none
    let finish (g : Option Nat) : CopOut :=
      let codes := match g with
        | none => []
        | some g => (List.range (n / g)).map fun i => scaleCode ty (part i g)
      let out := (src.zipIdx).map fun (x, j) =>
        if inr j then
          let code := match g with
            | none => 127
            | some g => ((codes[j / g]?).map Prod.fst).getD 0
          let (r, f) := convertCode ty t.bound x code rm
          (r, f ||| snan [x])
        else (0, 0)
      s.amaxEmit t ((src.zipIdx).filterMap fun (x, j) => if inr j then some x else none) fun s =>
        let (v, f) := packFlags 1 (out ++ codes)
        .ok s [v] f
    if t.geom = 4 then finish none
    else
      match geomG t.geom with
      | some g => if n < g then .fault s false else finish (some g)
      | none => .fault s false

/-- The contribution of an `xmax`: the lanes reduced as `vredmax` (R292). -/
def xmaxContribution (ty : Ty) (rb : Nat) (v : Val) : Nat × Flags := reduceTy ty true (lanes ty.bytes rb v)

/-- XMAX (R292): the commit point; the core's turn; the contribution; the result of the exchange. -/
def execXmax (ty : Ty) (a : XReg) (b : VReg) (s : State) : Host.Outcome State Fault Refusal :=
  let n := s.cur.core
  let k := s.cur.slot
  let contribute (s : State) : State :=
    if s.myCore.xpend.isSome then (s.block .exchangeTurn 2).waitCancel
    else
      let (v, f) := xmaxContribution ty s.me.rb (s.vec b)
      let c : Contribution := ⟨s.myCore.xcount, n, k, ty, BitVec.ofNat 64 v⟩
      let s := (s.orFlags f).modMyCore fun c => { c with xpend := some k }
      (((s.modMe fun t => { t with reply := none }).push
        [.xmaxContributionArrival (clusterOf n) c]).block .exchange 3).waitCancel
  match s.phase with
  | 0 => .next s.commitStart
  | 1 => .next (contribute (s.modMe fun t => { t with commit := .idle }))
  | 2 => .next (contribute s)
  | _ =>
    let v := s.me.reply.getD 0
    .next (((s.modMe fun t => { t with reply := none }).wx a (resTy ty v.toNat)).retire)

/-- The number of cores of a cluster that contribute the least value: vacated, or in a killed paddock (R94, R292). -/
def State.xmaxAway (s : State) (cl pos : Nat) : Bool := s.vacated (coreOf cl pos) || s.killed (coreOf cl pos)

/-- An exchange has the contributions of all cores that are there (R94). -/
def State.xmaxFull (s : State) (cl : Nat) (x : Exch) : Bool :=
  (List.range 8).all fun p => x.parts.any (·.1 == p) || s.xmaxAway cl p

/-- XMAX_CONTRIBUTION_ARRIVAL (R94, R292): recorded as pending for its exchange; the last one completes it, before an abort of the
same cycle (R297). -/
def execXmaxContributionArrival (s : State) : Host.Outcome State Fault Refusal :=
  match s.ev with
  | .xmaxContributionArrival cl c =>
    if s.killed c.core || (s.coreAt c.core).xpend != some c.slot then .next s
    else
      let l := (s.clusterAt cl).exch
      let p := (posOf c.core, c)
      let l := if l.any (·.n == c.exch) then mapIf (·.n == c.exch) (fun x => { x with parts := x.parts ++ [p] }) l
        else l ++ [⟨c.exch, [p]⟩]
      let s := s.modCluster cl fun x => { x with exch := l }
      .next (if l.any fun x => x.n == c.exch && s.xmaxFull cl x then s.pushFront [.xmaxExchangeComplete cl c.exch] else s)
  | _ => .next s

/-- The least value of a type (R292). -/
def leastOf (ty : Ty) : Nat :=
  if ty.isFloat then (roundTy ty .rne (.inf true)).1 else if ty.isSigned then 2 ^ (ty.width - 1) else 0

/-- The core's rectangle has been vacated before this cycle, or its paddock killed (R292, R297). -/
def State.xmaxGone (s : State) (cl pos : Nat) : Bool :=
  (s.io.vacates.any fun v => v.since < s.now && inRect v.word0.toNat (coreOf cl pos)) || s.killed (coreOf cl pos)

/-- The contributions to an exchange (R292): that of a core that is vacated or inside a killed paddock is the least value; one that
was given by the cycle of the vacate counts in it (R297). -/
def State.xmaxParts (s : State) (cl : Nat) (ty : Ty) (x : Exch) : List Nat :=
  (List.range 8).map fun p =>
    match x.parts.find? (·.1 == p) with
    | some c => if s.xmaxGone cl p then leastOf ty else c.2.value.toNat % 2 ^ ty.width
    | none => leastOf ty

/-- XMAX_EXCHANGE_COMPLETE (R292): the greatest contribution, compared under the type of the lowest position's. -/
def execXmaxExchangeComplete (s : State) : Host.Outcome State Fault Refusal :=
  match s.ev with
  | .xmaxExchangeComplete cl e =>
    match (s.clusterAt cl).exch.find? (·.n == e) with
    | none => .next s
    | some x =>
      let first := (List.range 8).findSome? fun p => x.parts.find? (·.1 == p)
      let ty := (first.map fun p => p.2.ty).getD .f32
      let v := (reduceTy ty true (s.xmaxParts cl ty x)).1
      let s := s.modCluster cl fun c => { c with exch := c.exch.filter (·.n != e) }
      let s := x.parts.foldl (fun s (_, c) =>
        s.modThr c.core c.slot fun t => { t with reply := some (BitVec.ofNat 64 v) }) s
      .next ((List.range 8).foldl (fun s p =>
        s.modCore (coreOf cl p) fun c => { c with xcount := e + 1, xpend := none }) s)
  | _ => .next s

/-- A slot of the statistics buffer (R96). -/
def Core.stat (c : Core) (row slot : Nat) : Nat := (look c.stats (8 * row + slot) 0).toNat

/-- RoundTo(f32, y, rne) of an exact result, on codes with flags. -/
def rndF (r : Num × Flags) : Nat × Flags := rounded .f32 .rne r

/-- A statistics row while elements are folded in (R293): COUNT, MEAN, M2, MAX, SEXP and the flags. -/
structure StatRow where
  count : Nat
  mean : Nat
  m2 : Nat
  mx : Nat
  sexp : Nat
  fl : Flags
  deriving DecidableEq, Repr

/-- Value of a code of .f32. -/
def f32 (c : Nat) : Num := valOf .f32 c

/-- Sum of two .f32 codes. -/
def addF (x y : Nat) : Nat × Flags := rndF (sumNum false [f32 x, f32 y])
/-- Difference of two .f32 codes. -/
def subF (x y : Nat) : Nat × Flags := rndF (sumNum false [f32 x, (f32 y).negate])
/-- Product of two .f32 codes. -/
def mulF (x y : Nat) : Nat × Flags := rndF (mulNum (f32 x) (f32 y))
/-- The code of 1.0. -/
def oneF : Nat := 0x3F800000

/-- Folds one element into a row (R293); a NaN that begins a row stands there as the canonical one (R199). -/
def StatRow.fold (r : StatRow) (x : Nat) : StatRow :=
  if r.count = 0 then
    let v := if (f32 x).isNan then (roundTy .f32 .rne (.nan false)).1 else x
    { r with count := 1, mean := v, m2 := 0, mx := v, sexp := oneF, fl := r.fl ||| snan [f32 x] }
  else
    let count := min (r.count + 1) (2 ^ 32 - 1)
    let (d, f1) := subF x r.mean
    let (q, f2) := rndF (divNum (f32 d) (.ofInt count))
    let (mean, f3) := addF r.mean q
    let (d2, f4) := subF x mean
    let (p, f5) := mulF d d2
    let (m2, f6) := addF r.m2 p
    let above := !(f32 x).isNan && !(f32 r.mx).isNan && ltNum (f32 r.mx) (f32 x)
    let f := r.fl ||| f1 ||| f2 ||| f3 ||| f4 ||| f5 ||| f6
    if above then
      let (e, g1) := subF r.mx x
      let (w, g2) := rndF (expNum (f32 e))
      let (u, g3) := mulF r.sexp w
      let (sexp, g4) := addF u oneF
      ⟨count, mean, m2, x, sexp, f ||| g1 ||| g2 ||| g3 ||| g4⟩
    else
      let (e, g1) := subF x r.mx
      let (w, g2) := rndF (expNum (f32 e))
      let (sexp, g3) := addF r.sexp w
      ⟨count, mean, m2, r.mx, sexp, f ||| g1 ||| g2 ||| g3⟩

/-- SBUPD (R293): the row is updated whole, at its dispatch. -/
def execSbupd (b : VReg) (c d : XReg) (s : State) : Host.Outcome State Fault Refusal :=
  s.cop [] fun s =>
    let row := (s.x c).toNat % 16
    let l := lanes 4 s.rbNow (s.vec b)
    let m := min (s.x d).toNat l.length
    if m = 0 then .ok s [] 0
    else
      let st (i : Nat) : Nat := s.myCore.stat row i
      let r := (l.take m).foldl StatRow.fold ⟨st 0, st 1, st 2, st 4, st 5, 0⟩
      -- 1/√(M2/COUNT), with one rounding: the quotient is exact as the pair (M2, COUNT)
      let (rdev, f1) := rndF (rsqrtQuot (f32 r.m2) r.count)
      let (lg, f2) := rndF (logNum (f32 r.sexp))
      let (lse, f3) := addF r.mx lg
      let vals := [r.count, r.mean, r.m2, rdev, r.mx, r.sexp, lse]
      let s := s.modMyCore fun c =>
        { c with stats := (vals.zipIdx).foldl (fun m (v, i) => put m (8 * row + i) (BitVec.ofNat 32 v)) c.stats }
      .ok s [] (r.fl ||| f1 ||| f2 ||| f3)

/-- One lane of VHASH (R294). -/
def hashLane (wide : Bool) (h : Nat) : Nat :=
  if wide then
    let m := 2 ^ 64
    let h := h ^^^ (h / 2 ^ 30)
    let h := h * 0xBF58476D1CE4E5B9 % m
    let h := h ^^^ (h / 2 ^ 27)
    let h := h * 0x94D049BB133111EB % m
    h ^^^ (h / 2 ^ 31)
  else
    let m := 2 ^ 32
    let h := h ^^^ (h / 2 ^ 16)
    let h := h * 0x7FEB352D % m
    let h := h ^^^ (h / 2 ^ 15)
    let h := h * 0x846CA68B % m
    h ^^^ (h / 2 ^ 16)

/-- VHASH (R294). -/
def execVhash (ty : Ty) (a b : VReg) (c : XReg) (s : State) : Host.Outcome State Fault Refusal :=
  s.vop a [b] fun s =>
    let k := ty.bytes
    let seed := (s.x c).toNat % 2 ^ (8 * k)
    (ofLanes k ((lanes k s.rbNow (s.vec b)).map fun x => hashLane (k == 8) (x ^^^ seed)), 0)

/-- The compare of R295 over the first bytes of two registers. -/
def bytesCompare : List (Nat × Nat) → Nat → Int
  | [], _ => 0
  | (x, y) :: l, i => if x < y then -((i : Int) + 1) else if y < x then (i : Int) + 1 else bytesCompare l (i + 1)

/-- VBCMP (R295). -/
def execVbcmp (a : XReg) (b c : VReg) (d : XReg) (s : State) : Host.Outcome State Fault Refusal :=
  s.cop [s.destX a] fun s =>
    let rb := s.rbNow
    let n := min (s.x d).toNat rb
    let l := ((lanes 1 rb (s.vec b)).zip (lanes 1 rb (s.vec c))).take n
    .ok s [(BitVec.ofInt 64 (bytesCompare l 0)).setWidth 2048] 0

/-- VMOV (R296). -/
def execVmov (a b : VReg) (s : State) : Host.Outcome State Fault Refusal := s.vop a [b] fun s => (s.vec b, 0)
/-- VINS (R296). -/
def execVins (ty : Ty) (a : VReg) (b c : XReg) (s : State) : Host.Outcome State Fault Refusal :=
  s.vop a [] fun s =>
    let k := ty.bytes
    (ofLanes k ((lanes k s.rbNow (s.vec a)).set (s.x c).toNat ((s.x b).toNat % 2 ^ (8 * k))), 0)
/-- VEXT (R296). -/
def execVext (ty : Ty) (a : XReg) (b : VReg) (c : XReg) (s : State) : Host.Outcome State Fault Refusal :=
  s.cop [s.destX a] fun s =>
    let k := ty.bytes
    let v := (lanes k s.rbNow (s.vec b)).getD (s.x c).toNat 0
    .ok s [(if ty.isSigned then BitVec.ofInt 64 (toSigned (8 * k) v) else BitVec.ofNat 64 v).setWidth 2048] 0

end Sys2Proof.Machine
end

