-- ==== Sys2Proof/Machine/Matrix.lean ====
section
/-! DEFINITION. Matrix instructions: tiles and their pairs (R81, R200), panels of the local store, dense and sparse
multiply-accumulate (R298 to R304), the tile macro instruction (R305 to R308), the product at home (R309, R310), tile
management and read-out (R311, R312), the scale keeper (R313) and the statistics rows (R314). -/

namespace Sys2Proof.Machine

/-- A pair of operand types that the matrix unit multiplies under an accumulator type (R298). -/
def pairOk (acc a b : Ty) : Bool :=
  let wide (t : Ty) : Bool := t == .f16 || t == .bf16
  let byte (t : Ty) : Bool := t == .e4m3 || t == .e5m2 || t == .i8 || t == .n8
  match acc with
  | .f64 => a == .f64 && b == .f64
  | .f32 => (wide a && wide b) || ((byte a || a == .tw8) && (byte b || b == .tw8))
  | _ => false

/-- The format of an accumulator (R298). -/
def accFmt (ty : Ty) : FFmt := if ty == .f64 then fp64 else fp40

/-- The elements of a tile, or of the FP64 accumulator that an even tile names (R81, R200). -/
def Thread.tile (t : Thread) (ty : Ty) (a : Nat) : List Nat :=
  let el (a e : Nat) : Nat := (look t.a (256 * a + e) 0).toNat
  (List.range 256).map fun e =>
    if ty == .f64 then el a e * 2 ^ 24 + el (a + 1) e / 2 ^ 16 else el a e

/-- One tile with all its elements written. -/
def Thread.setTile1 (t : Thread) (a : Nat) (l : List Nat) : Thread :=
  let lo := t.a.filter fun (k, _) => k < 256 * a
  let hi := t.a.filter fun (k, _) => 256 * a + 256 ≤ k
  let own := (l.zipIdx).filterMap fun (v, e) => if v = 0 then none else some (256 * a + e, BitVec.ofNat 40 v)
  { t with a := lo ++ own ++ hi }

/-- A tile, or the two tiles of an FP64 accumulator, with all elements written (R200). -/
def Thread.setTile (t : Thread) (ty : Ty) (a : Nat) (l : List Nat) : Thread :=
  if ty == .f64 then
    (t.setTile1 a (l.map fun v => v / 2 ^ 24)).setTile1 (a + 1) (l.map fun v => v % 2 ^ 24 * 2 ^ 16)
  else t.setTile1 a l

/-- Every byte of a local-store access passes the protection unit (R88, R300). -/
def State.lsBytes (s : State) (off n : Nat) (write : Bool) : Bool :=
  (List.range n).all fun i => s.myCore.lsOk s.me.cr.ctx (off + i) 1 write

/-- Elements of `k` bytes at places of the local store, or `none` where a byte does not pass (R300). -/
def State.lsElems (s : State) (k : Nat) (places : List Nat) : Option (List Nat) :=
  if places.all fun a => s.lsBytes a k false then some (places.map fun a => s.myCore.lsNum a k) else none

/-- The control word of R301. -/
structure MmaCtl where
  smode : Nat
  bty : Nat
  eca : Nat
  ecb : Nat
  apitch : Nat
  bpitch : Nat
  kc : Nat
  k : Nat
  deriving DecidableEq, Repr

/-- The fields of a control word (R301): a pitch of 0 acts as 256, a KLAST outside 1..16 as 16. -/
def mmaCtl (x : Word) : MmaCtl :=
  let n := x.toNat
  let pitch (p : Nat) : Nat := if p = 0 then 256 else p
  let kl := n % 32
  let klast := if kl = 0 || 16 < kl then 16 else kl
  let kc := bitsOf n 8 8
  ⟨bitsOf n 62 2, bitsOf n 57 5, bitsOf n 40 8, bitsOf n 32 8, 16 * pitch (bitsOf n 24 8), 16 * pitch (bitsOf n 16 8), kc,
    if kc = 0 then 0 else 16 * (kc - 1) + klast⟩

/-- The scale exponent of a control word, and whether a code makes every product NaN (R302). -/
def State.mmaScale (s : State) (c : MmaCtl) : Int × Bool :=
  match c.smode with
  | 1 => (s.myCore.skr.toInt - 127, false)
  | 2 => ((c.eca : Int) - 127 + ((c.ecb : Int) - 127), c.eca == 0xFF || c.ecb == 0xFF)
  | _ => (0, false)

/-- The chunks of 16 of a list along K (R214). -/
def chunks {α : Type} (l : List α) : List (List α) := stretches 16 l.length l

/-- Accumulates every chunk of a row of operand A and a column of operand B into one element (R214): `none` stands for an
exact zero, which contributes nothing. -/
def accRow (f : FFmt) (acc : Nat) (row col : List (Option Num)) (scale : Int) : Nat × Flags :=
  (chunks (row.zip col)).foldl (fun (acc, fl) c =>
    let (v, g) := chunkAcc f acc (c.filterMap fun (a, b) =>
      match a, b with
      | some a, some b => some (a, b, scale)
      | _, _ => none)
    (v, fl ||| g)) (acc, 0)

/-- A tile accumulated from 16 rows of operand A and 16 columns of operand B (R302). -/
def accTile (f : FFmt) (t : List Nat) (rows cols : List (List (Option Num))) (scale : Int) : List Nat × Flags :=
  (t.zipIdx).foldl (fun (out, fl) (acc, e) =>
    let (v, g) := accRow f acc (rows.getD (e / 16) []) (cols.getD (e % 16) []) scale
    (out ++ [v], fl ||| g)) ([], 0)

/-- The rows of operand A of a control word (R302). -/
def State.panelA (s : State) (ty : Ty) (oa : Nat) (c : MmaCtl) : Option (List (List Num)) :=
  (List.range 16).mapM fun i =>
    (s.lsElems ty.bytes ((List.range c.k).map fun q => oa + c.apitch * i + ty.bytes * q)).map fun l => l.map (valOf ty)

/-- The columns of operand B of a control word (R302). -/
def State.panelB (s : State) (ty : Ty) (ob : Nat) (c : MmaCtl) : Option (List (List Num)) :=
  (List.range 16).mapM fun j =>
    (s.lsElems ty.bytes ((List.range c.k).map fun q => ob + c.bpitch * q + ty.bytes * j)).map fun l => l.map (valOf ty)

/-- The common part of `mma` and `mmas` (R302, R303): the pair, then the operands, then `keep` of each row of operand A, which
may refuse, then the tile. -/
def State.mmaDo (s : State) (ty ty2 : Ty) (a : AReg) (b c d : XReg)
    (keep : MmaCtl → Nat → List Num → Option (List (Option Num))) : CopOut :=
  let ctl := mmaCtl (s.x d)
  match tyOf ctl.bty with
  | none => .fault s false
  | some tb =>
    if !pairOk ty ty2 tb then .fault s false
    else if ctl.kc = 0 then .ok s [] 0
    else
      match s.panelA ty2 (s.x b).toNat ctl, s.panelB tb (s.x c).toNat ctl with
      | some rows, some cols =>
        match ((rows.zipIdx).mapM fun (r, i) => keep ctl i r) with
        | none => .fault s false
        | some rows =>
          let (scale, nan) := s.mmaScale ctl
          let rows := if nan then rows.map fun r => r.map fun x => x.map fun _ => Num.nan false else rows
          let (t, fl) := accTile (accFmt ty) (s.me.tile ty a.toNat) rows (cols.map fun l => l.map some) scale
          .ok (s.modMe fun x => x.setTile ty a.toNat t) [] fl
      | _, _ => .fault s false

/-- MMA (R302). -/
def execMma (ty ty2 : Ty) (a : AReg) (b c d : XReg) (s : State) : Host.Outcome State Fault Refusal :=
  s.cop [] fun s => s.mmaDo ty ty2 a b c d fun _ _ r => some (r.map some)

/-- The groups of 24 of a row, zeros beyond K (R213). -/
def groups24 (row : List Num) : List (List Num) :=
  (stretches 24 row.length row).map fun g => g ++ List.replicate (24 - g.length) (.zero false)

/-- A row of operand A under the masks of its groups (R213, R303): an element that is not kept is replaced by +0. -/
def keepRow (row : List Num) (masks : List Nat) : List (Option Num) :=
  (row.zipIdx).map fun (x, q) => some (if (masks.getD (q / 24) 0).testBit (q % 24) then x else .zero false)

/-- N of the immediate of `mmas` (R303). -/
def nCode (imm : BitVec 18) : Nat := [4, 6, 8, 12].getD (imm.toNat % 4) 4

/-- Set bits of a number. -/
def popCount (n m : Nat) : Nat := ((List.range n).filter fun i => m.testBit i).length

/-- MMAS (R303): computed masks, or masks forced from the local store. -/
def execMmas (ty2 : Ty) (a : AReg) (b c d e : XReg) (imm : BitVec 18) (s : State) : Host.Outcome State Fault Refusal :=
  let n := nCode imm
  s.cop [] fun s => s.mmaDo .f32 ty2 a b c d fun ctl i row =>
    let gs := groups24 row
    if e == .dir 0 then some (keepRow row (gs.map (selectMask n)))
    else
      let ng := (ctl.k + 23) / 24
      match s.lsElems 4 ((List.range ng).map fun g => (s.x e).toNat + 4 * (i * ng + g)) with
      | none => none
      | some ws =>
        let masks := ws.map (· % 2 ^ 24)
        if masks.all fun m => popCount 24 m == n then some (keepRow row masks) else none

/-- TOPK (R304). -/
def execTopk (ty : Ty) (a b c d : XReg) (s : State) : Host.Outcome State Fault Refusal :=
  s.cop [] fun s =>
    let ctl := mmaCtl (s.x c)
    let n := (s.x d).toNat
    let at' := (s.x a).toNat
    if !(n == 4 || n == 6 || n == 8 || n == 12) then .fault s false
    else
      match s.panelA ty (s.x b).toNat ctl with
      | none => .fault s false
      | some rows =>
        let bytes := (rows.flatMap groups24).flatMap fun g => leBytes 4 (selectMask n g)
        if s.lsBytes at' bytes.length true then .ok (s.modMyCore fun c => c.lsWrite at' bytes) [] 0 else .fault s false

/-- One side of an `mmt`, as its sequencer has captured it (R305, R306). -/
structure Side where
  tnr : Tnr
  h : Word
  soff : Nat
  wr : Nat
  wc : Nat
  tr : Bool
  deriving DecidableEq, Repr

/-- A side from the image of its TNR and the operands (R305). -/
def State.mmtSide (s : State) (q : Bool) (image : Nat) (psn : Bool) (d o : XReg) (imm : BitVec 18) : Side :=
  let w := (s.x d).toNat
  let k := if q then 1 else 0
  let org := (s.x o).toNat
  ⟨Tnr.ofImage image psn, BitVec.ofNat 64 (bitsOf w (16 * k) 16), bitsOf w (32 + 16 * k) 16, bitsOf org 32 32, org % 2 ^ 32,
    imm.getLsbD (8 + k)⟩

/-- Elements to a block of a side's buffer, if its format has block scales (R306). -/
def Side.g (x : Side) : Option Nat := if fmtNarrow x.tnr.fmt then geomG x.tnr.geom else none

/-- The type of a side's elements. -/
def Side.ty (x : Side) : Option Ty := fmtTy x.tnr.fmt

/-- The handle of a side fails the first row of R90 for the thread. -/
def State.handleBad (s : State) (h : Word) : Bool :=
  match s.handleByte h 0 with
  | .fault t => t == h
  | _ => false

/-- SWTAG of a handle's entry (R89). -/
def State.swtag (s : State) (h : Word) : Nat :=
  bitsOf (look (s.clusterAt (clusterOf s.cur.core)).htab (bitsOf h.toNat 0 9) 0).toNat 16 4

/-- The checks of R306, in order: the fault's swizzle bit, if one fails. -/
def State.mmtCheck (s : State) (ty : Ty) (p q : Side) : Option Bool :=
  let pitchBad (x : Side) : Bool :=
    match x.g, x.ty with
    | some g, some t => x.tnr.pitch % (t.bytes * g) != 0 || x.wc % g != 0
    | _, _ => false
  if p.tnr.psn || q.tnr.psn then some false
  else if s.handleBad p.h || s.handleBad q.h then some false
  else if p.tnr.swz != s.swtag p.h || q.tnr.swz != s.swtag q.h then some true
  else
    match p.ty, q.ty with
    | some a, some b => if !pairOk ty a b || pitchBad p || pitchBad q then some false else none
    | _, _ => some false

/-- A byte of a handle buffer as the sequencer reads it (R90, R300): the holder is the one checked at dispatch (R316). -/
def State.bufByte (s : State) (h : Word) (o : Nat) : HandleAcc :=
  let cl := clusterOf s.cur.core
  let v := look (s.clusterAt cl).htab (bitsOf h.toNat 0 9) 0
  let size := bitsOf v.toNat 37 12
  if !s.handleOk cl v || 64 * size + 64 ≤ o then .fault h
  else if 64 * size ≤ o then .guard (bitsOf v.toNat 61 3) o
  else .ok (coreOf cl (bitsOf v.toNat 61 3)) (64 * bitsOf v.toNat 49 12 + o)

/-- `n` bytes of a handle buffer: a byte of the guard granule reads as zero and is recorded once for the access; a byte
beyond it is a fault. -/
def State.bufNum (s : State) (h : Word) (o n : Nat) : Option (State × Nat) :=
  let accs := (List.range n).map fun i => (o + i, s.bufByte h (o + i))
  if accs.any fun (_, r) => match r with
      | .fault _ => true
      | _ => false then none
  else
    let v := leNat (accs.map fun (_, r) => match r with
      | .ok c off => BitVec.ofNat 8 ((s.coreAt c).lsNum off 1)
      | _ => 0)
    let touch := accs.findSome? fun (_, r) => match r with
      | .guard b a => some (b, a)
      | _ => none
    some (match touch with
      | some (b, a) => s.guardTouch b a
      | none => s, v)

/-- The element of a side at a row and column of its buffer, with its block scale (R306): `none` inside where it lies
outside the tensor, and outside where a byte faults. -/
def State.bufElem (s : State) (x : Side) (ty : Ty) (r c : Nat) : Option (State × Option (Num × Flags)) :=
  if x.tnr.rows ≤ x.wr + r || x.tnr.cols ≤ x.wc + c then some (s, none)
  else
    match s.bufNum x.h (r * x.tnr.pitch + ty.bytes * c) ty.bytes with
    | none => none
    | some (s, b) =>
      match x.g with
      | none => some (s, some (valOf ty b, 0))
      | some g =>
        (s.bufNum x.h (64 * x.soff + r * (x.tnr.pitch / (ty.bytes * g)) + c / g) 1).map fun (s, code) =>
          (s, some (if code = 0xFF then (.nan false, Flags.nv) else ((valOf ty b).scale ((code : Int) - 127), 0)))

/-- The 16 by 16 elements of a side's chunk: by output row or column, then K index. -/
def State.bufChunk (s : State) (x : Side) (ty : Ty) (byRow : Bool) (c : Nat) :
    Option (State × List (List (Option (Num × Flags)))) :=
  (List.range 16).foldlM (fun (s, rows) i => do
    let (s, row) ← (List.range 16).foldlM (fun (s, row) k => do
      let q := 16 * c + k
      let (r, cc) := if byRow != x.tr then (i, q) else (q, i)
      let (s, e) ← s.bufElem x ty r cc
      some (s, row ++ [e])) (s, [])
    some (s, rows ++ [row])) (s, [])

/-- Keeps what the sequencer has captured with the instruction in its pipe. -/
def State.setIss (s : State) (iss : Issue) : State :=
  ({ s with cur := { s.cur with iss := iss } } : State).modMe fun t =>
    { t with inflight := mapIf (·.seq == iss.seq) (fun _ => iss) t.inflight }

/-- Images of the two TNRs and the flags so far, kept with an `mmt` in its pipe. -/
def mmtKept (iss : Issue) (i : Nat) : Nat :=
  ((iss.vs.find? fun p => p.1 == .w (BitVec.ofNat 4 i)).map fun p => p.2.toNat).getD 0

/-- KCH of an immediate (R305, R309). -/
def kchOf (imm : BitVec 18) : Nat := if imm.toNat % 256 = 0 then 256 else imm.toNat % 256

/-- MMT (R305 to R308): at its dispatch, and again where it goes on after a stop, the sequencer captures the TNRs and makes
its checks; the chunks follow one by one. A dispatch that resumes nothing starts at chunk 0 (log 28). -/
def execMmt (ty : Ty) (a : AReg) (b c d e f : XReg) (imm : BitVec 18) (s : State) : Host.Outcome State Fault Refusal :=
  if !s.cur.iss.pipe then .next (s.copEnter [])
  else
    let fault (s : State) (sw : Bool) : State :=
      s.push [.copFaultDetect s.cur.core s.cur.slot (BitVec.ofNat 32 s.cur.iss.seq) sw]
    let held (r : CopOut) : State :=
      match r with
      | .hold s p => s.copHold p
      | .fault s sw => fault s sw
      | .ok s _ _ => s
    match s.control (s.x b).toNat with
    | .error r => .next (held r)
    | .ok (s, ip, psnP) =>
      match s.control (s.x c).toNat with
      | .error r => .next (held r)
      | .ok (s, iq, psnQ) =>
        let p := s.mmtSide false ip psnP d e imm
        let q := s.mmtSide true iq psnQ d f imm
        let s := s.modMe fun t => { t with mmtk := if t.mmta then t.mmtk else 0, mmta := false }
        match s.mmtCheck ty p q with
        | some sw => .next (fault s sw)
        | none =>
          let fl := mmtKept s.cur.iss 2
          let s := s.setIss { s.cur.iss with
            vs := [(.w 0, BitVec.ofNat 2048 ip), (.w 1, BitVec.ofNat 2048 iq), (.w 2, BitVec.ofNat 2048 fl)] }
          let s := if imm.getLsbD 10 && s.me.mmtk == 0 then
              s.modMe fun t => t.setTile ty a.toNat (List.replicate 256 0) else s
          .next (s.push [.mmtChunkComplete s.cur.core s.cur.slot])

/-- One chunk of an `mmt` (R307): the tile and flags, or `none` where a byte faults. -/
def State.mmtChunk (s : State) (ty : Ty) (a : AReg) (p q : Side) : Option (State × Flags) :=
  match p.ty, q.ty with
  | some ta, some tb => do
    let c := s.me.mmtk.toNat
    let (s, rows) ← s.bufChunk p ta true c
    let (s, cols) ← s.bufChunk q tb false c
    let fl := ((rows ++ cols).flatten).foldl (fun f x => f ||| (x.map Prod.snd).getD 0) (0 : Flags)
    let (t, g) := accTile (accFmt ty) (s.me.tile ty a.toNat) (rows.map fun r => r.map fun x => x.map Prod.fst)
      (cols.map fun r => r.map fun x => x.map Prod.fst) 0
    some (s.modMe fun x => x.setTile ty a.toNat t, fl ||| g)
  | _, _ => none

/-- MMT_CHUNK_COMPLETE (R307, R308, R81): one chunk; the sequencer may stop after it for a trap entry. -/
def execMmtChunkComplete (s : State) : Host.Outcome State Fault Refusal :=
  match s.ev with
  | .mmtChunkComplete n k =>
    let t := s.thr n k
    match (if t.mmtStop.isSome then none else t.inflight.find? fun i => isMmt i.instr && i.phase == 0) with
    | none => .next s
    | some iss =>
      let s := { s with cur := ⟨n, k, iss⟩ }
      match iss.instr with
      | .mmt ty a _ _ d e f imm =>
        let p := s.mmtSide false (mmtKept iss 0) false d e imm
        let q := s.mmtSide true (mmtKept iss 1) false d f imm
        match s.mmtChunk ty a p q with
        | none =>
          .next ((s.modMe fun t => { t with mmtHalt := false }).push
            [.copFaultDetect n k (BitVec.ofNat 32 iss.seq) false])
        | some (s, fl) =>
          let all : Flags := fl ||| BitVec.ofNat 5 (mmtKept iss 2)
          let done := t.mmtk.toNat + 1
          if done = kchOf imm then
            .next ((s.modMe fun t => { t with mmtk := 0, mmta := false, mmtHalt := false }).copFinish [] [] all)
          else
            let s := s.setIss { iss with vs := iss.vs.take 2 ++ [(.w 2, all.setWidth 2048)] }
            let s := s.modMe fun t => { t with mmtk := BitVec.ofNat 16 done }
            if t.mmtHalt then
              let i := s.cur.iss
              .next (s.modMe fun t => { t with mmta := true, mmtHalt := false, mmtStop := some i })
            else .next (s.push [.mmtChunkComplete n k])
      | _ => .next s
  | _ => .next s

/-- AZERO (R311). -/
def execAzero (a : AReg) (s : State) : Host.Outcome State Fault Refusal :=
  s.cop [] fun s => .ok (s.modMe fun t => t.setTile1 a.toNat []) [] 0

/-- ASPILL (R311): 256 elements of 5 bytes in row-major order. -/
def execAspill (a : XReg) (b : AReg) (s : State) : Host.Outcome State Fault Refusal :=
  s.cop [] fun s =>
    let off := (s.x a).toNat
    if s.lsBytes off 1280 true then
      let bytes := (s.me.tile .f32 b.toNat).flatMap (leBytes 5)
      .ok (s.modMyCore fun c => c.lsWrite off bytes) [] 0
    else .fault s false

/-- AFILL (R311). -/
def execAfill (a : AReg) (b : XReg) (s : State) : Host.Outcome State Fault Refusal :=
  s.cop [] fun s =>
    let off := (s.x b).toNat
    match s.lsElems 5 ((List.range 256).map fun e => off + 5 * e) with
    | some l => .ok (s.modMe fun t => t.setTile1 a.toNat l) [] 0
    | none => .fault s false

/-- One rounded sum of two elements; special values as ChunkAcc (R214, R311). -/
def accAdd (f : FFmt) (rm : Rm) (x y : Nat) : Nat × Flags :=
  let (t, fl) := sumNum false [f.decode x, f.decode y]
  let (r, g) := roundTo f rm t
  (r, fl ||| g ||| flagIf t.isNan Flags.nv)

/-- AADD (R311). -/
def execAadd (ty : Ty) (rm : Rm) (a b c : AReg) (s : State) : Host.Outcome State Fault Refusal :=
  s.cop [] fun s =>
    let l := ((s.me.tile ty b.toNat).zip (s.me.tile ty c.toNat)).map fun (x, y) => accAdd (accFmt ty) rm x y
    .ok (s.modMe fun t => t.setTile ty a.toNat (l.map Prod.fst)) [] (l.foldl (fun f x => f ||| x.2) 0)

/-- The lanes of the register an `aread` writes: its elements of the tile (R312). -/
def areadElems (a : VReg) (ko : Nat) (x : Word) : List Nat :=
  let rb := match a with
    | .w _ => 256
    | _ => 32
  let n := rb / ko
  let q := x.toNat % 256 % (256 / n)
  (List.range n).map fun j => q * n + j

/-- AREAD (R312): one rounding of each element, or a conversion under a TNR with its amax update. -/
def execAread (ty : Ty) (pair : Bool) (rm : Rm) (a : VReg) (b : AReg) (c d : XReg) (s : State) :
    Host.Outcome State Fault Refusal :=
  let acc : Ty := if pair then .f64 else .f32
  s.cop [destV a] fun s =>
    let x := s.x c
    let elems := areadElems a ty.bytes x
    let t := s.me.tile acc b.toNat
    let val (e : Nat) : Num := (accFmt acc).decode (t.getD e 0)
    if ty != .b8 then
      let (v, f) := packFlags ty.bytes (elems.map fun e => rounded ty rm (val e, snan [val e]))
      .ok s [v] f
    else s.narrowTnr d fun s tnr nty =>
      let inr (e : Nat) : Bool := !x.getLsbD 16 && bitsOf x.toNat 32 32 + e % 16 < tnr.cols
      let out := elems.map fun e =>
        if inr e then
          let (r, f) := convertCode nty tnr.bound (val e) (bitsOf x.toNat 8 8) rm
          (r, f ||| snan [val e])
        else (0, 0)
      s.amaxEmit tnr ((elems.filter inr).map val) fun s =>
        let (v, f) := packFlags 1 out
        .ok s [v] f

/-- A scale set written to a core's register (R313). -/
def Core.setScale (c : Core) (v : BitVec 10) : Core := { c with skr := v, skg := c.skg + 1 }

/-- SKSET (R313, R94): eA + eB − 127; the keeper sends it to the other seven cores of its cluster, where it arrives after what they
do in this cycle (R316). -/
def execSkset (b c : XReg) (s : State) : Host.Outcome State Fault Refusal :=
  let v := BitVec.ofInt 10 (((s.x b).toNat % 256 + (s.x c).toNat % 256 : Nat) - (127 : Int))
  let n := s.cur.core
  let s := s.modMyCore fun c => c.setScale v
  let s := if posOf n = 0 then
      { s with later := s.later ++ (List.range 7).map fun i => .scaleSetArrival (coreOf (clusterOf n) (i + 1)) v } else s
  .next s.retire

/-- SKGET (R313). -/
def execSkget (a : XReg) (s : State) : Host.Outcome State Fault Refusal :=
  let c := s.myCore
  .next (s.wx a (BitVec.ofNat 64 ((c.skr.signExtend 16).toNat + c.skg.toNat * 2 ^ 16))).retire

/-- SCALE_SET_ARRIVAL (R313). -/
def execScaleSetArrival (s : State) : Host.Outcome State Fault Refusal :=
  match s.ev with
  | .scaleSetArrival n v => .next (s.modCore n fun c => c.setScale v)
  | _ => .next s

/-- How a read of an element of W at home ends (R309). -/
inductive HomeRead where
  | ok (x : Num) (f : Flags)
  | fault
  | miss (m : LoadMiss)
  deriving DecidableEq, Repr

/-- One byte of W in home memory, as the near-bank units read it (R309, R310); a frozen page holds the read (R170), and an
uncorrectable sector ends it with the core's paddock (R175). -/
def State.nearByte (s : State) (va : Nat) : State × Except HomeRead (Nat × BitVec 128) :=
  let ctx := s.me.cr.ctx.toNat
  let va := va % 2 ^ 57
  let die := (s.route ctx va).home
  let held : HomeRead := .miss ⟨die, ctx, va, .absent 0 0 0, true⟩
  if (s.dieAt die).isFrozen ctx va then (s, .error held)
  else
  match s.xlate die ctx va .rd with
  | (s, .ok pa leaf _ _) =>
    let (s, lost) := s.sectorRead (pa / 64) (.core s.cur.core false (s.token s.cur.core s.cur.slot))
    if lost then (s, .error held)
    else if s.poisoned pa then (s, .error .fault) else (s, .ok (leNat (s.readLeaf leaf pa 1), leaf))
  | (s, .absent l v a) => (s, .error (.miss ⟨die, ctx, va, .absent l v a, false⟩))
  | (s, .refused c l v) => (s.postRefused c 0 l die (s.token s.cur.core s.cur.slot) ctx va v, .error .fault)

/-- Bytes of W in home memory, with the leaf of the first. -/
def State.nearNum (s : State) (va : Nat) : Nat → State × Except HomeRead (Nat × BitVec 128)
  | 0 => (s, .ok (0, 0))
  | n + 1 =>
    match s.nearByte va with
    | (s, .error e) => (s, .error e)
    | (s, .ok (b, leaf)) =>
      match s.nearNum (va + 1) n with
      | (s, .error e) => (s, .error e)
      | (s, .ok (v, _)) => (s, .ok (b + 256 * v, leaf))

/-- The element of W at a tensor position, decoded by its page (R309, R254). -/
def State.nearElem (s : State) (ty ty2 : Ty) (va k : Nat) : State × HomeRead :=
  match s.nearNum va k with
  | (s, .error e) => (s, e)
  | (s, .ok (bits, leaf)) =>
    match fmtTy (leafFmt leaf) with
    | none => (s, .fault)
    | some tw =>
      if !pairOk ty ty2 tw || tw.bytes != k then (s, .fault)
      else
        match decodeAt leaf va with
        | some (t, some sc) =>
          match s.nearByte sc with
          | (s, .error e) => (s, e)
          | (s, .ok (code, _)) =>
            let (x, f) := decodeScaled t bits code
            (s, .ok x f)
        | _ => (s, .ok (valOf tw bits) 0)

/-- The columns of the window of W, outside elements as nothing; the first read that does not succeed ends it. -/
def State.nearCols (s : State) (ty ty2 : Ty) (t : Tnr) (k wr wc kn : Nat) :
    State × Except HomeRead (List (List (Option Num)) × Flags) :=
  (List.range 16).foldl (fun (acc : State × Except HomeRead (List (List (Option Num)) × Flags)) j =>
    match acc with
    | (s, .error e) => (s, .error e)
    | (s, .ok (cols, fl)) =>
      let r := (List.range kn).foldl (fun (acc : State × Except HomeRead (List (Option Num) × Flags)) q =>
        match acc with
        | (s, .error e) => (s, .error e)
        | (s, .ok (col, fl)) =>
          if t.rows ≤ wr + q || t.cols ≤ wc + j then (s, .ok (col ++ [none], fl))
          else
            match s.nearElem ty ty2 (t.base + (wr + q) * t.pitch + (wc + j) * k) k with
            | (s, .ok x f) => (s, .ok (col ++ [some x], fl ||| f))
            | (s, e) => (s, .error e)) (s, .ok ([], fl))
      match r with
      | (s, .error e) => (s, .error e)
      | (s, .ok (col, fl)) => (s, .ok (cols ++ [col], fl))) (s, .ok ([], 0))

/-- MVH (R309, R310): the window of W is read from home memory; operand A from the local store; the tile is unchanged by
a fault. An element's width for its address is that of the TNR's FMT (log 29). -/
def execMvh (ty ty2 : Ty) (a : AReg) (b c d e : XReg) (imm : BitVec 18) (s : State) : Host.Outcome State Fault Refusal :=
  s.cop [] fun s =>
    match s.control (s.x c).toNat with
    | .error r => r
    | .ok (s, image, psn) =>
      let t := Tnr.ofImage image psn
      match fmtTy t.fmt with
      | none => .fault s false
      | some tw =>
        if psn then .fault s false
        else
          let kn := 16 * kchOf imm
          let oa := (s.x b).toNat
          let pitch := (s.x e).toNat % 2 ^ 18
          let rows := (List.range 16).mapM fun i =>
            s.lsElems ty2.bytes ((List.range kn).map fun q => oa + i * pitch + ty2.bytes * q)
          match rows with
          | none => .fault s false
          | some rows =>
            match s.nearCols ty ty2 t tw.bytes (bitsOf (s.x d).toNat 32 32) ((s.x d).toNat % 2 ^ 32) kn with
            | (s, .error (.miss m)) => s.copMiss m
            | (s, .error _) => .fault s false
            | (s, .ok (cols, fl)) =>
              let old := if imm.getLsbD 8 then List.replicate 256 0 else s.me.tile ty a.toNat
              let (out, g) := accTile (accFmt ty) old (rows.map fun r => r.map fun v => some (valOf ty2 v)) cols 0
              .ok (s.modMe fun x => x.setTile ty a.toNat out) [] (fl ||| g)

/-- The rows that a mask of R314 names. -/
def maskRows (m : Word) : List Nat := (List.range 16).filter fun r => m.getLsbD r

/-- SBST (R314): the images of the named rows, slot 7 as zero. -/
def execSbst (b c : XReg) (s : State) : Host.Outcome State Fault Refusal :=
  s.cop [] fun s =>
    let off := (s.x b).toNat
    let rows := maskRows (s.x c)
    if rows.all fun r => s.lsBytes (off + 32 * r) 32 true then
      .ok (rows.foldl (fun s r => s.modMyCore fun c =>
        c.lsWrite (off + 32 * r) ((List.range 8).flatMap fun i => leBytes 4 (if i = 7 then 0 else c.stat r i))) s) [] 0
    else .fault s false

/-- SBLD (R314): slots 0 to 6 of the named rows. -/
def execSbld (b c : XReg) (s : State) : Host.Outcome State Fault Refusal :=
  s.cop [] fun s =>
    let off := (s.x b).toNat
    let rows := maskRows (s.x c)
    if rows.all fun r => s.lsBytes (off + 32 * r) 32 false then
      .ok (rows.foldl (fun s r => (List.range 7).foldl (fun s i => s.modMyCore fun c =>
        { c with stats := put c.stats (8 * r + i) (BitVec.ofNat 32 (c.lsNum (off + 32 * r + 4 * i) 4)) }) s) s) [] 0
    else .fault s false

end Sys2Proof.Machine
end

