-- ==== Sys2Proof/Machine/Poly.lean ====
section
/-! DEFINITION. Polynomial accumulators (R98, R343 to R348) and the monitor instructions (R97, R342). -/

namespace Sys2Proof.Machine

/-- A polynomial accumulator of the current thread. -/
def State.hacc (s : State) (a : HReg) : HAcc := look s.me.h a.toNat HAcc.reset
/-- Writes a polynomial accumulator of the current thread. -/
def State.setHacc (s : State) (a : HReg) (h : HAcc) : State := s.modMe fun t => { t with h := put t.h a.toNat h }

/-- Coefficient `k` of an accumulator; those above DEG read as zero (R98). -/
def HAcc.coef (h : HAcc) (k : Nat) : Num := fp64.decode (if k ≤ h.deg.toNat then (look h.c k 0).toNat else 0)

/-- An accumulator with coefficients 0 to DEG, those above at +0. -/
def HAcc.withCoefs (h : HAcc) (l : List Nat) : HAcc :=
  { h with c := (l.zipIdx).filterMap fun (v, k) => if v = 0 then none else some (k, BitVec.ofNat 64 v) }

/-- The coefficients 0 to DEG as bits. -/
def HAcc.bitsList (h : HAcc) : List Nat := (List.range (h.deg.toNat + 1)).map fun k => (look h.c k 0).toNat

/-- SC held within its bounds, with OF where it is held (R343). -/
def HAcc.setSc (h : HAcc) (v : Int) : HAcc × Flags :=
  let c := clampInt (-32768) 32767 v
  ({ h with sc := BitVec.ofInt 16 c }, flagIf (c != v) Flags.of)

/-- The rescale after every change of coefficients (R343). -/
def HAcc.rescale (h : HAcc) : HAcc × Flags :=
  let l := h.bitsList
  match maxAbs (l.map fp64.decode) with
  | some (.fin m e) =>
    let k := log2Of m e
    if k < -64 || 63 < k then
      let r := l.map fun v => roundTo fp64 .rne ((fp64.decode v).scale (-k))
      let (h, f) := (h.withCoefs (r.map Prod.fst)).setSc (h.sc.toInt + k)
      (h, r.foldl (fun f x => f ||| x.2) f)
    else (h, 0)
  | _ => (h, 0)

/-- A polynomial instruction that writes an accumulator: the rescale, then the flags (R343). -/
def State.poly (s : State) (a : HReg) (f : State → HAcc × Flags) : Host.Outcome State Fault Refusal :=
  s.cop [] fun s =>
    let (h, fl) := f s
    let (h, g) := h.rescale
    .ok (s.setHacc a h) [] (fl ||| g)

/-- HSET (R344). -/
def execHset (a : HReg) (b c : XReg) (s : State) : Host.Outcome State Fault Refusal :=
  s.poly a fun s =>
    (({ c := [], deg := BitVec.ofNat 6 (min (s.x b).toNat 63), sc := 0 } : HAcc).withCoefs [(s.x c).toNat], 0)

/-- HSCALE (R344): no coefficient changes. -/
def execHscale (a : HReg) (b : XReg) (s : State) : Host.Outcome State Fault Refusal :=
  s.cop [] fun s =>
    let h := s.hacc a
    let (h, f) := h.setSc (h.sc.toInt + toSigned 16 (s.x b).toNat)
    .ok (s.setHacc a h) [] f

/-- HDEG (R344). -/
def execHdeg (a : HReg) (b : XReg) (s : State) : Host.Outcome State Fault Refusal :=
  s.poly a fun s =>
    let h := s.hacc a
    let d := min (s.x b).toNat 63
    (({ h with deg := BitVec.ofNat 6 d } : HAcc).withCoefs ((List.range (d + 1)).map fun k =>
      if k ≤ h.deg.toNat then (look h.c k 0).toNat else 0), 0)

/-- One rounding of an exact sum of products (R345). -/
def linear (rm : Rm) (l : List (Num × Num)) : Nat × Flags :=
  let ps := l.map fun (x, y) => mulNum x y
  let (t, f) := sumNum (rm == .rdn) (ps.map Prod.fst)
  let (v, g) := roundTo fp64 rm t
  (v, ps.foldl (fun f p => f ||| p.2) (f ||| g))

/-- Flags of a list of results. -/
def orAll (l : List (Nat × Flags)) : Flags := l.foldl (fun f x => f ||| x.2) 0

/-- HMUL (R345): c(−1) is 0. -/
def execHmul (rm : Rm) (a : HReg) (b c : XReg) (s : State) : Host.Outcome State Fault Refusal :=
  s.poly a fun s =>
    let h := s.hacc a
    let x := fp64.decode (s.x b).toNat
    let y := fp64.decode (s.x c).toNat
    let prev (k : Nat) : Num := if k = 0 then .zero false else h.coef (k - 1)
    let r := (List.range (h.deg.toNat + 1)).map fun k => linear rm [(x, h.coef k), (y, prev k)]
    (h.withCoefs (r.map Prod.fst), orAll r)

/-- One step of a division by a linear factor: (p − m·q) / d, rounded once (R346). -/
def quotStep (rm : Rm) (p m q d : Num) : Nat × Flags :=
  let (x, f1) := mulNum m q
  let (t, f2) := sumNum (rm == .rdn) [p, x.negate]
  let (r, f3) := divNum t d
  let (v, f4) := roundTo fp64 rm r
  (v, f1 ||| f2 ||| f3 ||| f4)

/-- The steps of a division over coefficients in turn, each with the quotient before it. -/
def quotSteps (rm : Rm) (m d : Num) : Num → List Num → List (Nat × Flags)
  | _, [] => []
  | q, p :: l =>
    let r := quotStep rm p m q d
    r :: quotSteps rm m d (fp64.decode r.1) l

/-- HDIV (R346): forwards where |b| ≤ |a|, else backwards. -/
def execHdiv (rm : Rm) (a : HReg) (b c : XReg) (s : State) : Host.Outcome State Fault Refusal :=
  s.poly a fun s =>
    let h := s.hacc a
    let x := fp64.decode (s.x b).toNat
    let y := fp64.decode (s.x c).toNat
    let n := h.deg.toNat + 1
    let p := (List.range n).map h.coef
    let zero : Num → Bool := fun
      | .zero _ => true
      | _ => false
    if x.isNan || y.isNan || (zero x && zero y) then
      (h.withCoefs (List.replicate n 0x7FF8000000000000),
        flagIf (zero x && zero y) Flags.nv ||| snan [x, y])
    else if !ltNum x.abs y.abs then
      let q := quotSteps rm y x (.zero false) p
      (h.withCoefs (q.map Prod.fst), orAll q)
    else
      let q := quotSteps rm x y (.zero false) (p.drop 1).reverse
      (h.withCoefs ((q.map Prod.fst).reverse ++ [0]), orAll q)

/-- HPROD (R347): one rounding of each exact sum, with the special values of R214. -/
def execHprod (rm : Rm) (a b c : HReg) (s : State) : Host.Outcome State Fault Refusal :=
  s.poly a fun s =>
    let x := s.hacc b
    let y := s.hacc c
    let dx := x.deg.toNat
    let dy := y.deg.toNat
    let deg := min (dx + dy) 63
    let r := (List.range (deg + 1)).map fun k =>
      let terms := (List.range (k + 1)).filterMap fun i =>
        if i ≤ dx && k - i ≤ dy then some (x.coef i, y.coef (k - i)) else none
      let (v, f) := linear rm terms
      (v, f ||| flagIf (fp64.decode v).isNan Flags.nv)
    let h : HAcc := ({ c := [], deg := BitVec.ofNat 6 deg, sc := 0 } : HAcc).withCoefs (r.map Prod.fst)
    let (h, f) := h.setSc (x.sc.toInt + y.sc.toInt)
    (h, f ||| orAll r)

/-- HRD (R348). -/
def execHrd (rm : Rm) (a : XReg) (b : HReg) (c : XReg) (s : State) : Host.Outcome State Fault Refusal :=
  s.cop [s.destX a] fun s =>
    let h := s.hacc b
    let i := (s.x c).toNat
    if h.deg.toNat < i then .ok s [0] 0
    else
      let v := h.coef i
      let (r, f) := roundTo fp64 rm (v.scale h.sc.toInt)
      .ok s [BitVec.ofNat 2048 r] (f ||| snan [v])

/-- HWR (R348): no effect above DEG. -/
def execHwr (rm : Rm) (a : HReg) (b c : XReg) (s : State) : Host.Outcome State Fault Refusal :=
  s.cop [] fun s =>
    let h := s.hacc a
    let i := (s.x b).toNat
    if h.deg.toNat < i then .ok s [] 0
    else
      let v := fp64.decode (s.x c).toNat
      let (r, f) := roundTo fp64 rm (v.scale (-h.sc.toInt))
      let (h, g) := (h.withCoefs (h.bitsList.set i r)).rescale
      .ok (s.setHacc a h) [] (f ||| snan [v] ||| g)

/-- The RW fields of a monitor's configuration (R97). -/
def monRw : BitVec 256 :=
  BitVec.ofNat 256 ((2 ^ 57 - 1) * 2 ^ 192 + (2 ^ 72 - 1) * 2 ^ 120 + 2 ^ 64 + (2 ^ 64 - 1))
/-- OTH, OVF and INX of a monitor's configuration (R97). -/
def monSticky : BitVec 256 := BitVec.ofNat 256 (7 * 2 ^ 65)

/-- Updates a monitor of the current core. -/
def State.modMon (s : State) (a : MReg) (f : Monitor → Monitor) : State :=
  s.modMyCore fun c => { c with mon := put c.mon a.toNat (f (look c.mon a.toNat Monitor.reset)) }

/-- MSET (R342). -/
def execMset (a : MReg) (b : XReg) (s : State) : Host.Outcome State Fault Refusal :=
  let off := (s.x b).toNat
  match s.lsAligned off 32 32 false with
  | some (c, v) => .next (s.raise c v)
  | none =>
    let image := BitVec.ofNat 256 (s.myCore.lsNum off 32)
    .next (s.modMon a fun m => { m with cfg := (image &&& monRw) ||| (m.cfg &&& monSticky) }).retire

/-- MREF (R342). -/
def execMref (a : MReg) (b c : XReg) (s : State) : Host.Outcome State Fault Refusal :=
  let v := BitVec.ofNat 128 ((s.x c).toNat * 2 ^ 64 + (s.x b).toNat)
  .next (s.modMon a fun m => { m with ref := v }).retire

/-- MCLR (R342). -/
def execMclr (a : MReg) (s : State) : Host.Outcome State Fault Refusal :=
  .next (s.modMon a fun m => { m with sum := 0, tsum := [], cfg := m.cfg &&& ~~~monSticky }).retire

/-- What `mrd` reads of a monitor (R342). -/
def Monitor.read (m : Monitor) (slot sel : Nat) : Word :=
  let half (v : BitVec 128) (hi : Bool) : Word := if hi then BitVec.ofNat 64 (v.toNat / 2 ^ 64) else v.setWidth 64
  let bit (i : Nat) : Nat := (m.cfg.getLsbD i).toNat
  match sel with
  | 0 => half m.sum false
  | 1 => half m.sum true
  | 2 => half m.ref false
  | 3 => half m.ref true
  | 4 => half (look m.tsum slot 0) false
  | 5 => half (look m.tsum slot 0) true
  | 6 => BitVec.ofNat 64 (bit 64 + 2 * bit 65 + 4 * bit 66 + 8 * bit 67)
  | _ => m.cfg.setWidth 64

/-- MRD (R342). -/
def execMrd (a : XReg) (b : MReg) (c : XReg) (s : State) : Host.Outcome State Fault Refusal :=
  .next (s.wx a ((look s.myCore.mon b.toNat Monitor.reset).read s.cur.slot ((s.x c).toNat % 8))).retire

end Sys2Proof.Machine
end

