-- ==== Sys2Proof/Machine/Links.lean ====
section
/-! DEFINITION. Lumaux (R14 to R24): how flits are received, acknowledged and replayed, what passes on, and what the
messages that reach the part bring about. -/

namespace Sys2Proof.Machine

/-- A message passes on to its destination (R16, R19, R23, R24): one more hop; a collective step takes the part's own flag
words; without a route its sender is told. -/
def State.forward (s : State) (l : List (BitVec 512)) : State :=
  match l with
  | [] => s
  | f :: _ =>
    let h := headOf f
    let body := l.flatMap payloadOf
    let own := (s.cores.flatMap fun (_, c) => c.colls).foldl (fun w x =>
      if x.ctx.toNat == bodyNum body 8 2 && x.id.toNat == bodyNum body 2 2 then w ||| x.flag else w) (0 : BitVec 32)
    let l := l.zipIdx.map fun (f, i) =>
      let x := headOf f
      let p := bitsOf f.toNat 48 448
      let p := if h.cls = 4 && i = 0 then p ||| own.toNat * 2 ^ 32 else p
      flitOf { x with hops := x.hops + 1 } p
    s.routeOut l

/-- An error is counted at a port (R21). -/
def State.portErr (s : State) (p : Nat) : State :=
  s.modPort p fun x => { x with errs := BitVec.ofNat 16 (min (x.errs.toNat + 1) 0xFFFF) }

/-- A port of the part (R14). -/
def portOk (p : Nat) : Bool := p < 16

/-- What a port's buffer brings about for its STOP flag (R18). -/
def State.stopFlag (s : State) (p cls : Nat) : State :=
  let x := s.port p
  let n := (look x.rx cls []).length
  if 192 ≤ n then s.modPort p fun x => { x with stopOut := x.stopOut ||| BitVec.ofNat 4 (2 ^ (cls - 1)) }
  else if n ≤ 96 && x.stopOut.getLsbD (cls - 1) then s.push [.stopFlagClear p (BitVec.ofNat 3 cls)]
  else s

/-- Flits of a source, destination and class that stand in receive buffers, those of other ports first; the STOP flag of each
buffer that they leave follows (R18, R20). -/
def State.gathered (s : State) (p cls : Nat) (src dest : BitVec 10) : State × List (BitVec 512) :=
  let mine (f : BitVec 512) : Bool := (headOf f).src == src && (headOf f).dest == dest
  let buf (q : Nat) : List (BitVec 512) := look (s.port q).rx cls []
  let others := ((List.range 16).filter (· != p)).flatMap fun q => (buf q).filter mine
  let all := others ++ (buf p).filter mine
  ((List.range 16).foldl (fun s q =>
    if (buf q).any mine then
      (s.modPort q fun x => { x with rx := put x.rx cls ((look x.rx cls []).filter fun f => !mine f) }).stopFlag q cls
    else s) s, all)

/-- A flit that R16 discards with the rest of its message: what has come of the message leaves the buffers, and what is still
to come will be discarded too. -/
def State.dropMessage (s : State) (p : Nat) (h : Head) : State :=
  let s := (s.gathered p h.cls h.src h.dest).1
  let mine (x : Nat × BitVec 10 × BitVec 10) : Bool := x == (h.cls, h.src, h.dest)
  (s.modPort p fun x =>
    { x with skip := x.skip.filter (fun y => !mine y) ++ if h.nfl = 0 then [] else [(h.cls, h.src, h.dest)] }).portErr p

/-- FLIT_RECEIVE (R12, R16, R18): CRC, then class and kind, then delivery, forwarding or a route loop. A flit whose sequence
number is not the one expected is discarded and counted (log 31); one that is in sequence is acknowledged, and a port that
is down takes flits as one that is up does (DESIGN CHOICE, log 91). A message is delivered or forwarded with its last flit. -/
def execFlitReceive (s : State) : Host.Outcome State Fault Refusal :=
  match s.ev with
  | .flitReceive p f =>
    let x := s.port p
    let n := f.toNat
    let h := headOf f
    if !s.power || !portOk p then .next s
    else if flitCrc (n % 2 ^ 496) != n / 2 ^ 496 then .next ((s.portErr p).ctlOut p 2 x.rxSeq)
    else
      let was := x.stopIn
      let s := s.modPort p fun x => { x with stopIn := BitVec.ofNat 4 h.stop }
      let s := if was &&& ~~~(BitVec.ofNat 4 h.stop) != 0 then s.portRetry p else s
      if h.cls = 0 then
        let seq := BitVec.ofNat 8 (bitsOf n 48 8)
        match h.kind with
        | 0 => .next s
        | 1 => .next (s.push [.ackReceive p seq])
        | 2 => .next (s.push [.nakReceive p seq])
        | _ => .next (s.portErr p)
      else if h.seq != x.rxSeq then .next (s.portErr p)
      else
        let s := (s.modPort p fun x => { x with rxSeq := x.rxSeq + 1 }).ctlOut p 1 h.seq
        if !kindKnown h.cls h.kind || x.skip.contains (h.cls, h.src, h.dest) then .next (s.dropMessage p h)
        else if h.dest != s.io.partNo && h.hops = 7 then .next ((s.portErr p).lifeAdd (lifeLoop p) 1)
        else
          let s := s.modPort p fun x => { x with rx := put x.rx h.cls (look x.rx h.cls [] ++ [f]) }
          if h.nfl ≠ 0 then .next (s.stopFlag p h.cls)
          else
            let (s, l) := s.gathered p h.cls h.src h.dest
            if h.dest == s.io.partNo then .next (s.msgIn h.src h.cls h.kind (l.flatMap payloadOf))
            else .next (s.forward l)
  | _ => .next s

/-- STOP_FLAG_CLEAR (R18): the flag clears, and an idle flit carries that to the other end (R22; when one is sent: DESIGN
CHOICE, log 91). -/
def execStopFlagClear (s : State) : Host.Outcome State Fault Refusal :=
  match s.ev with
  | .stopFlagClear p cls =>
    let bit := BitVec.ofNat 4 (2 ^ (cls.toNat - 1))
    .next (if (look (s.port p).rx cls.toNat []).length ≤ 96 && (s.port p).stopOut &&& bit != 0 then
      (s.modPort p fun x => { x with stopOut := x.stopOut &&& ~~~bit }).ctlOut p 0 0 else s)
  | _ => .next s

/-- The flits at the end of a list that belong to a message not yet ended. -/
def openTail (l : List (BitVec 512)) : List (BitVec 512) :=
  l.foldl (fun acc f => if (headOf f).nfl = 0 then [] else acc ++ [f]) []

/-- ACK_RECEIVE (R17): cumulative up to the sequence number named. What is acknowledged of a message that is not yet
acknowledged whole is remembered with it. -/
def execAckReceive (s : State) : Host.Outcome State Fault Refusal :=
  match s.ev with
  | .ackReceive p seq =>
    let kept := (s.port p).kept
    if kept.any fun f => (headOf f).seq == seq then
      let rest := (kept.dropWhile fun f => (headOf f).seq != seq).drop 1
      .next ((s.modPort p fun x =>
        { x with
          kept := rest, begun := openTail (x.begun ++ kept.take (kept.length - rest.length)), fails := 0
          ackAt := s.now }).portRetry p)
    else .next s
  | _ => .next s

/-- The messages that lost flits belong to: a message ends with the flit after which none follows. -/
def splitMsgs : List (BitVec 512) → List (BitVec 512) → List (List (BitVec 512))
  | acc, [] => if acc.isEmpty then [] else [acc]
  | acc, f :: l => if (headOf f).nfl = 0 then (acc ++ [f]) :: splitMsgs [] l else splitMsgs (acc ++ [f]) l

/-- Lost messages, each as its flits that were acknowledged and those that were not. -/
def lostMsgs (begun kept : List (BitVec 512)) : List (List (BitVec 512) × List (BitVec 512)) :=
  match splitMsgs [] kept with
  | [] => []
  | m :: l => (begun, m) :: l.map fun m => ([], m)

/-- A class of a message's flits. -/
def clsOf (l : List (BitVec 512)) : Nat := ((l.head?).map fun f => (headOf f).cls).getD 0

/-- A port goes down (R17, R19, R33): its flits that are not acknowledged are found lost, and each class is resent on the
alternate port. Messages that waited take their route again, behind the lost ones of their class and part. -/
def State.portDown (s : State) (p : Nat) : State :=
  let x := s.port p
  let s := (s.lifeAdd (lifeDown p) 1).modIo fun io => { io with ready := io.ready &&& ~~~(BitVec.ofNat 32 (2 ^ (2 + p))) }
  let s := s.modPort p fun x =>
    { x with up := false, lost := x.lost ++ lostMsgs x.begun x.kept, kept := [], begun := [], waiting := [], fails := 0 }
  let lost := (s.port p).lost
  let classes := [1, 2, 3, 4].filter fun c => lost.any fun m => clsOf m.2 == c
  let s := s.push (classes.map fun c => .alternateResend p (BitVec.ofNat 3 c))
  x.waiting.foldl (fun s (_, l) => s.routeOut l) s

/-- NAK_RECEIVE (R17, R18): the flits from the one named on are replayed in order, with the port's present STOP flags; the
eighth failure in a row of one flit's replay takes the port down. The flits before the one named stay kept until an ACK
names them (DESIGN CHOICE, log 91). -/
def execNakReceive (s : State) : Host.Outcome State Fault Refusal :=
  match s.ev with
  | .nakReceive p seq =>
    let again := (s.port p).kept.dropWhile fun f => (headOf f).seq != seq
    if again.isEmpty then .next s
    else
      let fails := if (s.port p).failSeq == seq then (s.port p).fails else 0
      if 8 ≤ fails then .next (s.portDown p)
      else
        let s := (s.lifeAdd (lifeReplay p) 1).modPort p fun x =>
          { x with fails := fails + 1, failSeq := seq, replays := BitVec.ofNat 8 (min (x.replays.toNat + 1) 0xFF) }
        let stop := (s.port p).stopOut.toNat
        .next (s.modIo fun io =>
          { io with sent := io.sent ++ again.map fun f => (p, reHead f { headOf f with stop := stop }) })
  | _ => .next s

/-- ACK_TIMEOUT (R17). -/
def execAckTimeout (s : State) : Host.Outcome State Fault Refusal :=
  match s.ev with
  | .ackTimeout p =>
    let x := s.port p
    .next (if x.up && !x.kept.isEmpty && 65536 ≤ s.now - x.ackAt then s.portDown p else s)
  | _ => .next s

/-- What is left of a lost message goes out on the alternate port of its part, or the message fails (R19, R24). -/
def State.resendLost (s : State) (p : Nat) (m : List (BitVec 512) × List (BitVec 512)) : State :=
  match m.1 ++ m.2 with
  | [] => s
  | f :: _ =>
    let h := headOf f
    let e := look s.io.route h.dest.toNat 0
    let alt := bitsOf e.toNat 4 4
    if e.getLsbD 14 && alt != p && (s.port alt).up then s.portSend alt h.cls m.2
    else s.undeliverable h ((m.1 ++ m.2).flatMap payloadOf)

/-- ALTERNATE_RESEND (R19, R20): the lost messages of a class go out on ALT in their order, before any newer message of that
class: those that wait at a port, and those that were held behind the lost ones. -/
def execAlternateResend (s : State) : Host.Outcome State Fault Refusal :=
  match s.ev with
  | .alternateResend p cls =>
    let c := cls.toNat
    let lost := (s.port p).lost.filter fun m => clsOf m.2 == c
    let newer := (List.range 16).map fun q => (q, ((s.port q).waiting.filter fun w => w.1 == c).map (·.2))
    let s := (List.range 16).foldl (fun s q =>
      if (s.port q).waiting.any fun w => w.1 == c then
        s.modPort q fun x => { x with waiting := x.waiting.filter fun w => w.1 != c }
      else s) (s.modPort p fun x => { x with lost := x.lost.filter fun m => clsOf m.2 != c })
    let s := lost.foldl (fun s m => s.resendLost p m) s
    .next (newer.foldl (fun s (q, l) => l.foldl (fun s m =>
      if (s.port q).up then s.portSend q c m else s.routeOut m) s) s)
  | _ => .next s

/-- PORT_UP (R12, R33, R35): the port's link starts anew. A part that is off, whose boot has halted, or that has not reached
step 5 trains no port. -/
def execPortUp (s : State) : Host.Outcome State Fault Refusal :=
  match s.ev with
  | .portUp p =>
    if !s.power || s.io.halted || !s.io.bootDone || !portOk p then .next s
    else
      let s := s.modPort p fun x =>
        { Port.reset with
          up := true, replays := x.replays, errs := x.errs, ackAt := s.now, lost := x.lost, waiting := x.waiting }
      .next (s.modIo fun io => { io with ready := io.ready ||| BitVec.ofNat 32 (2 ^ (2 + p)) })
  | _ => .next s

/-- The 32 bytes of a tree entry (R101). -/
def treeBytes (e : Entry) : List Byte :=
  leBytes 8 e.key.toNat ++ leBytes 16 e.val.toNat
    ++ leBytes 8 (e.op.code * 2 ^ 59 + e.w.toNat * 2 ^ 58 + e.tent.toNat * 2 ^ 56 + e.trp.toNat * 2 ^ 55
        + e.psn.toNat * 2 ^ 54 + e.wexp.toNat * 2 ^ 46 + e.task.toNat)

/-- The entry of a put update, committed (R23, R101). -/
def treeEntry (body : List Byte) (op : MOp) : Entry :=
  let w3 := bodyNum body 24 8
  { key := BitVec.ofNat 64 (bodyNum body 0 8), op := op, w := bitsOf w3 58 1 = 1, tent := false, trp := bitsOf w3 55 1 = 1
    psn := bitsOf w3 54 1 = 1, wexp := BitVec.ofNat 8 (bitsOf w3 46 8), task := BitVec.ofNat 40 w3
    val := BitVec.ofNat 128 (bodyNum body 8 16), ord := 0, units := [], age := 0, mark := false }

/-- The record of an entry with a reserved code or state (R102, R127, R129): cause 7 at yard entry; it goes to the core that its
TASK names. -/
def State.postReserved (s : State) (body : List Byte) : State :=
  let w3 := bodyNum body 24 8
  let key := bodyNum body 0 8
  let ctx := keyCtx key
  let num := look s.io.fqNum ctx 0
  let word := bitsOf w3 59 5 * 2 ^ 59 + bitsOf w3 58 1 * 2 ^ 58 + bitsOf w3 56 2 * 2 ^ 56 + bitsOf w3 55 1 * 2 ^ 55 + 3 * 2 ^ 52
    + 7 * 2 ^ 48 + bitsOf w3 46 8 * 2 ^ 40 + w3 % 2 ^ 40
  let s := s.lifeAdd (lifeMerge (bitsOf w3 59 5)) 1
  let s := s.push [.mergeFaultRecordArrival (BitVec.ofNat 40 w3) 0xFFFFFFFF (BitVec.ofNat 64 num) ctx]
  if look s.io.fqBase ctx 0 == 0 then s
  else
    (s.postMergeWords ctx [key, word, 0, 0, bodyNum body 8 8, bodyNum body 16 8,
      (2 ^ 32 - 1) * 2 ^ 32 + w3 % 2 ^ 40 / 2 ^ 28 * 2 ^ 20, num]).modIo fun io =>
        { io with fqNum := put io.fqNum ctx (num + 1) }

/-- A context slot is active on the part: it has page tables (R23, R69). -/
def State.ctxActive (s : State) (ctx : Nat) : Bool := (look s.io.ptbr ctx 0).getLsbD 63 && !s.torn ctx

/-- PUT_UPDATE_RECEIVE (R23, R102): the entry goes to the home die that the part's table names, and is acknowledged; a
context that is not active draws CANCELLED. -/
def execPutUpdateReceive (s : State) : Host.Outcome State Fault Refusal :=
  match s.ev with
  | .putUpdateReceive src body =>
    let ref := putRef body
    let w3 := bodyNum body 24 8
    let ctx := keyCtx (bodyNum body 0 8)
    if !s.ctxActive ctx then .next (s.sendTo src 3 4 (nackBody ref .cancelled s.io.partNo 1))
    else
      let ack (s : State) : State := s.sendTo src 3 2 (leBytes 8 ref.toNat ++ leBytes 4 1)
      match (if 2 ≤ bitsOf w3 56 2 then none else opOf (bitsOf w3 59 5)) with
      | none => .next (ack (s.postReserved body))
      | some op =>
        let e := treeEntry body op
        let r := s.route ctx e.va
        .next (ack (s.push [.yardEntry r.home { e with ord := BitVec.ofNat 2 r.ord, age := s.now } 4]))
  | _ => .next s

/-- PUT_ACK_RECEIVE (R327): the entries accepted are counted. -/
def execPutAckReceive (s : State) : Host.Outcome State Fault Refusal :=
  match s.ev with
  | .putAckReceive src ref count => .next ((s.putAnswered src ref).push [refOp ref (.counted count.toNat 0)])
  | _ => .next s

/-- Sends the oldest rows of a reference that a part owes again, each in a message of its own (R24). -/
def State.resendRows (s : State) (part : BitVec 10) (ref : Word) : Nat → State
  | 0 => s
  | n + 1 =>
    let mine (g : GetPend) : Bool := g.part == part && g.ref == ref
    match s.io.gets.find? mine with
    | some g =>
      ((s.modIo fun io => { io with gets := dropFirst mine io.gets ++ [g] }).sendTo part 2 1
        (getBody g.ref g.off g.len g.va [0])).resendRows part ref n
    | none => s

/-- The message that a negative acknowledgement MOVED names is sent again, and stands behind the others that wait for an
answer (R24). -/
def State.resendMoved (s : State) (part : BitVec 10) (ref : Word) (count : Nat) : State :=
  if ref.getLsbD 63 then s.resendRows part ref count
  else
    match s.io.puts.find? fun r => r.part == part && putRef r.body == ref with
    | some r => (s.modIo fun io => { io with puts := dropFirst (fun x => x == r) io.puts ++ [r] }).sendTo part 1 1 r.body
    | none => s

/-- NEGATIVE_ACK_RECEIVE (R24, R328): MOVED is resent by the I/O die; every other cause counts FAULTS + 1 with what the
message carried. -/
def execNegativeAckReceive (s : State) : Host.Outcome State Fault Refusal :=
  match s.ev with
  | .negativeAckReceive src ref cause =>
    let count := bitsOf ref.toNat 48 12
    let ref := ref &&& ~~~(BitVec.ofNat 64 (0xFFF * 2 ^ 48))
    if cause = .moved then .next (s.resendMoved src ref count)
    else if ref.getLsbD 63 then
      -- a row that was refused for its core's paddock is counted by the part that asked for it
      .next (if cause = .paddock then s else s.push [refOp ref (.counted count 1)])
    else .next (s.failPut src ref)
  | _ => .next s

end Sys2Proof.Machine
end

