-- ==== Sys2Proof/Machine/Copies.lean ====
section
/-! DEFINITION. Copy channels and the distributor (R92, R93, R322 to R324). -/

namespace Sys2Proof.Machine

/-- The fields of a channel's state that a start writes (R92). -/
structure ChanStart where
  kind : Nat
  op : Nat
  oslot : Nat
  wpaddr : Nat
  src : Nat
  dst : Nat
  len : Nat
  deriving DecidableEq, Repr

/-- The 256 bits of a channel at its start (R92, R323). -/
def ChanStart.bits (c : ChanStart) : BitVec 256 :=
  BitVec.ofNat 256
    (c.kind * 2 ^ 253 + c.op * 2 ^ 246 + c.oslot * 2 ^ 242 + c.wpaddr * 2 ^ 224 + c.src * 2 ^ 128 + c.dst * 2 ^ 64
      + c.len * 2 ^ 32)

/-- KIND of a channel. -/
def Chan.kind (c : Chan) : Nat := bitsOf c.st.toNat 253 3
/-- WP of a channel: bytes delivered. -/
def Chan.wp (c : Chan) : Nat := bitsOf c.st.toNat 0 32
/-- LEN of a channel. -/
def Chan.len (c : Chan) : Nat := bitsOf c.st.toNat 32 32
/-- SRC of a channel. -/
def Chan.src (c : Chan) : Nat := bitsOf c.st.toNat 128 64
/-- DST of a channel. -/
def Chan.dst (c : Chan) : Nat := bitsOf c.st.toNat 64 64
/-- Owning slot of a channel. -/
def Chan.oslot (c : Chan) : Nat := bitsOf c.st.toNat 242 4
/-- WPADDR of a channel. -/
def Chan.wpaddr (c : Chan) : Nat := bitsOf c.st.toNat 224 18
/-- ERR of a channel. -/
def Chan.err (c : Chan) : Bool := c.st.getLsbD 251
/-- PEND of a channel. -/
def Chan.pendBit (c : Chan) : Bool := c.st.getLsbD 252

/-- No mirror word (R92). -/
def noMirror : Nat := 0x3FFFF

/-- Core number of a packed word (R322). -/
def packCore (w : Nat) : Nat := bitsOf w 18 12
/-- Offset of a packed word (R322). -/
def packOff (w : Nat) : Nat := bitsOf w 0 18

/-- Channel `c` of core `n`. -/
def State.chan (s : State) (n c : Nat) : Chan := look (s.coreAt n).chan c Chan.reset
/-- Updates a channel. -/
def State.modChan (s : State) (n c : Nat) (f : Chan → Chan) : State :=
  s.modCore n fun x => { x with chan := put x.chan c (f (look x.chan c Chan.reset)) }

/-- The first of three values that is no multiple (R323). -/
def misaligned (al : Nat) (l : List Word) : Option (Cause × Word) :=
  (l.find? fun v => v.toNat % al != 0).map fun v => (.align, v)

/-- A mirror word lies 8-byte aligned in the plain part of the local store that receives it (R323). -/
def State.mirrorCheck (s : State) (core : Nat) (wp : Option Word) : Option (Cause × Word) :=
  match wp with
  | none => none
  | some v =>
    if v.toNat % 8 = 0 && core < coreCount && v.toNat + 8 ≤ (s.coreAt core).spbase.toNat then none else some (.lsProt, v)

/-- Own bytes of a copy pass the protection unit, where the copy names own bytes (R323). -/
def State.ownCheck (s : State) (own : Bool) (off len : Nat) (write : Bool) : Option (Cause × Word) :=
  if own && len != 0 then s.lsCheck off len write else none

/-- A start of a channel (R323): the checks, the wait while the channel is busy, and the whole state of R92. -/
def State.copyStart (s : State) (a : CReg) (c : ChanStart) (wide trp : Bool) (bad : Option (Cause × Word)) :
    Host.Outcome State Fault Refusal :=
  match bad with
  | some (cause, v) => .next (s.raise cause v)
  | none =>
    let n := s.cur.core
    if (s.chan n a.toNat).busy then .next (s.block (.channel a.toNat) 0)
    else
      .next (s.modChan n a.toNat fun x =>
        { x with
          st := c.bits, run := x.dpat, unit := s.me.unit, ctx := s.me.cr.ctx, wide := wide, trp := trp
          launch := s.me.cr.launch, waits := none }).retire

/-- The mirror operand: the WPADDR offset where WPE is set (R322). -/
def State.mirrorOf (s : State) (e : XReg) (imm : BitVec 18) : Option Word := if imm.getLsbD 0 then some (s.x e) else none

/-- WPADDR of a start (R323). -/
def mirrorField (m : Option Word) : Nat := (m.map fun v => v.toNat % 2 ^ 18).getD noMirror

/-- CPY_LL (R322, R323). -/
def execCpyLl (a : CReg) (b c d e : XReg) (imm : BitVec 18) (s : State) : Host.Outcome State Fault Refusal :=
  let n := s.cur.core
  let len := (s.x d).toNat % 2 ^ 32
  let src := (s.x c).toNat % 2 ^ 30
  let dst := (s.x b).toNat % 2 ^ 30
  let m := s.mirrorOf e imm
  let bad := (((misaligned 4 [s.x c, s.x b, BitVec.ofNat 64 len]).or
    (s.ownCheck (packCore src == n) (packOff src) len false)).or
    (s.ownCheck (packCore dst == n) (packOff dst) len true)).or (s.mirrorCheck (packCore dst) m)
  s.copyStart a ⟨1, 0, s.cur.slot, mirrorField m, src, dst, len⟩ false false bad

/-- CPY_GL (R322, R323). -/
def execCpyGl (a : CReg) (b c d e : XReg) (imm : BitVec 18) (s : State) : Host.Outcome State Fault Refusal :=
  let n := s.cur.core
  let len := (s.x d).toNat % 2 ^ 32
  let m := s.mirrorOf e imm
  let bad := ((misaligned 4 [s.x c, s.x b, BitVec.ofNat 64 len]).or (s.ownCheck true (s.x b).toNat len true)).or
    (s.mirrorCheck n m)
  s.copyStart a ⟨2, 0, s.cur.slot, mirrorField m, (s.x c).toNat % 2 ^ 57, n * 2 ^ 18 + (s.x b).toNat % 2 ^ 18, len⟩ false
    false bad

/-- CPY_LG (R322, R323). -/
def execCpyLg (ty : Ty) (op : MOp) (t : Bool) (a : CReg) (b c d e : XReg) (imm : BitVec 18) (s : State) :
    Host.Outcome State Fault Refusal :=
  let n := s.cur.core
  let len := (s.x d).toNat % 2 ^ 32
  let m := s.mirrorOf e imm
  let bad := ((misaligned ty.bytes [s.x c, s.x b, BitVec.ofNat 64 len]).or (s.ownCheck true (s.x c).toNat len false)).or
    (s.mirrorCheck n m)
  s.copyStart a ⟨3, op.code, s.cur.slot, mirrorField m, n * 2 ^ 18 + (s.x c).toNat % 2 ^ 18, (s.x b).toNat % 2 ^ 57, len⟩
    (ty.bytes == 8) t bad

/-- CPY_DIST (R93, R322, R323). -/
def execCpyDist (a : CReg) (c d e : XReg) (imm : BitVec 18) (s : State) : Host.Outcome State Fault Refusal :=
  let len := (s.x d).toNat % 2 ^ 32
  let m := s.mirrorOf e imm
  let bad := (misaligned 64 [s.x c, BitVec.ofNat 64 len]).or (s.mirrorCheck s.cur.core m)
  s.copyStart a ⟨4, 0, s.cur.slot, mirrorField m, (s.x c).toNat % 2 ^ 57, 0, len⟩ false false bad

/-- CPWP (R324). -/
def execCpwp (a : XReg) (b : CReg) (s : State) : Host.Outcome State Fault Refusal :=
  .next (s.wx a (BitVec.ofNat 64 (s.chan s.cur.core b.toNat).wp)).retire

/-- CPWAIT (R324): not ready while the channel is busy. -/
def execCpwait (a : XReg) (b : CReg) (s : State) : Host.Outcome State Fault Refusal :=
  let c := s.chan s.cur.core b.toNat
  if c.busy then .next (s.block (.channel b.toNat) 0)
  else .next (s.wx a (BitVec.ofNat 64 (c.err.toNat * 2 ^ 63 + c.wp))).retire

/-- DPAT without its reserved bits (R93). -/
def dpatMask (v : Word) : Word := v &&& ~~~(BitVec.ofNat 64 ((2 ^ 23 - 1) * 2 ^ 18))

/-- DPAT (R93, R324). -/
def execDpat (b : CReg) (c : XReg) (s : State) : Host.Outcome State Fault Refusal :=
  .next (s.wr (.dpat b.toNat) ((dpatMask (s.x c)).setWidth 2048)).retire

/-- Where a dealt byte goes (R93): the core, the offset, and the bytes left of its block. -/
def dealAt (n : Nat) (pat : Word) (at' : Nat) : Nat × Nat × Nat :=
  let v := pat.toNat
  let size := 64 * max (bitsOf v 48 16) 1
  let ncore := if bitsOf v 44 4 = 0 || 8 < bitsOf v 44 4 then 8 else bitsOf v 44 4
  let i := at' / size
  (coreOf (clusterOf n) ((bitsOf v 41 3 + i % ncore) % 8), bitsOf v 0 18 / 64 * 64 + i / ncore * size + at' % size,
    size - at' % size)

/-- The owner of a channel still runs the unit that started it (log 32). -/
def State.ownerLive (s : State) (n : Nat) (c : Chan) : Bool :=
  (s.thr n c.oslot).status != .free && (s.thr n c.oslot).unit == c.unit

/-- A committed entry of no task, of a value converted by the sender's range entry (R101, R103, R115, R327). The result
tells a range failure's cause. -/
def State.freeEntry (s : State) (ctx : Nat) (op : MOp) (trp : Bool) (va : Nat) (w : Bool) (bits : Nat) :
    Entry × Bool × Nat :=
  let r := s.route ctx va
  let (val, psn, nx, cause) := if op.isFx then toWindow w r.wexp bits else (BitVec.ofNat 128 bits, false, false, 0)
  ({ key := BitVec.ofNat 64 (keyOf ctx va), op := op, w := w, tent := false, trp := trp, psn := psn
     wexp := if op.isFx then r.wexp else 0, task := noTask, val := val, ord := BitVec.ofNat 2 r.ord
     units := [], age := s.now, mark := false }, nx, cause)

/-- Updates of a channel whose owner has ended (log 32): committed, of no task, counted directly. -/
def State.emitFree (s : State) (n : Nat) (c : Chan) (op : MOp) (l : List Elem) : Option State :=
  l.foldlM (fun s (va, w, bits) =>
    let (e, _, cause) := s.freeEntry c.ctx.toNat op c.trp va w bits
    let s := if cause = 0 then s else s.postMerge e 0 cause 0 e.val c.launch n
    let s := s.monitor n c.oslot op w (va % 2 ^ 57) bits true
    if e.ord == 1 then some (s.push [.yardEntry (s.route c.ctx.toNat va).home e 1]) else s.emit n e) s

/-- Updates of a channel (R92, R323): the owner's updates as its current task; strongly ordered ones go to their home. -/
def State.emitChan (s : State) (n : Nat) (c : Chan) (l : List Elem) : Option State :=
  match opOf (bitsOf c.st.toNat 246 5) with
  | none => some s
  | some op =>
    if !s.ownerLive n c then s.emitFree n c op l
    else
      let strong (e : Elem) : Bool := (s.route c.ctx.toNat e.1).ord == 1
      match s.emitAll n c.oslot op c.trp (l.filter fun e => !strong e) with
      | some s => some ((l.filter strong).foldl (fun s e => s.emitSos n c.oslot op c.trp e) s)
      | none => none

/-- A write of a channel into a local store: as a message of its owner where it lies in another core (R179). -/
def State.chanWrite (s : State) (n : Nat) (c : Chan) (core off : Nat) (bs : List Byte) : State :=
  if s.ownerLive n c then s.storeLs n c.oslot core off bs else s.modCore core fun x => x.lsWrite off bs

/-- The channel stops on an error (R92). -/
def Chan.fail (c : Chan) : Chan := { c with st := c.st ||| BitVec.ofNat 256 (2 ^ 251) }

/-- The channel has delivered `k` more bytes; the mirror word follows the data (R92). -/
def State.chanMoved (s : State) (n i : Nat) (k : Nat) : State :=
  let c := s.chan n i
  let s := s.modChan n i fun x => { x with st := x.st + BitVec.ofNat 256 k }
  if c.wpaddr = noMirror then s
  else
    let core := if c.kind = 1 then packCore c.dst else n
    s.chanWrite n c core c.wpaddr (leBytes 8 (c.wp + k))

/-- Bytes of another core's local store that a channel may name (R323). -/
def State.farOk (s : State) (ctx : BitVec 9) (core off k : Nat) (write : Bool) : Bool :=
  core < coreCount && (s.coreAt core).lsOk ctx off k write

/-- Delivers bytes into a local store (R64, R178, R323): a core inside a killed paddock, or bytes that fail, stop the
channel; a vacated core's router refuses them, and the remainder is pending. -/
def State.chanDeliver (s : State) (n i core off : Nat) (ok : Bool) (bs : List Byte) : State :=
  let c := s.chan n i
  if !ok || (core != n && s.killed core) then s.modChan n i Chan.fail
  else if core != n && s.vacated core then
    s.modChan n i fun x => { x with st := x.st ||| BitVec.ofNat 256 (2 ^ 252) }
  else (s.chanWrite n c core off bs).chanMoved n i bs.length

/-- Bytes that a channel reads from global memory (R323): by a combining load as the owner's current task; `none` where it
waits for a page, is held (R166, R170) or stops. -/
def State.chanRead (s : State) (n i va k : Nat) : State × Option (List Byte) :=
  let c := s.chan n i
  let ctx := c.ctx.toNat
  let tasks := if s.ownerLive n c then s.tasksOf n c.oslot else []
  let dws := ((List.range (k / 4)).map fun j => (va + 4 * j) % 2 ^ 57 / 8 * 8).eraseDups
  let tok := if s.ownerLive n c then s.token n c.oslot else noTask
  match s.loadDwsOf n tasks ctx dws with
  | (s, .ok ds) =>
    let gs := (List.range (k / 4)).map fun j => dwNum ds ((va + 4 * j) % 2 ^ 57) 4
    if gs.any Prod.snd then (s.modChan n i Chan.fail, none) else (s, some (gs.flatMap fun g => leBytes 4 g.1))
  | (s, .error m) =>
    match m.tr with
    | .absent lvl v _ =>
      if m.held || !s.waitRoom m.die ctx m.va then (s, none) else
      let s := s.waitOn m.die ctx m.va [.channel n i] (supWord 1 1 0 lvl m.die tok) (bitsOf v.toNat 0 64)
      (s.modChan n i fun x => { x with waits := some (m.die, ctx, m.va) }, none)
    | .refused cause lvl v =>
      ((s.postRefused cause 0 lvl m.die tok ctx m.va v).modChan n i Chan.fail, none)
    | .ok _ _ _ _ => (s, none)

/-- COPY_BLOCK_DELIVERY (R92, R93, R323): the next block of 64 bytes, or a shorter last one, in ascending order. -/
def execCopyBlockDelivery (s : State) : Host.Outcome State Fault Refusal :=
  match s.ev with
  | .copyBlockDelivery n i =>
    let c := s.chan n i
    if !c.busy || c.pendBit then .next s
    else
      let s := s.modChan n i fun x => { x with waits := none }
      let wp := c.wp
      let k := min 64 (c.len - wp)
      match c.kind with
      | 1 =>
        let from' := packCore c.src
        let dst' := packCore c.dst
        let a := packOff c.src + wp
        let b := packOff c.dst + wp
        let ok := (from' == n || s.farOk c.ctx from' a k false) && (dst' == n || s.farOk c.ctx dst' b k true)
        .next (s.chanDeliver n i dst' b ok (Memory.readN (s.coreAt from').ls a k))
      | 2 =>
        match s.chanRead n i (c.src + wp) k with
        | (s, some bs) => .next (s.chanDeliver n i n (packOff c.dst + wp) true bs)
        | (s, none) => .next s
      | 3 =>
        let w := if c.wide then 8 else 4
        let l : List Elem := (List.range (k / w)).map fun j =>
          ((c.dst + wp + w * j) % 2 ^ 57, c.wide, (s.coreAt n).lsNum (packOff c.src + wp + w * j) w)
        match s.emitChan n c l with
        | some s => .next ((s.chanMoved n i k).stallFill n)
        | none => .next s
      | _ =>
        let (core, off, left) := dealAt n c.run wp
        let lo := off - (64 * max (bitsOf c.run.toNat 48 16) 1 - left)
        let size := min (off - lo + left) (c.len - (wp - (off - lo)))
        let ok := (s.coreAt core).lsOk c.ctx lo size true
        if !ok then .next (s.modChan n i Chan.fail)
        else
          match s.chanRead n i (c.src + wp) k with
          | (s, some bs) => .next (s.chanDeliver n i core off true bs)
          | (s, none) => .next s
  | _ => .next s

/-- COPY_PEND_RESUME (R64): the remainder goes on after the rectangle's release. -/
def execCopyPendResume (s : State) : Host.Outcome State Fault Refusal :=
  match s.ev with
  | .copyPendResume n i =>
    .next (s.modChan n i fun x => { x with st := x.st &&& ~~~(BitVec.ofNat 256 (2 ^ 252)) })
  | _ => .next s

end Sys2Proof.Machine
end

