-- ==== Sys2Proof/Machine/Transfers.lean ====
section
/-! DEFINITION. Gets, puts and collectives (R325 to R330), and the messages of theirs that arrive (R23). -/

namespace Sys2Proof.Machine

/-- A counter index of an operand: one beyond 32 bits is beyond every table (R48). -/
def ctrIndex (v : Word) : BitVec 32 := BitVec.ofNat 32 (min v.toNat (2 ^ 32 - 1))

/-- The part of a get or put control word (R325). -/
def xferPart (v : Word) : BitVec 10 := BitVec.ofNat 10 (bitsOf v.toNat 54 10)
/-- ROWB of a control word (R325). -/
def xferRow (v : Word) : Nat := bitsOf v.toNat 16 16
/-- NIDX of a control word (R325). -/
def xferCount (v : Word) : Nat := bitsOf v.toNat 0 16

/-- The checks of a get or put (R325): the control word, the base, then the local-store bytes. -/
def State.xferCheck (s : State) (k : Nat) (a b c d : XReg) (write : Bool) : Option (Cause × Word) :=
  let row := xferRow (s.x d)
  let n := xferCount (s.x d)
  if row < 4 || 3584 < row || row % k != 0 then some (.align, s.x d)
  else if (s.x b).toNat % k != 0 then some (.align, s.x b)
  else (s.ownCheck (n != 0) (s.x a).toNat (n * row) write).or (s.ownCheck (n != 0) (s.x c).toNat (4 * n) false)

/-- Indices of a get or put, from its list (R325). -/
def State.indexList (s : State) (c d : XReg) : List Nat :=
  (List.range (xferCount (s.x d))).map fun i => s.myCore.lsNum ((s.x c).toNat + 4 * i) 4

/-- Rows that one get request holds: a message has at most 64 flits (R22, log 30). -/
def getLimit : Nat := 889

/-- GET (R325, R326): the list is read at issue; requests of at most 64 flits go out in order. -/
def execGet (a b c d e : XReg) (s : State) : Host.Outcome State Fault Refusal :=
  match s.xferCheck 4 a b c d true with
  | some (cause, v) => .next (s.raise cause v)
  | none =>
    let n := s.cur.core
    let k := s.cur.slot
    let part := xferPart (s.x d)
    let row := xferRow (s.x d)
    let base := (s.x b).toNat % 2 ^ 57
    let ref := refWord s.me.cr.ctx (ctrIndex (s.x e)) true
    let rows := (s.indexList c d).zipIdx
    let msgs := stretches getLimit (rows.length + 1) rows
    .next (msgs.foldl (fun s l =>
      match l with
      | [] => s
      | (_, i0) :: _ =>
        let pend := l.map fun (x, i) =>
          (⟨part, n, k, (s.x a).toNat + i * row, row, ref, (base + x * row) % 2 ^ 57⟩ : GetPend)
        s.send n k (.outgoing ⟨part, 2, 1, getBody ref ((s.x a).toNat + i0 * row) row base (l.map Prod.fst), pend, [], none⟩)
          false) s).retire

/-- GET_REQUEST_SERVE (R23, R326). -/
def execGetRequestServe (s : State) : Host.Outcome State Fault Refusal :=
  match s.ev with
  | .getRequestServe src body => .next (s.serveGet src body)
  | _ => .next s

/-- GET_ROW_WRITE (R326, R328): the row is written whole, in both copies of a paired unit, then its counter operation is
sent. A core of a killed paddock takes no row: its message draws PADDOCK, and has failed (R24, R178). -/
def execGetRowWrite (s : State) : Host.Outcome State Fault Refusal :=
  match s.ev with
  | .getRowWrite g =>
    if s.killed g.core then
      .next ((s.sendTo g.part 3 4 (nackBody g.ref .paddock s.io.partNo 1)).push [refOp g.ref (.counted 1 1)])
    else
      let s := s.modCore g.core fun c => c.lsWrite g.offset g.data
      let s := match s.mateAt g.core g.slot with
        | some (m, _) => s.modCore m fun c => c.lsWrite g.offset g.data
        | none => s
      .next (s.push [refOp g.ref (.counted 1 g.refused.toNat)])
  | _ => .next s

/-- The body of a put update (R22): the tree entry, the counter reference and reserved bytes. -/
def putBody (e : Entry) (ref : Word) : List Byte := treeBytes e ++ leBytes 8 ref.toNat ++ leBytes 16 0

/-- PUT (R327): the commit's prepare first; then the rows are read, and each element goes out as one committed entry, in
ascending order of row index and then of address for each key. -/
def execPut (ty : Ty) (op : MOp) (a b c d e : XReg) (s : State) : Host.Outcome State Fault Refusal :=
  let w := ty.bytes
  match (if s.phase = 0 then s.xferCheck w a b c d false else none) with
  | some (cause, v) => .next (s.raise cause v)
  | none =>
    s.withCommit fun s =>
      let n := s.cur.core
      let k := s.cur.slot
      let part := xferPart (s.x d)
      let row := xferRow (s.x d)
      let base := (s.x b).toNat % 2 ^ 57
      let ctx := s.me.cr.ctx
      let ref := refWord ctx (ctrIndex (s.x e)) false
      let elems := (s.indexList c d).zipIdx.flatMap fun (x, i) =>
        (List.range (row / w)).map fun j =>
          ((base + x * row + w * j) % 2 ^ 57, s.myCore.lsNum ((s.x a).toNat + i * row + w * j) w)
      .next (elems.foldl (fun s (va, bits) =>
        let (en, nx, cause) := s.freeEntry ctx.toNat op false va (w == 8) bits
        let s := if nx then s.orFlags Flags.nx else s
        let s := if cause = 0 then s else s.postMerge en 0 cause 0 en.val s.me.cr.launch n
        let body := putBody en ref
        s.send n k (.outgoing ⟨part, 1, 1, body, [], [⟨part, n, k, s.me.cr.owner, body⟩], none⟩) false) s).retire

/-- A step of a collective (R329). -/
def stepPeer (v : BitVec 128) : BitVec 10 := BitVec.ofNat 10 (bitsOf v.toNat 118 10)
/-- ACT of a step. -/
def stepAct (v : BitVec 128) : Nat := bitsOf v.toNat 116 2
/-- TAG of a step. -/
def stepTag (v : BitVec 128) : BitVec 16 := BitVec.ofNat 16 (bitsOf v.toNat 100 16)
/-- OFF of a step. -/
def stepOff (v : BitVec 128) : Nat := bitsOf v.toNat 64 32
/-- LEN of a step. -/
def stepLen (v : BitVec 128) : Nat := bitsOf v.toNat 32 32

/-- Data bytes that one message of a collective carries: 64 flits less the head of its body (log 30). -/
def collLimit : Nat := 3568

/-- Sends the data of a send step to its peer, in messages of at most 64 flits (R22, R330). -/
def State.collSend (s : State) (c : Coll) (v : BitVec 128) (data : List Byte) : State :=
  let parts := stretches collLimit (data.length + 1) data
  let parts := if parts.isEmpty then [[]] else parts
  (parts.zipIdx).foldl (fun s (p, i) =>
    s.sendTo (stepPeer v) 4 1
      (leBytes 2 (stepTag v).toNat ++ leBytes 2 c.id.toNat ++ leBytes 4 c.flag.toNat ++ leBytes 2 c.ctx.toNat
        ++ leBytes 1 (if i + 1 = parts.length then 1 else 0) ++ leBytes 1 0 ++ leBytes 4 p.length ++ p)) s

/-- The oldest message held for a receive step (R330). -/
def collFits (m : CollMsg) (c : Coll) (v : BitVec 128) : Bool :=
  m.src == stepPeer v && m.ctx == c.ctx && m.id == c.id && m.tag == stepTag v && m.whole

/-- Element-wise combination of a received buffer (R114, R330). -/
def collData (op : MOp) (k : Nat) (replace : Bool) (old new : List Byte) : List Byte :=
  if replace then new
  else
    (List.range (old.length / k)).flatMap fun i =>
      leBytes k (opValue op (k == 8) (leNat ((old.drop (k * i)).take k)) (leNat ((new.drop (k * i)).take k))).1

/-- What running the steps of a collective leaves: it waits for a message, or it is finished. -/
structure CollRun where
  st : State
  coll : Coll
  waits : Bool

/-- Writes bytes into a core's local store, and into that of its partner where a pair runs there (log 33). -/
def State.bothLs (s : State) (n k off : Nat) (bs : List Byte) : State :=
  let s := s.modCore n fun c => c.lsWrite off bs
  match s.mateAt n k with
  | some (m, _) => s.modCore m fun c => c.lsWrite off bs
  | none => s

/-- Runs the steps of a collective in table order up to one whose message has not come (R330). -/
def State.collSteps (s : State) (n : Nat) (c : Coll) : List (BitVec 128) → CollRun
  | [] => ⟨s, { c with steps := [] }, false⟩
  | v :: rest =>
    let core := s.coreAt n
    let off := c.buf + stepOff v
    let len := stepLen v
    let fail : CollRun := ⟨s, { c with steps := [], flag := c.flag ||| BitVec.ofNat 32 (2 ^ 31) }, false⟩
    let rd := len = 0 || core.lsOk c.ctx off len false
    let wr := len = 0 || core.lsOk c.ctx off len true
    match stepAct v with
    | 0 =>
      if !rd then fail
      else
        let s := s.collSend c v (Memory.readN core.ls off len)
        s.collSteps n c rest
    | 3 => fail
    | act =>
      if !wr || (act = 1 && !rd) then fail
      else
        match s.io.collHeld.find? fun m => collFits m c v with
        | none => ⟨s, { c with steps := v :: rest }, true⟩
        | some m =>
          let s := s.modIo fun io => { io with collHeld := dropFirst (fun m => collFits m c v) io.collHeld }
          let c := { c with flag := c.flag ||| m.flag }
          if m.data.length != len then ⟨s, { c with steps := [], flag := c.flag ||| BitVec.ofNat 32 (2 ^ 31) }, false⟩
          else
            let data := collData c.op c.ty.bytes (act == 2) (Memory.readN core.ls off len) m.data
            (s.bothLs n c.slot off data).collSteps n c rest

/-- A collective has ended (R330): the flag word is written, then its counter operation is sent. -/
def State.collFinish (s : State) (n : Nat) (c : Coll) : State :=
  (s.bothLs n c.slot c.out (leBytes 4 c.flag.toNat)).push
    [refOp (refWord c.ctx (BitVec.ofNat 32 c.ctr) false) (.counted 1 (bitsOf c.flag.toNat 31 1))]

/-- Runs every collective of a slot of a core as far as it goes (R330). -/
def State.collRun (s : State) (n k : Nat) : State :=
  (s.coreAt n).colls.foldl (fun s c =>
    -- collectives of a thread keep their order (R149)
    if c.slot != k || ((s.coreAt n).colls.find? fun x => x.slot == k).any (fun x => x.id != c.id || x.ctx != c.ctx || x.buf != c.buf)
    then s
    else
      let r := s.collSteps n c c.steps
      -- a send that failed under R24 has marked the collective meanwhile
      let bad := (r.st.coreAt n).colls.any fun x => x.slot == k && x.ctx == c.ctx && x.id == c.id && x.flag.getLsbD 31
      let coll := if bad then { r.coll with flag := r.coll.flag ||| BitVec.ofNat 32 (2 ^ 31), steps := [] } else r.coll
      let mine (x : Coll) : Bool := x.slot == k && x.ctx == c.ctx && x.id == c.id && x.buf == c.buf
      if r.waits && !bad then r.st.modCore n fun x => { x with colls := mapIf mine (fun _ => coll) x.colls }
      else (r.st.modCore n fun x => { x with colls := dropFirst mine x.colls }).collFinish n coll) s

/-- Reads the step table as a combining load (R150, R329): its steps, the first poisoned granule, or a miss. -/
def State.collTable (s : State) (va : Nat) : State × Except LoadMiss (List (BitVec 128) × Option Nat) :=
  let n := s.cur.core
  let k := s.cur.slot
  let ctx := s.me.cr.ctx.toNat
  let row (i : Nat) : Nat := (va + 16 * i) % 2 ^ 57
  let dws (a : Nat) : List Nat := (dwsOf a 16).map fun x => x % 2 ^ 57
  let psn (ds : List (Nat × Dw)) (a : Nat) : Option Nat :=
    ((List.range 4).find? fun j => (dwNum ds (a + 4 * j) 4).2).map fun j => a + 4 * j
  match s.loadDws n k ctx (dws (row 0)) with
  | (s, .error m) => (s, .error m)
  | (s, .ok hd) =>
    let count := (dwNum hd (row 0) 2).1
    let rows := (List.range count).map fun i => row (i + 1)
    match s.loadDws n k ctx (rows.flatMap dws).eraseDups with
    | (s, .error m) => (s, .error m)
    | (s, .ok ds) =>
      (s, .ok (rows.map (fun a => BitVec.ofNat 128 (dwNum ds a 16).1), (psn hd (row 0)).or (rows.findSome? (psn ds))))

/-- COLL (R329, R330): the table is captured, the steps run up to the first message that has not come. The partner of a
pair takes its results from the primary (log 33). -/
def execColl (ty : Ty) (op : MOp) (a b c d e f : XReg) (s : State) : Host.Outcome State Fault Refusal :=
  let n := s.cur.core
  let k := s.cur.slot
  let out := (s.x f).toNat
  match s.lsAligned out 4 4 true with
  | some (cause, v) => .next (s.raise cause v)
  | none =>
    if 4 ≤ s.myCore.colls.length then .next (s.block .collRoom 0)
    else
      match s.collTable ((s.x b).toNat % 2 ^ 57) with
      | (s, .error m) => .next (s.miss m)
      | (s, .ok (_, some bad)) => .next (s.raise .poison (BitVec.ofNat 64 bad))
      | (s, .ok (steps, none)) =>
        if s.me.mate.isSome && !s.me.primary then .next s.retire
        else
          let coll : Coll :=
            { slot := k, unit := s.me.unit, ctx := s.me.cr.ctx, launch := s.me.cr.launch, id := (s.x e).setWidth 16
              ty := ty, op := op, buf := (s.x a).toNat, flag := (s.x c).setWidth 32, ctr := (ctrIndex (s.x d)).toNat
              out := out, steps := steps }
          .next ((s.modCore n fun x => { x with colls := x.colls ++ [coll] }).collRun n k).retire

/-- Wakes the receive steps that a held message fits. -/
def State.collWake (s : State) (m : CollMsg) : State :=
  s.push (s.cores.flatMap fun (n, c) => c.colls.filterMap fun x =>
    match x.steps with
    | v :: _ => if collFits m x v then some (.collectiveReceiveStep n x.slot) else none
    | [] => none)

/-- A collective that a message is for ended with its core's paddock, which is still killed (R178). -/
def State.collKilled (s : State) (ctx : BitVec 9) (id : BitVec 16) : Bool :=
  s.io.collDead.any (fun (n, c, i) => s.killed n && c == ctx && i == id)
    && !s.cores.any fun (_, c) => c.colls.any fun x => x.ctx == ctx && x.id == id

/-- COLLECTIVE_MESSAGE_ARRIVAL (R178, R330): held in arrival order; the parts of one step's data make one message. One for a
collective of a killed core draws PADDOCK, and one of a context that is torn down is discarded (R331). -/
def execCollectiveMessageArrival (s : State) : Host.Outcome State Fault Refusal :=
  match s.ev with
  | .collectiveMessageArrival m =>
    if s.torn m.ctx.toNat then .next s
    else if s.collKilled m.ctx m.id then .next (s.sendTo m.src 3 4 (nackBody (collRef m.ctx m.id) .paddock s.io.partNo 1)) else
    let same (x : CollMsg) : Bool := x.src == m.src && x.ctx == m.ctx && x.id == m.id && x.tag == m.tag && !x.whole
    let s := s.modIo fun io =>
      { io with
        collHeld := if io.collHeld.any same then
            mapIf same (fun x => { x with flag := x.flag ||| m.flag, whole := m.whole, data := x.data ++ m.data }) io.collHeld
          else io.collHeld ++ [m] }
    .next (match s.io.collHeld.reverse.find? fun x => x.src == m.src && x.ctx == m.ctx && x.id == m.id && x.tag == m.tag with
      | some x => s.collWake x
      | none => s)
  | _ => .next s

/-- COLLECTIVE_RECEIVE_STEP (R330). -/
def execCollectiveReceiveStep (s : State) : Host.Outcome State Fault Refusal :=
  match s.ev with
  | .collectiveReceiveStep n k => .next (s.collRun n k)
  | _ => .next s

end Sys2Proof.Machine
end

