-- ==== Sys2Proof/Machine/Tasks.lean ====
section
/-! DEFINITION. Tasks: suspensions and slot lending (R45, R62, R336), `post` and `spawn` (R63, R337, R338), completion
counters (R48 to R51, R339), mailboxes (R95, R340) and the fault queue read (R335). -/

namespace Sys2Proof.Machine

/-- How a unit suspends (R45, R62, R336, R339). -/
inductive Susp where
  | done | yield | wfw
  | wait (k : BitVec 32)
  deriving DecidableEq, Repr

/-- A yield's insert (R54, R336): refused where the queue is invalid or full, and then the unit ends with a fault. -/
def State.yieldInsert (s : State) (r : Record) : State :=
  let q := r.queue.toNat
  if s.torn r.ctx.toNat then s
  else if !s.queueOk q r.ctx.toNat then s.unitEnd r (.ended false)
  else if s.noRoom q then (s.dropInsert q).unitEnd r (.ended false)
  else s.poolPlace q r

/-- What a suspension does with its resume record (R45, R50, R51): a cancelled unit's record is discarded. -/
def State.suspendRecord (s : State) (k : Susp) (cancelled : Bool) (r : Record) : State :=
  match k with
  | .done | .wfw => s.unitEnd r .done
  | .yield => if cancelled then s.unitEnd r (.ended true) else s.yieldInsert r
  | .wait i =>
    if cancelled then s.unitEnd r (.ended true)
    else if !s.ctrExists r.ctx.toNat i.toNat then s.yieldInsert r
    else s.push [.counterOperation ⟨r.ctx, i, .wait r, noNode, 0⟩]

/-- The unit leaves its slot, or with `wfw` keeps it out of the rotation (R62, R336): long context freed, streams closed,
and the group's writes applied. On a core that is vacated the slot is freed (R62). -/
def State.leaveSlot (s : State) (n k : Nat) (keep : Bool) : State :=
  if !keep || s.vacated n then s.freeSlot n k
  else
    let w := (s.thr n k).pend
    let s := s.modThr n k fun t => { t with pend := [], groupLen := 0, cyc := none, flags := t.flags ||| t.grpFlags, grpFlags := 0 }
    ((applyWrites n k w s).freeLong n k).modThr n k fun t =>
      { t with
        status := .wfw, wait := .none, blocked := none, s := [], mate := none, primary := false, mismatched := false
        leaveBy := none }

/-- A suspension (R336): the release of device scope of all kinds (R145), the late causes, and the effect of R45. A pair
produces one resume record and one count: the partner's copy only leaves its slot (R68). -/
def State.suspend (s : State) (kind : Susp) : Host.Outcome State Fault Refusal :=
  s.withRelease .device true fun s =>
    let n := s.cur.core
    let k := s.cur.slot
    match (if s.me.intrap then none else s.lateDue true s.me.pc) with
    | some r => .next (s.deliverLate n k r)
    | none =>
      let t := s.me
      let s := s.leaveSlot n k (kind == .wfw)
      .next (if t.mate.isSome && !t.primary then s else s.suspendRecord kind t.cancelled t.resume)

/-- DONE (R336). -/
def execDone (s : State) : Host.Outcome State Fault Refusal := s.suspend .done
/-- YIELD (R336). -/
def execYield (s : State) : Host.Outcome State Fault Refusal := s.suspend .yield
/-- WFW (R62, R336). -/
def execWfw (s : State) : Host.Outcome State Fault Refusal := s.suspend .wfw
/-- CTWAIT (R339). -/
def execCtwait (b : XReg) (s : State) : Host.Outcome State Fault Refusal := s.suspend (.wait ((s.x b).setWidth 32))
/-- LEND (R72, R336). -/
def execLend (s : State) : Host.Outcome State Fault Refusal := .next (s.modMe fun t => { t with lend := true }).retire

/-- The answer that a thread has waited for is its result (R44). -/
def State.takeAnswer (s : State) (a : XReg) : State :=
  ((s.wx a (s.me.reply.getD 0)).modMe fun t => { t with reply := none }).resumeResult

/-- Number in a local store of 64 bytes at an offset. -/
def State.image (s : State) (off : Nat) : Nat := s.myCore.lsNum off 64

/-- POST (R337, R338): the release, then the record goes to the I/O die, which answers with a status. -/
def execPost (a b c : XReg) (s : State) : Host.Outcome State Fault Refusal :=
  match (if s.phase = 0 then s.lsAligned (s.x b).toNat 64 64 false else none) with
  | some (cause, v) => .next (s.raise cause v)
  | none =>
    if followPhase ≤ s.phase then .next (s.takeAnswer a).retireCommit
    else
      s.withRelease .device false fun s =>
        .next (s.lead fun s =>
          let r := { recordOf (s.image (s.x b).toNat) with pin := false }
          ((s.modMe fun t => { t with reply := none }).push
            [.postArrival s.cur.core s.cur.slot (bitsOf (s.x c).toNat 0 12) r]).block .reply followPhase)

/-- The page of a counter can be reached, so that an operation on it acts at once (R48, R50); where it is not resident, the
failure is listed. -/
def State.ctrReach (s : State) (ctx k : Nat) : State × Bool :=
  if !s.ctrExists ctx k then (s, true)
  else
    let va := s.ctrAt ctx k
    let die := (s.route ctx va).home
    if (s.dieAt die).isFrozen ctx va then (s, false)
    else
      match s.xlate die ctx va .wr with
      | (s, .absent lvl v _) =>
        (if s.waitRoom die ctx va then s.waitOn die ctx va [] (supWord 1 1 1 lvl die noTask) (bitsOf v.toNat 0 64) else s, false)
      | (s, _) => (s, true)

/-- POST_ARRIVAL (R54, R338): decided in one pool step, which also takes the record's place; TARGET + 1 stands before the
record can be taken, so the step waits for the counter's page (R50). A teardown of its cycle comes before it (R70, R351). -/
def execPostArrival (s : State) : Host.Outcome State Fault Refusal :=
  match s.ev with
  | .postArrival n k q r =>
    let ctx := (s.thr n k).cr.ctx
    if s.inTurns then .next (s.defer s.ev)
    else if s.torn ctx.toNat then .next (s.answer n k 2)
    else if !s.queueOk q ctx.toNat then .next (s.answer n k 3)
    else if s.noRoom q then .next ((s.dropInsert q).answer n k 4)
    else
      match s.ctrReach ctx.toNat r.launch.toNat with
      | (s, false) => .next (s.defer (.postArrival n k q r))
      | (s, true) =>
        let s := s.counterOp ctrFuel ⟨ctx, r.launch, .target, noNode, 0⟩
        .next ((s.poolPlace q { r with ctx := ctx }).answer n k 0)
  | _ => .next s

/-- SPAWN (R22, R63, R338): the release, then the record goes to the core named; the thread waits for the answer. -/
def execSpawn (a b c : XReg) (s : State) : Host.Outcome State Fault Refusal :=
  match (if s.phase = 0 then s.lsAligned (s.x b).toNat 64 64 false else none) with
  | some (cause, v) => .next (s.raise cause v)
  | none =>
    if followPhase ≤ s.phase then .next (s.takeAnswer a).retireCommit
    else
      s.withRelease .device false fun s =>
        let n := s.cur.core
        let k := s.cur.slot
        let r := { recordOf (s.image (s.x b).toNat) with pin := false, ctx := s.me.cr.ctx }
        let part := BitVec.ofNat 10 (bitsOf (s.x c).toNat 12 10)
        let body := leBytes 64 (recordNum r) ++ leBytes 8 (bitsOf (s.x c).toNat 0 12)
        let s := (s.modMe fun t => { t with reply := none }).block .reply followPhase
        .next ((s.send n k (.outgoing ⟨part, 2, 2, body, [], [], some (n, k)⟩) false).closeWindow n k)

/-- The core as it stands once a record has its slot (R61). -/
def Core.take (c : Core) (r : Record) : Core :=
  match c.wfwSlot r with
  | some k => { c with threads := put c.threads k { look c.threads k Thread.reset with status := .running } }
  | none =>
    match c.freeSlot, c.freeWindow r.xcount.toNat with
    | some k, some b =>
      { c with
        threads := put c.threads k
          { Thread.reset with status := .running, xbase := BitVec.ofNat 10 b, xcount := r.xcount } }
    | _, _ => c

/-- A core has a slot and window for a record, with those left for the records its manger is to place there (R59, R61). -/
def State.slotFor (s : State) (n : Nat) (r : Record) : Bool :=
  let due := (s.clusterAt (clusterOf n)).manger.filter fun m => m.core == n
  ((due.foldl (fun c m => c.take m.cr) (s.coreAt n))).canTake r

/-- A core is usable for new units (R59, R63). -/
def State.placeable (s : State) (n : Nat) : Bool :=
  n < coreCount && s.dieReady (dieOf n) && !s.vacated n && !s.killed n

/-- The register window size of a record is one that a unit can have (R42, R59). -/
def Record.sized (r : Record) : Bool := 8 ≤ r.xcount.toNat && r.xcount.toNat ≤ 64

/-- SPAWN_ARRIVAL (R63, R338): the answer's conditions in order; an accepted record starts, after TARGET + 1 on its launch, once
the counter's page is there (R50); one of a cancelled launch is discarded and counted (R51). A teardown of its cycle comes
before it (R70). -/
def execSpawnArrival (s : State) : Host.Outcome State Fault Refusal :=
  match s.ev with
  | .spawnArrival m =>
    let r := m.record
    let answer (s : State) (v : Word) : State := s.sendTo m.src 3 3 (leBytes 8 v.toNat)
    if s.inTurns then .next (s.defer s.ev)
    else if !s.ctxActive r.ctx.toNat then .next (answer s spawnCancelled)
    else if !s.placeable m.target || !Record.sized r || !s.slotFor m.target r then .next (answer s spawnBounced)
    else
      match s.ctrReach r.ctx.toNat r.launch.toNat with
      | (s, false) => .next (s.defer (.spawnArrival m))
      | (s, true) =>
        let s := s.counterOp ctrFuel ⟨r.ctx, r.launch, .target, noNode, 0⟩
        .next (answer (if s.cancelled r then s.unitEnd r (.ended true) else (s.grant m.target r).1) spawnAccepted)
  | _ => .next s

/-- The counter at the top of a PARENT chain (R63). -/
def State.topCtr (s : State) (ctx : Nat) : Nat → Nat → Nat
  | 0, k => k
  | fuel + 1, k =>
    let p := (s.readCtr ctx k).parent
    if s.ctrExists ctx k && s.ctrExists ctx p then s.topCtr ctx fuel p else k

/-- SPAWN_ANSWER_RECEIVE (R24, R63): the oldest spawn to that part has its status; CANCELLED is counted in the job counter
of the sender, unless its own context is being torn down. -/
def execSpawnAnswerReceive (s : State) : Host.Outcome State Fault Refusal :=
  match s.ev with
  | .spawnAnswerReceive src status =>
    match s.io.spawns.find? fun x => x.1 == src with
    | none => .next s
    | some (_, n, k) =>
      let s := s.modIo fun io => { io with spawns := dropFirst (fun x => x.1 == src) io.spawns }
      let r := (s.thr n k).cr
      let s := s.answer n k status
      if status == spawnCancelled && !s.torn r.ctx.toNat then
        .next (s.push [.counterOperation ⟨r.ctx, r.launch, .cancels, noNode, 0⟩])
      else .next s
  | _ => .next s

/-- COUNTER_OPERATION (R49): no counter of a context that is being torn down is written (R69). -/
def execCounterOperation (s : State) : Host.Outcome State Fault Refusal :=
  match s.ev with
  | .counterOperation op => .next (if s.torn op.ctx.toNat then s else s.counterOp ctrFuel op)
  | _ => .next s

/-- A counter instruction's order as a strongly ordered access (R139, R339): the implicit commit, complete, then `k` with the
unit pinned. -/
def State.strongStep (s : State) (k : State → Host.Outcome State Fault Refusal) : Host.Outcome State Fault Refusal :=
  match s.phase with
  | 0 => .next s.commitStart
  | 1 => .next ((s.modMe fun t => { t with commit := .idle }).block .flipped 2)
  | _ => k (s.modMe fun t => { t with pin := true })

/-- A counter operation of an instruction: sent once for a pair, acknowledged as a strongly ordered update (R139). -/
def State.ctrSend (s : State) (b : XReg) (act : CtrAct) : State :=
  let t := s.me
  if t.mate.isSome && !t.primary then s.retire
  else
    ((s.modMe fun t => { t with sosOut := t.sosOut + 1 }).push
      [.counterOperation ⟨t.cr.ctx, (s.x b).setWidth 32, act, noNode, 0⟩,
        .sosAcknowledge s.cur.core s.cur.slot t.cr.owner true]).retire

/-- CTADD (R339). -/
def execCtadd (b c d : XReg) (s : State) : Host.Outcome State Fault Refusal :=
  s.strongStep fun s => .next (s.ctrSend b (.add ((s.x c).setWidth 32) ((s.x d).setWidth 32)))

/-- CTCANCEL (R339). -/
def execCtcancel (b : XReg) (s : State) : Host.Outcome State Fault Refusal :=
  s.strongStep fun s => .next (s.ctrSend b .cancel)

/-- CTREAD (R339): an index beyond the table reads as all ones. -/
def execCtread (a b c : XReg) (s : State) : Host.Outcome State Fault Refusal :=
  s.strongStep fun s =>
    let ctx := s.me.cr.ctx.toNat
    let k := (s.x b).toNat % 2 ^ 32
    if !s.ctrExists ctx k then .next (s.wx a (BitVec.allOnes 64)).retire
    else
      let va := s.ctrAt ctx k + (if (s.x c).getLsbD 0 then 0 else 8)
      match s.loadDws s.cur.core s.cur.slot ctx ((dwsOf va 8).map fun x => x % 2 ^ 57) with
      | (s, .error m) => .next (s.miss m)
      | (s, .ok ds) => .next (s.wx a (BitVec.ofNat 64 (dwNum ds (va % 2 ^ 57) 8).1)).retire

/-- MSEND (R95, R340): the commit's prepare, then the message; the thread is not ready until the router has taken it. -/
def execMsend (b c d : XReg) (s : State) : Host.Outcome State Fault Refusal :=
  match (if s.phase = 0 then s.lsAligned (s.x c).toNat 64 64 false else none) with
  | some (cause, v) => .next (s.raise cause v)
  | none =>
    if s.phase = 2 then .next s.commitLast.retire
    else
      s.withCommit fun s =>
        let n := s.cur.core
        let k := s.cur.slot
        let m : MailMsg :=
          { target := bitsOf (s.x b).toNat 0 12, low := (s.x d).getLsbD 0, data := BitVec.ofNat 512 (s.image (s.x c).toNat)
            core := n, slot := k, ctx := s.me.cr.ctx }
        let s := s.modMyCore fun x => { x with outbox := x.outbox ++ [m] }
        let bytes := leBytes 64 m.data.toNat ++ leBytes 2 m.target ++ leBytes 1 m.low.toNat
        let s := s.block .mailSent 2
        .next ((s.send n k (.event bytes (.mailboxArrival m)) false).closeWindow n k)

/-- A message has left its sender's outbox, and that of the partner's copy. -/
def State.mailGone (s : State) (m : MailMsg) : State :=
  let gone (s : State) (n k : Nat) : State := s.modCore n fun c => { c with outbox := dropFirst (fun x => x.slot == k) c.outbox }
  let mate := s.mateAt m.core m.slot
  let s := gone s m.core m.slot
  match mate with
  | some (a, j) => gone s a j
  | none => s

/-- A message was refused (R95): its sender is held, which aborts the task of a thread that a cancel has marked (R51). -/
def State.mailRefused (s : State) (m : MailMsg) : State :=
  let s := s.modThr m.core m.slot fun t => { t with wait := if t.wait == .mailSent then .mailFull else t.wait }
  if (s.thr m.core m.slot).cancelled then s.push [.taskAbort m.core m.slot .cancel] else s

/-- MAILBOX_ARRIVAL (R95, R178, R340): taken, or refused by a full mailbox or a vacated core's router; no core, or one in a
killed paddock, discards it and PADDOCK is due at the sender. An `mrecv` of its cycle may still make room (R351). -/
def execMailboxArrival (s : State) : Host.Outcome State Fault Refusal :=
  match s.ev with
  | .mailboxArrival m =>
    if !((s.coreAt m.core).outbox.any fun x => x.slot == m.slot) then .next s
    else if coreCount ≤ m.target || s.killed m.target then
      .next ((s.mailGone m).modThr m.core m.slot fun t => { t with padPend := t.padPend.or (some m.target) })
    else if s.vacated m.target then .next (s.mailRefused m)
    else
      let c := s.coreAt m.target
      if 32 ≤ (if m.low then c.mboxLo else c.mboxHi).length then .next (if s.inTurns then s.defer s.ev else s.mailRefused m)
      else
        let s := s.mailGone m
        .next (s.modCore m.target fun c =>
          if m.low then { c with mboxLo := c.mboxLo ++ [m] } else { c with mboxHi := c.mboxHi ++ [m] })
  | _ => .next s

/-- MAILBOX_RETRY (R95): a message that was refused is sent again. -/
def execMailboxRetry (s : State) : Host.Outcome State Fault Refusal :=
  match s.ev with
  | .mailboxRetry n k =>
    match (s.coreAt n).outbox.find? fun m => m.slot == k with
    | some m => .next (s.push [.mailboxArrival m])
    | none => .next s
  | _ => .next s

/-- The mailboxes that an `mrecv` names (R340). -/
def mailMask (v : Word) : Nat := if v.toNat % 4 = 0 then 3 else v.toNat % 4

/-- What `mrecv` writes in A (R340). -/
def mailWord (m : MailMsg) : Word := BitVec.ofNat 64 (m.low.toNat * 2 ^ 24 + m.ctx.toNat * 2 ^ 12 + m.core)

/-- MRECV (R95, R340): the commit's prepare, then the oldest message of a named mailbox, the high one first, then the
commit's end. -/
def execMrecv (a b c : XReg) (s : State) : Host.Outcome State Fault Refusal :=
  match (if s.phase = 0 then s.lsAligned (s.x b).toNat 64 64 true else none) with
  | some (cause, v) => .next (s.raise cause v)
  | none =>
    if followPhase ≤ s.phase then .next (s.takeAnswer a).commitLast.retire
    else
      s.withCommit fun s =>
        .next (s.lead fun s =>
          let n := s.cur.core
          let k := s.cur.slot
          let mask := mailMask (s.x c)
          let hi := if mask % 2 = 1 then s.myCore.mboxHi else []
          let lo := if mask / 2 % 2 = 1 then s.myCore.mboxLo else []
          match (hi ++ lo).head? with
          | none => (s.block (.mailbox mask) 2).waitCancel
          | some m =>
            let s := s.modMyCore fun x => if m.low then { x with mboxLo := x.mboxLo.tail } else { x with mboxHi := x.mboxHi.tail }
            let s := s.bothLs n k (s.x b).toNat (leBytes 64 m.data.toNat)
            ((s.answer n k (mailWord m)).takeAnswer a).commitLast.retire)

/-- The header and record pages of a context's fault queue, as `fqrd` reaches them (R128, R335). -/
inductive FqStep where
  | empty
  | miss (m : LoadMiss)
  | record (head at' : Nat)
  deriving DecidableEq, Repr

/-- A translation of a page of the queue; `none` where it is good. -/
def State.fqReach (s : State) (ctx va : Nat) : State × Option LoadMiss :=
  let die := (s.route ctx va).home
  if (s.dieAt die).isFrozen ctx va then (s, some ⟨die, ctx, va, .absent 0 0 0, true⟩)
  else
    match s.xlate die ctx va .wr with
    | (s, .ok _ _ _ _) => (s, none)
    | (s, r) => (s, some ⟨die, ctx, va, r, false⟩)

/-- The step of `fqrd` at the queue's home (R335). -/
def State.fqStep (s : State) (ctx : Nat) : State × FqStep :=
  let base := (look s.io.fqBase ctx 0).toNat
  if base = 0 then (s, .empty)
  else
    match s.fqReach ctx base with
    | (s, some m) => (s, .miss m)
    | (s, none) =>
      let head := s.engNum ctx base 8
      let tail := s.engNum ctx (base + 8) 8
      let len := s.engNum ctx (base + 16) 8
      if !(16 ≤ len && len ≤ 2 ^ 20 && 2 ^ len.log2 == len) || tail = head then (s, .empty)
      else
        let at' := base + 64 + 64 * (head % len)
        match s.fqReach ctx at' with
        | (s, some m) => (s, .miss m)
        | (s, none) => (s, .record head at')

/-- FQRD (R128, R335): one record of the context's fault queue, in one step at its home. -/
def execFqrd (a b : XReg) (s : State) : Host.Outcome State Fault Refusal :=
  match (if s.phase = 0 then s.lsAligned (s.x b).toNat 64 64 true else none) with
  | some (cause, v) => .next (s.raise cause v)
  | none =>
    if followPhase ≤ s.phase then
      .next ((s.wx a (s.me.reply.getD 0)).modMe fun t => { t with reply := none }).retire
    else
      s.strongStep fun s =>
        .next (s.lead fun s =>
          let n := s.cur.core
          let k := s.cur.slot
          let ctx := s.me.cr.ctx.toNat
          match s.fqStep ctx with
          | (s, .miss m) => s.miss m
          | (s, .empty) => (((s.answer n k (BitVec.allOnes 64)).wx a (BitVec.allOnes 64)).modMe fun t => { t with reply := none }).retire
          | (s, .record head at') =>
            let word (i : Nat) : Nat := s.engNum ctx (at' + 8 * i) 8
            let bytes := (List.range 8).flatMap fun i => leBytes 8 (word i)
            let num := BitVec.ofNat 64 (word 7)
            let s := (s.bothLs n k (s.x b).toNat bytes).engStore ctx (look s.io.fqBase ctx 0).toNat ((head + 1) % 2 ^ 64) 2
            (((s.answer n k num).wx a num).modMe fun t => { t with reply := none }).retire)

end Sys2Proof.Machine
end

