-- ==== Sys2Proof/Machine/Supervisor.lean ====
section
/-! DEFINITION. The supervisor-only operations (R349, R350). -/

namespace Sys2Proof.Machine

/-- Keeps a record image for the phases of its instruction: it is copied at issue (R349). -/
def State.keepImage (s : State) (v : Nat) : State :=
  { s with cur := { s.cur with iss := { s.cur.iss with vs := [(.v 0, BitVec.ofNat 2048 v)] } } }

/-- The image that an operation has kept. -/
def State.kept (s : State) : Nat := ((s.cur.iss.vs.head?.map Prod.snd).getD 0).toNat

/-- A supervisor-only operation (R349): the image's checks and copy, a release of device scope, then its effect, once for a
pair. -/
def State.sup (s : State) (img : Option (XReg × Nat)) (act : State → State) : Host.Outcome State Fault Refusal :=
  let bad := match img with
    | some (c, n) => if s.phase = 0 then s.lsAligned (s.x c).toNat n n false else none
    | none => none
  match bad with
  | some (cause, v) => .next (s.raise cause v)
  | none =>
    let s := match img with
      | some (c, n) => if s.phase = 0 then s.keepImage (s.myCore.lsNum (s.x c).toNat n) else s
      | none => s
    s.withRelease .device false fun s =>
      .next (if s.me.mate.isSome && !s.me.primary then s else act s).retireCommit

/-- Bits of an operand. -/
def State.xbits (s : State) (r : XReg) (lo n : Nat) : Nat := bitsOf (s.x r).toNat lo n

/-- Bits [8:0] of an operand: a context. -/
def State.xctx (s : State) (r : XReg) : Nat := s.xbits r 0 9

/-- A value with only the named fields (low bit, width) of a register: the others are reserved. -/
def fieldsOf (l : List (Nat × Nat)) (v : Nat) : Nat := l.foldl (fun n (lo, k) => n + bitsOf v lo k * 2 ^ lo) 0

/-- SV_CTAB (R48, R350). -/
def execSvCtab (b c d : XReg) (s : State) : Host.Outcome State Fault Refusal :=
  s.sup none fun s =>
    s.modIo fun io =>
      { io with
        ctabBase := put io.ctabBase (s.xctx b) (BitVec.ofNat 64 (fieldsOf [(4, 53)] (s.x c).toNat))
        ctabLen := put io.ctabLen (s.xctx b) (s.x d) }

/-- Held inserts of a queue that may go on (R54). -/
def State.heldGo (s : State) (q : Nat) : State := if s.io.held.any (·.queue == q) then s.push [.heldInsertEntry q] else s

/-- A queue record from its image (R53): DEPTH, DROPS, LAST and NSEQ keep their values. -/
def queueOf (v : Nat) (old : Queue) : Queue :=
  { old with
    ntab := BitVec.ofNat 52 (bitsOf v 196 48 * 16), ptab := BitVec.ofNat 52 (bitsOf v 129 51 * 2)
    dmax := BitVec.ofNat 16 (bitsOf v 96 16), plog := BitVec.ofNat 5 (bitsOf v 64 5), v := bitsOf v 63 1 = 1
    en := bitsOf v 62 1 = 1, pair := bitsOf v 61 1 = 1, ctx := BitVec.ofNat 9 (bitsOf v 52 9)
    prio := BitVec.ofNat 8 (bitsOf v 44 8) }

/-- SV_QREC (R53, R350). -/
def execSvQrec (b c : XReg) (s : State) : Host.Outcome State Fault Refusal :=
  s.sup (some (c, 32)) fun s =>
    let q := s.xbits b 0 12
    (s.modQueue q (queueOf s.kept)).heldGo q

/-- Re-keys the records of a queue to a priority (R57). -/
def rekey (q prio : Nat) (l : List PoolEntry) : List PoolEntry :=
  l.foldl (fun r e =>
    let e := if e.cr.queue.toNat = q then
        { e with
          key := BitVec.ofNat 64 (prio * 2 ^ 56 + e.key.toNat % 2 ^ 56), cr := { e.cr with prio := BitVec.ofNat 8 prio } }
      else e
    poolInsert e r) []

/-- SV_QPRIO (R57, R350). -/
def execSvQprio (b c : XReg) (s : State) : Host.Outcome State Fault Refusal :=
  s.sup none fun s =>
    let q := s.xbits b 0 12
    let p := s.xbits c 0 8
    (s.modQueue q fun x => { x with prio := BitVec.ofNat 8 p }).modIo fun io => { io with pool := rekey q p io.pool }

/-- Nodes that a node index can name (R42). -/
def nodeMax : Nat := 2 ^ 20

/-- SV_GSTART (R52, R350): every node whose PRED is 0 is readied. -/
def execSvGstart (b c : XReg) (s : State) : Host.Outcome State Fault Refusal :=
  s.sup none fun s =>
    let q := s.xbits b 0 12
    let qr := s.queue q
    (List.range (min (s.x c).toNat nodeMax)).foldl (fun s i =>
      let e := qr.ntab.toNat + 32 * i
      let s := s.needPhys e 32
      if s.phys (e + 4) 4 != 0 then s
      else
        s.push [.counterOperation ⟨qr.ctx, BitVec.ofNat 32 (s.phys (e + 24) 4), .ready (BitVec.ofNat 32 (s.phys (e + 28) 4)),
          BitVec.ofNat 20 i, BitVec.ofNat 12 q⟩]) s

/-- The record that a counter's wait operation carries (R45). -/
def waitRecord (op : CtrOp) : Option Record :=
  match op.act with
  | .wait r => some r
  | _ => none

/-- The record that waits for a page: a resume record, or one whose counter's page is not resident. -/
def Waiter.record? : Waiter → Option Record
  | .record r => some r
  | .counter op => waitRecord op
  | _ => none

/-- The record that an event carries to its counter. -/
def evRecord : Ev → Option Record
  | .counterOperation op => waitRecord op
  | _ => none

/-- The launches that a context's records and units name, wherever they are (R69). -/
def State.launchesOf (s : State) (ctx : Nat) : List Nat :=
  let recs := s.io.pool.map PoolEntry.cr ++ s.io.held.map HeldIns.cr ++ s.io.waitRecs.map (fun w => w.2.2)
    ++ (s.io.nodeReady.map fun n => n.2.1) ++ (s.io.saved.map fun u => u.thread.cr)
    ++ (s.dies.flatMap fun (_, d) => d.waits.flatMap fun w => w.items.filterMap Waiter.record?)
    ++ (s.agenda ++ s.later).filterMap evRecord
    ++ (s.clusters.flatMap fun (_, c) => c.manger.map MangerRec.cr)
    ++ (s.cores.flatMap fun (_, c) => c.slots.map fun (_, t) => t.cr)
  (recs.filter fun r => r.ctx.toNat == ctx).foldl (fun l r => insertNat r.launch.toNat l) []

/-- Removes the pool records that satisfy a test; their queues' depths shrink with them. -/
def State.poolRemove (s : State) (p : PoolEntry → Bool) : State :=
  let gone := s.io.pool.filter p
  let s := s.modIo fun io => { io with pool := io.pool.filter fun e => !p e }
  gone.foldl (fun s e => s.modQueue e.cr.queue.toNat fun q => { q with depth := q.depth - 1 }) s

/-- Queues with held inserts, once each. -/
def State.heldQueues (s : State) : List Nat := s.io.held.foldl (fun l h => insertNat h.queue l) []

/-- A waiter is a record of a context. -/
def Waiter.recordOf (w : Waiter) (ctx : Nat) : Bool :=
  match w with
  | .record r => r.ctx.toNat == ctx
  | _ => false

/-- A unit that was saved exactly is gone with its record: its tentative updates are discarded (R69, R123). -/
def State.dropSaved (s : State) (p : Saved → Bool) : State :=
  (s.io.saved.filter p).foldl (fun s u => s.discardTask u.token) (s.modIo fun io => { io with saved := io.saved.filter fun u => !p u })

/-- A teardown begins (R69): inserts stop; CAN is set on the job counter of every launch; the context's records go, none of
them counted; its units are aborted, and its `wfw` threads leave their slots (R62). -/
def State.teardownStart (s : State) (ctx : Nat) : State :=
  let tops := (s.launchesOf ctx).foldl (fun l k => insertNat (s.topCtr ctx ctrFuel k) l) []
  let s := tops.foldl (fun s k => s.counterOp ctrFuel ⟨BitVec.ofNat 9 ctx, BitVec.ofNat 32 k, .cancel, noNode, 0⟩) s
  let mine (r : Record) : Bool := r.ctx.toNat == ctx
  let s := (s.poolRemove fun e => mine e.cr).dropSaved fun u => mine u.thread.cr
  let s := s.modIo fun io =>
    { io with
      teardown := if io.teardown.contains ctx then io.teardown else io.teardown ++ [ctx]
      held := io.held.filter fun h => !mine h.cr, nodeReady := io.nodeReady.filter fun n => !mine n.2.1
      waitRecs := io.waitRecs.filter fun w => w.1 != ctx
      collHeld := io.collHeld.filter fun m => m.ctx.toNat != ctx }
  let s : State :=
    { s with
      clusters := s.clusters.map fun (n, c) => (n, { c with manger := c.manger.filter fun m => !mine m.cr })
      dies := s.dies.map fun (n, d) =>
        (n, { d with waits := d.waits.map fun w => { w with items := w.items.filter fun x => !(Waiter.recordOf x ctx) } })
      cores := s.cores.map fun (n, c) => (n, { c with colls := c.colls.filter fun x => x.ctx.toNat != ctx }) }
  let busy := s.cores.flatMap fun (n, c) => (c.slots.filter fun (_, t) => mine t.cr).map fun (k, t) => (n, k, t.status)
  let s := busy.foldl (fun s (n, k, st) =>
    if st == .wfw then s.freeSlot n k else s.push [.taskAbort n k .teardown]) s
  s.push ((s.heldQueues.map .heldInsertEntry) ++ [.teardownComplete ctx])

/-- SV_TEARDOWN (R69, R350). -/
def execSvTeardown (b : XReg) (s : State) : Host.Outcome State Fault Refusal := s.sup none fun s => s.teardownStart (s.xctx b)

/-- A range home table entry without its reserved bits (R103). -/
def rhtMask (v : Nat) : BitVec 128 := BitVec.ofNat 128 (v / 2 ^ 25 * 2 ^ 25)

/-- SV_RHT (R103, R350): an entry field of 17 to 31 has no effect. -/
def execSvRht (b c : XReg) (s : State) : Host.Outcome State Fault Refusal :=
  s.sup (some (c, 16)) fun s =>
    let i := s.xbits b 16 5
    if 16 < i then s else s.modIo fun io => { io with rht := put io.rht (17 * s.xctx b + i) (rhtMask s.kept) }

/-- SV_DPH (R116, R350). -/
def execSvDph (b c : XReg) (s : State) : Host.Outcome State Fault Refusal :=
  s.sup none fun s =>
    s.modIo fun io =>
      { io with dph := put io.dph (s.xctx b) (BitVec.ofNat 64 (fieldsOf [(63, 1), (0, 32)] (s.x c).toNat)) }

/-- Drops the translations that the interfaces keep of a context, and the copies of its pages (R157, R162, R168). -/
def State.dropTables (s : State) (ctx : Nat) : State :=
  { s with
    io := { s.io with tcache := s.io.tcache.filter fun (k, _) => k / 2 ^ 45 != ctx }
    dies := s.dies.map fun (n, d) =>
      (n, { d with
        tcache := d.tcache.filter fun (k, _) => k / 2 ^ 45 != ctx
        replicas := d.replicas.filter fun r => r.ctx != ctx }) }

/-- SV_PTBR (R157, R350): written everywhere it is held. -/
def execSvPtbr (b c : XReg) (s : State) : Host.Outcome State Fault Refusal :=
  s.sup none fun s =>
    let ctx := s.xctx b
    let v := (s.x c).getLsbD 63
    (s.dropTables ctx).modIo fun io =>
      { io with
        teardown := if v && !(look io.ptbr ctx 0).getLsbD 63 then io.teardown.filter (· != ctx) else io.teardown
        ptbr := put io.ptbr ctx (BitVec.ofNat 64 (fieldsOf [(63, 1), (13, 39)] (s.x c).toNat)) }

/-- SV_PTW (R161, R350): an address that is no multiple of 16, or lies outside home memory, writes nothing. -/
def execSvPtw (b c : XReg) (s : State) : Host.Outcome State Fault Refusal :=
  s.sup (some (c, 16)) fun s =>
    let at' := (s.x b).toNat
    if at' % 16 != 0 || !physOk at' 16 then s else s.writePhysNum at' 16 s.kept

/-- Invalidates the translations of a page at every interface and at the I/O die (R162): those of the page that covers the
address; the copies of the page go too (R168). -/
def State.invalidate (s : State) (ctx va : Nat) : State :=
  let page := va % 2 ^ 57 / 4096
  let keep (m : SMap Kept) : SMap Kept := m.filter fun (k, e) =>
    !(k / 2 ^ 45 == ctx && k % 2 ^ 45 / 2 ^ (9 * e.lvl) == page / 2 ^ (9 * e.lvl))
  let now := match s.walk ctx va .none with
    | .ok _ _ _ lvl => lvl
    | _ => 0
  let all := s.io.tcache ++ s.dies.flatMap fun (_, d) => d.tcache
  let lvl := ((all.filter fun x => !(keep [x] == [x])).map fun x => x.2.lvl).foldl max now
  { s with
    io := { s.io with tcache := keep s.io.tcache }
    dies := s.dies.map fun (n, d) =>
      (n, { d with
        tcache := keep d.tcache
        replicas := d.replicas.filter fun r => !(r.ctx == ctx && r.page / 2 ^ (9 * lvl) == page / 2 ^ (9 * lvl)) }) }

/-- SV_TINV (R162, R350). -/
def execSvTinv (b c : XReg) (s : State) : Host.Outcome State Fault Refusal :=
  s.sup none fun s => s.invalidate (s.xctx b) (s.x c).toNat

/-- SV_PRES (R115, R166, R350). -/
def execSvPres (b c : XReg) (s : State) : Host.Outcome State Fault Refusal :=
  s.sup none fun s =>
    let va := (s.x c).toNat % 2 ^ 57
    (s.applyMarked (s.xctx b) va).releasePage (s.xctx b) va

/-- A waiting item of a page is refused (R48, R167, R323); a get that stood behind another page's row is served. -/
def State.refuseItem (s : State) (ctx va : Nat) (w : Waiter) : State :=
  match w with
  | .entry e _ at' =>
    if e.tent then s.push [.abortNoticeArrival e.task .refused]
    else
      let s := s.postUnit e (if at' then 6 else 3) 5 0 e.val
      if at' then s else s.answerSos e false
  | .thread n k | .pipe n k => s.push [.taskAbort n k .refused]
  | .record r => s.unitEnd r (.ended false)
  | .counter op => s.postUnit (repGranule op.ctx.toNat (s.ctrAt op.ctx.toNat op.index.toNat) 0) 3 5 0 0
  | .get src body =>
    let ref := BitVec.ofNat 64 (bodyNum body 0 8)
    let idx := getIndices body
    let rowb := bodyNum body 12 2
    let at' := (bodyNum body 16 8 + idx.headD 0 * rowb) % 2 ^ 57
    let page := va % 2 ^ 57 / 4096
    if bitsOf ref.toNat 32 9 != ctx || page < at' / 4096 || (at' + rowb - 1) / 4096 < page then s.serveGet src body
    else
      let s := s.sendTo src 3 4 (nackBody ref .cancelled s.io.partNo 0)
      s.serveRows src ref (bodyNum body 8 4) rowb (bodyNum body 16 8) idx.tail
  | .channel n i => s.modChan n i fun c => { c.fail with waits := none }
  | .post _ _ => s

/-- The page-refuse operation (R167): the page's list is released as failures. -/
def State.refusePage (s : State) (ctx va : Nat) : State :=
  let s := s.modIo fun io => { io with refused := io.refused ++ [(ctx, va % 2 ^ 57 / 4096)] }
  let (s, items) := s.takeWaits ctx va
  items.foldl (fun s (_, w) => s.refuseItem ctx va w) s

/-- SV_PREF (R167, R350). -/
def execSvPref (b c : XReg) (s : State) : Host.Outcome State Fault Refusal :=
  s.sup none fun s => s.refusePage (s.xctx b) ((s.x c).toNat % 2 ^ 57)

/-- The range home table entry that a migration of `pages` pages at `base` writes (R170): the lowest free one that no valid
entry before it shadows for the page; else the entry that routes the page, if its range is that page alone; `none` where
the table has no such place. -/
def State.migrSlot (s : State) (ctx base pages : Nat) : Option Nat :=
  let page := base / 4096
  let ent (i : Nat) : BitVec 128 := look s.io.rht (17 * ctx + i) 0
  let lo (i : Nat) : Nat := bitsOf (ent i).toNat 83 45
  let hi (i : Nat) : Nat := bitsOf (ent i).toNat 38 45
  let first := ((List.range 16).find? fun i => (ent i).getLsbD 25 && lo i ≤ page && page ≤ hi i).getD 16
  ((List.range first).find? fun i => !(ent i).getLsbD 25).or
    (if first < 16 && lo first == page && hi first + 1 == page + pages then some first else none)

/-- The tasks that hold tentative entries of a page in a yard (R170). -/
def State.tasksOn (s : State) (die ctx lo n : Nat) : List (BitVec 40) :=
  (((s.dieAt die).all.filter fun e => e.tent && e.ctx == ctx && lo ≤ e.va && e.va < lo + n).map Entry.task).eraseDups

/-- A migration starts (R170): where a table entry can name the new home, the page is to be frozen at the cycle's end. Otherwise
FAULTS + 1 is counted; so it is of a page that is not mapped (log 37). -/
def State.migrStart (s : State) (ctx va new cnt : Nat) : State :=
  let fail (s : State) : State :=
    s.push [.counterOperation ⟨BitVec.ofNat 9 ctx, BitVec.ofNat 32 cnt, .faults 1, noNode, 0⟩]
  match s.walk ctx va .none with
  | .ok _ _ _ lvl =>
    let size := 2 ^ (12 + 9 * lvl)
    let base := va / size * size
    let old := (s.route ctx va).home
    if old != new && (s.migrSlot ctx base (size / 4096)).isNone then fail s
    else s.modIo fun io => { io with migr := io.migr ++ [⟨ctx, base, size, old, new, cnt, false⟩] }
  | _ => fail s

/-- The freeze of a migration (R170, R183): the page is frozen at its old home, where an entry of its start's cycle has still
entered, and the tasks with tentative entries there are aborted, but for those whose prepare has succeeded. -/
def State.migrFreeze (s : State) (m : Migr) : State :=
  let s := s.modDie m.old fun d => { d with frozen := d.frozen ++ [(m.ctx, m.va / 4096, m.size / 4096)] }
  let s := s.modIo fun io => { io with migr := mapIf (· == m) (fun x => { x with begun := true }) io.migr }
  let tasks := s.tasksOn m.old m.ctx m.va m.size
  s.push ((tasks.filter fun t =>
      s.token (tokCore t) (tokSlot t) == t && (s.thr (tokCore t) (tokSlot t)).commit != .prepared).map (fun t =>
    .abortNoticeArrival t (.migration m.new m.ctx m.va)) ++ [.migrationComplete m.ctx m.va])

/-- SV_MIGR (R170, R350). -/
def execSvMigr (b c d : XReg) (s : State) : Host.Outcome State Fault Refusal :=
  s.sup none fun s => s.migrStart (s.xctx b) ((s.x c).toNat % 2 ^ 57) (s.xbits d 0 2) (s.xbits d 32 32)

/-- SV_HINT (R164, R350). -/
def execSvHint (b c d : XReg) (s : State) : Host.Outcome State Fault Refusal :=
  s.sup none fun s =>
    s.modIo fun io =>
      { io with
        hintBase := put io.hintBase (s.xctx b) (s.x c), hintCount := put io.hintCount (s.xctx b) (min (s.x d).toNat 256) }

/-- SV_FQ (R128, R217, R333, R350): a handler's address is a multiple of 4. -/
def execSvFq (b c d : XReg) (s : State) : Host.Outcome State Fault Refusal :=
  s.sup none fun s =>
    s.modIo fun io =>
      { io with
        fqBase := put io.fqBase (s.xctx b) (s.x c), thaWas := put io.thaWas (s.xctx b) (s.now, s.tha (s.xctx b))
        tha := put io.tha (s.xctx b) (BitVec.ofNat 57 (fieldsOf [(2, 55)] (s.x d).toNat)) }

/-- SV_SFQ (R165, R350). -/
def execSvSfq (b c : XReg) (s : State) : Host.Outcome State Fault Refusal :=
  s.sup none fun s => s.modIo fun io => { io with sfqCtx := BitVec.ofNat 9 (s.xctx b), sfqBase := s.x c }

/-- A flue pass from its descriptor (R171). -/
def flueOf (v : Nat) : Flue :=
  ⟨bitsOf v 0 9, bitsOf v (64 + 12) 45, bitsOf v 128 64, bitsOf v (192 + 6) 58 * 64, bitsOf v (256 + 32) 32, bitsOf v 256 32⟩

/-- SV_FLUE (R171, R350): a second start waits until the running pass has finished. -/
def execSvFlue (c : XReg) (s : State) : Host.Outcome State Fault Refusal :=
  s.sup (some (c, 64)) fun s =>
    let f := flueOf s.kept
    match s.io.flue with
    | none => s.modIo fun io => { io with flue := some f }
    | some _ => s.modIo fun io => { io with flueQ := io.flueQ ++ [f] }

/-- The partner of a core in a pair (R67): 24 rows away. -/
def partnerOf (n : Nat) : Nat := coreOf ((clusterOf n + 144) % 288) (posOf n)

/-- A record goes back into the pool with its original key, as an insert does (R54, R60, R64, R177); a second placement stays one
(R68). -/
def State.poolBack (s : State) (m : MangerRec) : State :=
  let first := if m.pair == some false then partnerOf m.core else m.core
  s.insertAs ⟨m.cr.queue.toNat, m.cr, some m.key, if m.second then some first else none⟩

/-- The mangers return the records that they hold for the cores that satisfy a test (R64, R177); a pair's record returns
once (R68). -/
def State.mangerReturn (s : State) (p : Nat → Bool) : State :=
  let gone := s.clusters.flatMap fun (_, c) => c.manger.filter fun m => p m.core
  let keys := gone.map MangerRec.key
  let s : State :=
    { s with
      clusters := s.clusters.map fun (n, c) =>
        (n, { c with manger := c.manger.filter fun m => !(p m.core || (m.pair.isSome && keys.contains m.key)) }) }
  let once := gone.foldl (fun (l : List MangerRec) m => if l.any (·.key == m.key) then l else l ++ [m]) []
  once.foldl State.poolBack s

/-- Bytes of a save area (R99). -/
def saveBytes : Nat := 25600

/-- A vacate begins (R64): nothing is placed in the rectangle; mangers return what they hold for it; its units are told to
leave, its `wfw` threads are freed. A reversed rectangle is ignored. -/
def State.vacateStart (s : State) (img save : Nat) : State :=
  let w0 := bitsOf img 0 64
  if !rectOk w0 then s
  else
    let v : Vacate :=
      ⟨BitVec.ofNat 64 (w0 % 2 ^ 24), bitsOf img 96 32, bitsOf img 64 32, BitVec.ofNat 9 (bitsOf img 128 9), bitsOf img 192 52,
        save, false, s.now⟩
    let s := s.modIo fun io => { io with vacates := io.vacates ++ [v] }
    let s := s.mangerReturn fun n => inRect w0 n
    let busy := (s.cores.filter fun (n, _) => inRect w0 n).flatMap fun (n, c) => c.slots.map fun (k, t) => (n, k, t.status)
    let s := busy.foldl (fun s (n, k, st) =>
      if st == .wfw then s.freeSlot n k
      else
        s.modThr n k fun t =>
          { t with leaveBy := some (s.now + v.grace), saveAt := save + saveBytes * (16 * n + k) }) s
    s.push [.rectangleEmpty v.word0]

/-- SV_VAC (R64, R350). -/
def execSvVac (c d : XReg) (s : State) : Host.Outcome State Fault Refusal :=
  s.sup (some (c, 32)) fun s => s.vacateStart s.kept (s.x d).toNat

/-- A rectangle is released (R64, R65): pending copy blocks for its cores resume. -/
def State.vacateEnd (s : State) (w0 : Nat) : State :=
  if !s.io.vacates.any fun v => v.word0.toNat == w0 then s
  else
    let s := s.modIo fun io => { io with vacates := io.vacates.filter fun v => v.word0.toNat != w0 }
    let s := (s.cores.filter fun (n, _) => !s.vacated n).foldl (fun s (n, c) =>
      c.slots.foldl (fun s (k, _) => s.modThr n k fun t => { t with leaveBy := none }) s) s
    let target (n : Nat) (c : Chan) : Nat := if c.kind = 4 then (dealAt n c.run c.wp).1 else packCore c.dst
    s.push (s.cores.flatMap fun (n, c) =>
      c.chan.filterMap fun (i, x) =>
        if x.pendBit && !s.vacated (target n x) then some (.copyPendResume n i) else none)

/-- SV_VREL (R64, R350). -/
def execSvVrel (b : XReg) (s : State) : Host.Outcome State Fault Refusal :=
  s.sup none fun s => s.vacateEnd ((s.x b).toNat % 2 ^ 24)

/-- SV_PDK (R176, R350): a set KILL stays set. -/
def execSvPdk (b c : XReg) (s : State) : Host.Outcome State Fault Refusal :=
  s.sup none fun s =>
    s.modIo fun io =>
      let n := s.xbits b 0 6
      let kill := bitsOf (look io.paddock n 0).toNat 62 1
      { io with paddock := put io.paddock n (BitVec.ofNat 64 (fieldsOf [(63, 1), (0, 24)] (s.x c).toNat + kill * 2 ^ 62)) }

/-- SV_KILL (R177, R350). -/
def execSvKill (b : XReg) (s : State) : Host.Outcome State Fault Refusal :=
  s.sup none fun s => s.push [.paddockKill (s.xbits b 0 6)]

/-- SV_PREL (R176, R350); with the paddock its clusters that were killed as paddocks of their own are released (log 64). -/
def execSvPrel (b : XReg) (s : State) : Host.Outcome State Fault Refusal :=
  s.sup none fun s =>
    let n := s.xbits b 0 6
    let mine (cl : Nat) : Bool := (List.range 8).any fun j => s.paddockOf (coreOf cl j) == some n
    s.modIo fun io =>
      { io with
        paddock := put io.paddock n (look io.paddock n 0 &&& ~~~(BitVec.ofNat 64 (2 ^ 62)))
        fenced := io.fenced.filter fun cl => !mine cl }

/-- Updates a core of the part; a number above 2,303 names none. -/
def State.modRealCore (s : State) (n : Nat) (f : Core → Core) : State := if n < coreCount then s.modCore n f else s

/-- SV_LSPR (R88, R350). -/
def execSvLspr (b c d : XReg) (s : State) : Host.Outcome State Fault Refusal :=
  s.sup none fun s =>
    s.modRealCore (s.xbits b 0 12) fun x =>
      { x with lspr := put x.lspr (s.xbits c 0 3) (BitVec.ofNat 64 (fieldsOf [(28, 36)] (s.x d).toNat)) }

/-- SV_SPB (R88, R350). -/
def execSvSpb (b c : XReg) (s : State) : Host.Outcome State Fault Refusal :=
  s.sup none fun s =>
    s.modRealCore (s.xbits b 0 12) fun x => { x with spbase := BitVec.ofNat 18 (fieldsOf [(12, 6)] (s.x c).toNat) }

/-- SV_HTAB (R89, R350). -/
def execSvHtab (b c d : XReg) (s : State) : Host.Outcome State Fault Refusal :=
  s.sup none fun s =>
    let cl := s.xbits b 0 9
    if 288 ≤ cl then s
    else
      s.modCluster cl fun x =>
        { x with
          htab := put x.htab (s.xbits c 0 9) (BitVec.ofNat 64 (fieldsOf [(16, 48)] (s.x d).toNat)), gave := del x.gave (s.xbits c 0 9) }

/-- SV_YOV (R110, R350). -/
def execSvYov (b c d : XReg) (s : State) : Host.Outcome State Fault Refusal :=
  s.sup none fun s =>
    s.modDie (s.xbits b 0 2) fun x =>
      { x with
        yovb := BitVec.ofNat 64 (fieldsOf [(17, 35)] (s.x c).toNat), yovl := BitVec.ofNat 16 (s.xbits d 0 16) }

end Sys2Proof.Machine
end

