-- ==== Sys2Proof/Machine/Runs.lean ====
section
/-! DEFINITION. What comes about in the runs of the merge tree (R104 to R116, R129) and in the windows of paired units
(R68, R179, R180). -/

namespace Sys2Proof.Machine

/-- STALL_HIGHWATER_MOVEOUT (R107). -/
def execStallHighwaterMoveout (s : State) : Host.Outcome State Fault Refusal :=
  match s.ev with
  | .stallHighwaterMoveout n => .next (s.moveStallAll n).1
  | _ => .next s

/-- STALL_AGE_MOVEOUT (R107). -/
def execStallAgeMoveout (s : State) : Host.Outcome State Fault Refusal :=
  match s.ev with
  | .stallAgeMoveout n => .next (s.moveStallAll n).1
  | _ => .next s

/-- SHED_AGE_MOVEOUT (R108). -/
def execShedAgeMoveout (s : State) : Host.Outcome State Fault Refusal :=
  match s.ev with
  | .shedAgeMoveout cl key => .next (s.moveShedKey cl key).1
  | _ => .next s

/-- SHED_FILL_MOVEOUT (R108): chains move out in ascending key order until the shed holds 4,096 entries or fewer. -/
def execShedFillMoveout (s : State) : Host.Outcome State Fault Refusal :=
  match s.ev with
  | .shedFillMoveout cl =>
    if (s.clusterAt cl).shed.length < 6144 then .next s
    else
      .next ((keysOf (s.clusterAt cl).shed).foldl (fun s key =>
        if (s.clusterAt cl).shed.length ≤ 4096 then s else (s.moveShedKey cl key).1) s)
  | _ => .next s

/-- SHED_MOVE_RETRY (R106). -/
def execShedMoveRetry (s : State) : Host.Outcome State Fault Refusal :=
  match s.ev with
  | .shedMoveRetry cl key =>
    .next (if (s.clusterAt cl).blocked.contains key.toNat then (s.moveShedKey cl key).1 else s)
  | _ => .next s

/-- YARD_ENTRY (R104). -/
def execYardEntry (s : State) : Host.Outcome State Fault Refusal :=
  match s.ev with
  | .yardEntry die e acc => .next (s.yardTake die e acc)
  | _ => .next s

/-- MOVED_REROUTE (R104): routed again under the current table. -/
def execMovedReroute (s : State) : Host.Outcome State Fault Refusal :=
  match s.ev with
  | .movedReroute e acc => .next (s.push [.yardEntry (s.route e.ctx e.va).home e acc])
  | _ => .next s

/-- YARD_FILL_APPLY (R109): committed chains are applied in ascending key order until the yard holds 262,144 or fewer. -/
def execYardFillApply (s : State) : Host.Outcome State Fault Refusal :=
  match s.ev with
  | .yardFillApply die =>
    if (s.dieAt die).count < 393216 then .next s
    else
      .next ((keysOf (s.dieAt die).yard).foldl (fun s key =>
        if (s.dieAt die).count ≤ 262144 then s else s.applyKey die key fun _ => true) s).retryMoves
  | _ => .next s

/-- The highest keys of a yard whose whole chains and deferred entries fit in a block (R110). -/
def spillKeys (d : Die) : Nat → List Word → List Word
  | _, [] => []
  | room, key :: l =>
    let n := ((d.yard ++ d.dset).filter fun e => e.key == key).length
    if n ≤ room then key :: spillKeys d (room - n) l else []

/-- YARD_SPILL (R110): one sorted block of the highest keys; a chain that bears a read mark stays (R118). -/
def execYardSpill (s : State) : Host.Outcome State Fault Refusal :=
  match s.ev with
  | .yardSpill die =>
    let d := s.dieAt die
    if d.count < 491520 || !d.blockFree then .next s
    else
      let keys := spillKeys d 4096 ((keysOf (d.yard ++ d.dset)).reverse.filter fun k => !s.yardMarked k)
      if keys.isEmpty then .next s
      else
        let out (e : Entry) : Bool := keys.contains e.key
        let block := (d.yard.filter out ++ d.dset.filter out).foldl (fun l e => insertEntry e l) []
        let s := s.modDie die fun d =>
          { d with
            yard := d.yard.filter fun e => !out e, dset := d.dset.filter fun e => !out e, blocks := d.blocks ++ [block] }
        .next ((s.yardFill die).retryMoves)
  | _ => .next s

/-- YARD_REFILL (R110): the most recently written block comes back; its entries of a key stand before those in the yard. -/
def execYardRefill (s : State) : Host.Outcome State Fault Refusal :=
  match s.ev with
  | .yardRefill die =>
    let d := s.dieAt die
    match d.blocks.getLast? with
    | none => .next s
    | some b =>
      if 262144 ≤ d.count then .next s
      else
        let s := s.modDie die fun d => { d with blocks := d.blocks.dropLast }
        let s := (b.filter fun e => e.op.isFx).foldl (fun s e =>
          let (set, bad) := dsetAdd (s.dieAt die).dset e
          (s.modDie die fun d => { d with dset := set }).postRange? e bad 5) s
        .next ((keysOf (b.filter fun e => !e.op.isFx)).foldl (fun s key =>
          let old := (chain b key).filter fun e => !e.op.isFx
          let all := old ++ chain (s.dieAt die).yard key
          let s := s.modDie die fun d => { d with yard := setChain d.yard key all }
          if 4 < all.length then s.applyKey die key fun _ => true else s) s)
  | _ => .next s

/-- While a yard is full it applies committed entries of every class in ascending key order (R110). -/
def State.fullApply (s : State) (die : Nat) (key : Word) : State :=
  let s := s.applyKey die key fun _ => true
  let due := ((s.dieAt die).blocks.flatten ++ (s.dieAt die).dset).filter fun e =>
    e.key == key && e.op.isFx && !e.tent && !e.mark && !s.yardMarked key
  let s := if due.isEmpty then s else s.modDie die fun d => { d with fxapply := true }
  due.foldl (fun s e => s.applyFx die e) s

/-- YARD_FULL (R110): FULL is set, and while it stands committed entries are applied, those that come meanwhile with them. -/
def execYardFull (s : State) : Host.Outcome State Fault Refusal :=
  match s.ev with
  | .yardFull die =>
    let d := s.dieAt die
    if (d.count < 520192 || d.blockFree) && !(d.full && 491520 ≤ d.count) then .next s
    else
      let s := s.modDie die fun d => { d with full := true }
      .next ((keysOf (s.dieAt die).all).foldl (fun s key =>
        if (s.dieAt die).count < 491520 then s else s.fullApply die key) s |>.push [.yardFullClear die])
  | _ => .next s

/-- YARD_FULL_CLEAR (R110): the sheds move on. -/
def execYardFullClear (s : State) : Host.Outcome State Fault Refusal :=
  match s.ev with
  | .yardFullClear die =>
    if (s.dieAt die).count < 491520 then .next ((s.modDie die fun d => { d with full := false }).retryMoves) else .next s
  | _ => .next s

/-- An entry of the deferred set or of a block is marked: its apply point has come (R115). -/
def State.markFx (s : State) (die : Nat) (e : Entry) : State :=
  let f (l : List Entry) : List Entry := mapIf (· == e) (fun x => { x with mark := true }) l
  s.modDie die fun d => { d with dset := f d.dset, blocks := d.blocks.map f }

/-- DEFERRED_PHASE_CLOSE (R116): one pass in ascending key order; the blocks' entries of a key come first. One whose key bears a
read mark keeps its place, marked, and is applied once the mark has gone (R118). -/
def execDeferredPhaseClose (s : State) : Host.Outcome State Fault Refusal :=
  match s.ev with
  | .deferredPhaseClose die ctx =>
    let d := s.dieAt die
    let due := (d.blocks.flatten ++ d.dset).filter fun e => e.op.isFx && !e.tent && !e.mark && e.ctx == ctx
    let sorted := due.foldl (fun l e => insertEntry e l) []
    .next (sorted.foldl (fun s e => if s.yardMarked e.key then s.markFx die e else s.applyFx die e) s)
  | _ => .next s

/-- The launch that a core keeps for a task's serial (R129): the newest unit of the slot whose first serial is not after
it. -/
def launchOf (c : Core) (slot : Nat) (serial : BitVec 24) : Option Nat :=
  (c.hist.find? fun h => h.1 == slot && (serial - BitVec.ofNat 24 h.2.2).toNat < 2 ^ 23).map fun h => h.2.1

/-- MERGE_FAULT_RECORD_ARRIVAL (R129): MERGE_OP pends for a live task; otherwise the launch's FAULTS gains 1. -/
def execMergeFaultRecordArrival (s : State) : Host.Outcome State Fault Refusal :=
  match s.ev with
  | .mergeFaultRecordArrival task launch num ctx =>
    if task == noTask then .next s
    else
      let n := tokCore task
      let k := tokSlot task
      if s.taskLive task then
        .next (s.modThr n k fun t =>
          { t with mergePend := some (match t.mergePend with
            | some m => min m num.toNat
            | none => num.toNat) })
      else if launch != 0xFFFFFFFF then .next (s.launchFaults (BitVec.ofNat 9 ctx) launch 1)
      else
        match launchOf (s.coreAt n) k (tokSerial task) with
        | some l => .next (s.launchFaults (BitVec.ofNat 9 ctx) (BitVec.ofNat 32 l) 1)
        | none => .next s
  | _ => .next s

/-- The hash of a window (R179): bytes 0 to 7 of SHA-512 over its messages, each behind its length. -/
def windowHash (w : List WinMsg) : Word :=
  BitVec.ofNat 64 (leNat ((Sha.sha512 (w.flatMap fun m => leBytes 2 m.bytes.length ++ m.bytes)).take 8))

/-- A pairing mismatch (R68, R180): both tasks abort and their windows go. The record is placed once more, ahead of every
other; a second mismatch ends the unit and is reported. -/
def State.mismatch (s : State) (n k : Nat) (hash : Word) : State :=
  let t := s.thr n k
  let die := dieOf n
  let tok := s.token n k
  let s := (s.lifeAdd (lifePair die) 1).push [.taskAbort n k .pairing]
  if !t.mismatched then
    s.insertAs ⟨t.resume.queue.toNat, t.resume, none, some (coreOf ((clusterOf n + 1) % 288) (posOf n))⟩
  else
    let s := s.tick
    ((s.unitEnd t.resume (.ended false)).lifeAdd (lifePairRep die) 1).postSup
      (supWord 2 0 0 0 die tok) (Config.recordField (s.fresh - 1)) hash.toNat

/-- WINDOW_HASH_COMPARE (R179, R180): the primary's window is forwarded where the hashes are equal; the partner's is
discarded. A window with entries waits until the shed accepts them (R107), and a kill of the cycle comes before it (R183). -/
def execWindowHashCompare (s : State) : Host.Outcome State Fault Refusal :=
  match s.ev with
  | .windowHashCompare n k =>
    match s.mateAt n k with
    | none => .next s
    | some (m, j) =>
      match (s.thr n k).closed, (s.thr m j).closed with
      | a :: rest, b :: rest' =>
        if s.inTurns || a.any (fun m => !m.entries.isEmpty) && !s.shedOpen (clusterOf n) then
          .next (s.defer (.windowHashCompare n k))
        else if windowHash a == windowHash b then
          let s := (s.modThr n k fun t => { t with closed := rest }).modThr m j fun t => { t with closed := rest' }
          let s := a.foldl (fun s x => s.deliver n x) s
          .next (if rest.isEmpty || rest'.isEmpty then s else s.push [.windowHashCompare n k])
        else
          let clear (s : State) (a b : Nat) : State := s.modThr a b fun t => { t with closed := [], window := [] }
          .next ((clear (clear s n k) m j).mismatch n k (windowHash a))
      | _, _ => .next s
  | _ => .next s

end Sys2Proof.Machine
end

