-- ==== Sys2Proof/Machine/Recovery.lean ====
section
/-! DEFINITION. The fault service (R165), migration (R170), the flue (R171 to R173), sector reads and scrubbing (R174, R175),
paddock kills (R177) and the end of a teardown (R69). -/

namespace Sys2Proof.Machine

/-- A memory without the bytes of a range. -/
def Memory.clear (m : List Host.Cell) (lo n : Nat) : List Host.Cell := m.filter fun c => c.1 < lo || lo + n ≤ c.1

/-- The listed bytes of a range, moved to another place. -/
def Memory.slice (m : List Host.Cell) (lo n to' : Nat) : List Host.Cell :=
  (m.filter fun c => lo ≤ c.1 && c.1 < lo + n).map fun c => (c.1 - lo + to', c.2)

/-- A memory whose range takes the bytes given. -/
def Memory.lay (m : List Host.Cell) (lo n : Nat) (cells : List Host.Cell) : List Host.Cell :=
  cells.foldl (fun m c => Memory.write m c.1 c.2) (Memory.clear m lo n)

/-- Fills a range of home memory, all of it unpoisoned (R165, R170). -/
def State.fillPhys (s : State) (pa n : Nat) (cells : List Host.Cell) : State :=
  if physOk pa n then
    { s with
      mem := Memory.lay s.mem pa n cells
      poison := s.poison.filter fun g => g < pa / 4 || (pa + n) / 4 ≤ g
      hbmErr := s.hbmErr.filter fun (k, _) => k < pa / 64 || (pa + n) / 64 ≤ k }
  else s.stop (.noMemory pa)

/-- Allocates `n` bytes, a power of two, in a die's home memory: downwards from its top (log 14). -/
def State.allocPhys (s : State) (die n : Nat) : State × Nat :=
  let used := ((s.dieAt die).frame + n - 1) / n * n + n
  (s.modDie die fun d => { d with frame := used }, (die + 1) * Config.dieBytes - used)

/-- An entry of a new node below an absent one (R165): its bits [127:1], PPN advanced to the entry's place in the region when
it has a backing address. -/
def belowAbsent (v : BitVec 128) (pages : Nat) : BitVec 128 :=
  let n := v.toNat / 2 * 2
  if v.getLsbD 1 then
    BitVec.ofNat 128 (n - bitsOf n 12 40 * 2 ^ 12 + (bitsOf n 12 40 + pages) % 2 ^ 40 * 2 ^ 12)
  else BitVec.ofNat 128 n

/-- The nodes below an absent entry down to level 0 (R165); the result is the address of the level 0 entry. `pages` is the
place of the current region in that of the absent entry, in pages. -/
def State.buildPath (s : State) (die va : Nat) (v : BitVec 128) : Nat → Nat → Nat → State × Nat
  | 0, _, at' => (s, at')
  | l + 1, pages, at' =>
    let (s, node) := s.allocPhys die 8192
    let step := 2 ^ (9 * l)
    let cells := (List.range 512).flatMap fun i =>
      ((leBytes 16 (belowAbsent v (pages + i * step)).toNat).zipIdx).map fun (b, j) => (node + 16 * i + j, b)
    let s := s.fillPhys node 8192 cells
    let s := s.writePhysNum at' 16 (1 + node / 4096 * 2 ^ 12)
    let i := bitsOf va (12 + 9 * l) 9
    s.buildPath die va v l (pages + i * step) (node + 16 * i)

/-- The leaf that the fault service writes (R165). -/
def faultLeaf (v : BitVec 128) (frame ord wexp : Nat) : Nat :=
  let keep := fieldsOf [(2, 3), (101, 4), (105, 3), (108, 12)] v.toNat
  1 + keep + frame / 4096 * 2 ^ 12 + ord * 2 ^ 99 + wexp * 2 ^ 120

/-- The service of a page that is not resident (R165): a frame filled with zeros or from host memory, the nodes of its path,
and its leaf. -/
def State.serveFault (s : State) (ctx va lvl : Nat) (v : BitVec 128) (at' : Nat) : State :=
  let h := s.hint ctx va
  let s := s.hintPass ctx
  let d := (look s.io.rht (17 * ctx + 16) 0).toNat
  let (die, ord, wexp) := match h with
    | some (w2, _) =>
      (if bitsOf w2 51 1 = 1 then bitsOf w2 52 2 else (s.route ctx va).home, bitsOf w2 54 2, bitsOf w2 56 8)
    | none => ((s.route ctx va).home, bitsOf d 26 2, bitsOf d 30 8)
  let (s, frame) := s.allocPhys die 4096
  let o := va % 2 ^ (12 + 9 * lvl) / 4096 * 4096
  let leaf := faultLeaf v frame ord wexp
  let host := bitsOf v.toNat 12 40 * 4096 + o
  let s := match s.pageKey (BitVec.ofNat 128 leaf) with
    | none => s.fillPhys frame 4096 (if v.getLsbD 1 then Memory.slice s.hostMem host 4096 frame else [])
    | some _ =>
      (s.fillPhys frame 4096 []).writeLeaf (BitVec.ofNat 128 leaf) frame
        (if v.getLsbD 1 then Memory.readN s.hostMem host 4096 else List.replicate 4096 0)
  let (s, place) := s.buildPath die va v lvl 0 at'
  s.writePhysNum place 16 leaf

/-- PAGE_FAULT_SERVICE (R165, R167): a page that is not resident is made resident; a refused access is refused. A page that
another fault has made resident meanwhile is released. -/
def execPageFaultService (s : State) : Host.Outcome State Fault Refusal :=
  match s.ev with
  | .pageFaultService _ ctx va cause =>
    if cause = 5 || cause = 6 then .next s
    else if cause != 1 then .next (s.refusePage ctx va)
    else
      let s := s.walkPass ctx va
      let s := match s.walk ctx va .none with
        | .absent lvl v at' => s.serveFault ctx va lvl v at'
        | _ => s
      .next ((s.applyMarked ctx va).releasePage ctx va)
  | _ => .next s

/-- Entries of a range of addresses of a context. -/
def inPages (ctx lo n : Nat) (e : Entry) : Bool := e.ctx == ctx && lo ≤ e.va && e.va < lo + n

/-- Drains the committed immediate and insert entries of a range in a yard (R109, R170, R172). -/
def State.drainPages (s : State) (die ctx lo n : Nat) : State :=
  (keysOf ((s.dieAt die).all.filter fun e => !e.op.isFx && inPages ctx lo n e)).foldl (fun s key =>
    s.applyKey die key fun _ => true) s

/-- The committed deferred entries of a range, taken out of a yard unapplied (R170). -/
def State.takeFx (s : State) (die ctx lo n : Nat) : State × List Entry :=
  let out (e : Entry) : Bool := e.op.isFx && !e.tent && inPages ctx lo n e
  let d := s.dieAt die
  (s.modDie die fun d =>
    { d with
      dset := d.dset.filter fun e => !out e
      blocks := (d.blocks.map (·.filter fun e => !out e)).filter (!·.isEmpty) },
    (d.blocks.flatten ++ d.dset).filter out)

/-- Copies a page into a new frame, with its poison (R170); every sector is read first, and the data of a page with a key slot is
encrypted again, with the tweak of its new place (R37). -/
def State.copyPage (s : State) (leaf : BitVec 128) (old new n : Nat) : State :=
  let bad := s.hbmErr.filter fun (k, _) => old / 64 ≤ k && k < (old + n) / 64
  let s := bad.foldl (fun s (k, _) => (s.sectorRead k .scrub).1) s
  let psn := (s.poison.filter fun g => old / 4 ≤ g && g < (old + n) / 4).map fun g => g - old / 4 + new / 4
  let s := match s.pageKey leaf with
    | none => s.fillPhys new n (Memory.slice s.mem old n new)
    | some _ => (s.fillPhys new n []).writeLeaf leaf new (s.readLeaf leaf old n)
  psn.foldl (fun s g => s.setPoison (4 * g) true) s

/-- The range home table entry that names a page's new home (R170). -/
def moveEntry (r : Route) (lo n new : Nat) : BitVec 128 :=
  BitVec.ofNat 128
    (lo / 4096 * 2 ^ 83 + ((lo + n) / 4096 - 1) * 2 ^ 38 + r.wexp.toNat * 2 ^ 30 + new * 2 ^ 28 + r.ord * 2 ^ 26 + 2 ^ 25)

/-- Releases the waiters of every 4 KiB page of a range (R166, R170). -/
def State.releaseRange (s : State) (ctx lo n : Nat) : State :=
  let waits := (s.dies.flatMap fun (_, d) => d.waits).filter fun w =>
    w.ctx == ctx && lo / 4096 ≤ w.page && w.page < (lo + n) / 4096
  (waits.foldl (fun l w => insertNat w.page l) []).foldl (fun s p => s.releasePage ctx (4096 * p)) s

/-- The steps 2 to 5 of a migration (R170). -/
def State.migrate (s : State) (m : Migr) : State :=
  let r := s.route m.ctx m.va
  let s := s.drainPages m.old m.ctx m.va m.size
  let s := if m.old = m.new then s else
    let (s, fx) := s.takeFx m.old m.ctx m.va m.size
    let s := match s.walk m.ctx m.va .none with
      | .ok pa leaf at' _ =>
        let (s, frame) := s.allocPhys m.new m.size
        let s := s.copyPage leaf pa frame m.size
        let e := (s.pte at').toNat
        s.writePhysNum at' 16 (e - bitsOf e 12 40 * 2 ^ 12 + frame / 4096 * 2 ^ 12)
      | _ => s
    let s := fx.foldl (fun s e =>
      let (set, bad) := dsetAdd (s.dieAt m.new).dset e
      (s.modDie m.new fun d => { d with dset := set }).postRange? e bad 4) s
    let s := s.invalidate m.ctx m.va
    match s.migrSlot m.ctx m.va (m.size / 4096) with
    | some i => s.modIo fun io => { io with rht := put io.rht (17 * m.ctx + i) (moveEntry r m.va m.size m.new) }
    | none => s
  let d := s.dieAt m.old
  let mine (h : Entry × Nat) : Bool := inPages m.ctx m.va m.size h.1
  let s := s.modDie m.old fun d =>
    { d with
      frozen := d.frozen.filter (· != (m.ctx, m.va / 4096, m.size / 4096)), heldAt := d.heldAt.filter fun h => !mine h }
  let s := s.modIo fun io => { io with migr := io.migr.filter (· != m) }
  -- each held access is answered MOVED and routed again, in held order
  let s := (d.heldAt.filter mine).foldl (fun s h => s.yardTake (s.route h.1.ctx h.1.va).home h.1 h.2) s
  (s.releaseRange m.ctx m.va m.size).push [.counterOperation ⟨BitVec.ofNat 9 m.ctx, BitVec.ofNat 32 m.cnt, .counted 1 0, noNode, 0⟩]

/-- MIGRATION_COMPLETE (R170): a frozen page waits for the flips of the tasks that had prepared, and for the loads of the page. -/
def execMigrationComplete (s : State) : Host.Outcome State Fault Refusal :=
  match s.ev with
  | .migrationComplete ctx va =>
    match s.io.migr.find? fun m => m.ctx == ctx && m.va == va with
    | none => .next s
    | some m =>
      let here := (s.dieAt m.old).all.filter (inPages ctx m.va m.size)
      if !m.begun || here.any (fun e => e.tent || s.yardMarked e.key) then .next s else .next (s.migrate m)
  | _ => .next s

/-- The pages that one visit of the flue covers: one, or the parts of a large page in the range (R172). -/
def flueParts (f : Flue) (lvl : Nat) : Nat :=
  let n := 2 ^ (9 * lvl)
  min f.left (n - f.page % n)

/-- Bits of a poison map of 1,024 granules (R173). -/
def State.poisonMap (s : State) (pa : Nat) : Nat :=
  (List.range 1024).foldl (fun n i => if s.poisoned (pa + 4 * i) then n + 2 ^ i else n) 0

/-- One output record (R172, R173), written to host memory. -/
def State.flueRecord (s : State) (f : Flue) (va pa : Nat) (leaf : BitVec 128) (dest : Nat) : State :=
  let s := (List.range 64).foldl (fun s i => (s.sectorRead (pa / 64 + i) .flue).1) s
  let data := s.readLeaf leaf pa 4096
  let out := match s.pageKey leaf with
    | none => data
    | some k => Crypto.xtsUnit k va data
  let head := leBytes 8 va ++ leBytes 8 (f.pass * 2 ^ 32 + f.ctx) ++ leBytes 8 (bitsOf leaf.toNat 64 64)
    ++ leBytes 8 (fieldsOf [(0, 12), (52, 12)] leaf.toNat) ++ List.replicate 32 0 ++ leBytes 128 (s.poisonMap pa)
  { s with hostMem := Memory.writeN s.hostMem dest (head ++ out) }

/-- Bytes of an output record (R173). -/
def flueBytes : Nat := 4288

/-- FLUE_PAGE_VISIT (R172, R173): the next page of the pass; a dirty one has D cleared, its chains drained, and its record
written. A large page is visited as its 4 KiB parts, under its one D bit. It is the first event of its cycle, so that an entry of
the cycle sets D after it (R183). -/
def execFluePageVisit (s : State) : Host.Outcome State Fault Refusal :=
  match s.ev with
  | .fluePageVisit =>
    match s.io.flue with
    | none => .next s
    | some f =>
      if f.left = 0 then .next (s.push [.fluePassEnd])
      else
        let va := f.page * 4096
        let go (s : State) (n dest : Nat) : State :=
          s.modIo fun io => { io with flue := some { f with page := f.page + n, left := f.left - n, dest := dest } }
        match s.xlate ioDie f.ctx va .none with
        | (s, .ok pa _ at' lvl) =>
          let n := flueParts f lvl
          let leaf := s.pte at'
          if !leaf.getLsbD 5 then .next (go s n f.dest)
          else
            let clean := leaf &&& ~~~(BitVec.ofNat 128 32)
            let s := s.writePhysNum at' 16 clean.toNat
            let s := s.drainPages (s.route f.ctx va).home f.ctx va (4096 * n)
            let s := (List.range n).foldl (fun s i =>
              s.flueRecord f (va + 4096 * i) (pa + 4096 * i) clean (f.dest + flueBytes * i)) s
            .next (go s n (f.dest + flueBytes * n))
        | (s, .refused c lvl v) =>
          let s := if c = 5 || c = 6 then s.postRefused c 6 lvl (s.route f.ctx va).home noTask f.ctx va v else s
          .next (go s 1 f.dest)
        | (s, .absent _ _ _) => .next (go s 1 f.dest)
  | _ => .next s

/-- FLUE_PASS_END (R171): the counter, and the next pass that waits. -/
def execFluePassEnd (s : State) : Host.Outcome State Fault Refusal :=
  match s.ev with
  | .fluePassEnd =>
    match s.io.flue with
    | none => .next s
    | some f =>
      .next ((s.modIo fun io =>
        { io with flue := io.flueQ.head?, flueQ := io.flueQ.tail, flueDone := io.flueDone + 1 }).push
          [.counterOperation ⟨BitVec.ofNat 9 f.ctx, BitVec.ofNat 32 f.cnt, .counted 1 0, noNode, 0⟩])
  | _ => .next s

/-- SECTOR_READ (R174, R175). -/
def execSectorRead (s : State) : Host.Outcome State Fault Refusal :=
  match s.ev with
  | .sectorRead n c => .next (s.sectorRead n c).1
  | _ => .next s

/-- Sectors of the addressable memory. -/
def sectorCount : Nat := Config.memBytes / 64

/-- CRC of a parity sector's bytes with its place (R174), of a difference: that of the place is zero. -/
def parityCrc (d : BitVec 544) : Nat := crc16 0x8BB7 0 (leBytes 64 (bitsOf d.toNat 0 512) ++ leBytes 6 0)

/-- A parity sector that fails its CRC alone is rebuilt from its 16 sectors and their masks (R174). -/
def State.parityCheck (s : State) (sector : Nat) : State :=
  let p := paritySector sector
  match find? s.hbmErr p with
  | none => s
  | some d =>
    let group := (List.range 16).map fun i => look s.hbmErr (sector / 16 * 16 + i) 0
    if parityCrc d = bitsOf d.toNat 512 16 || group.any errFails then s
    else
      let sum := group.foldl (fun x y => x ^^^ y) 0 &&& ~~~(BitVec.ofNat 544 ((2 ^ 16 - 1) * 2 ^ 512))
      let new := sum ||| BitVec.ofNat 544 (parityCrc sum * 2 ^ 512)
      { s with hbmErr := if new == 0 then del s.hbmErr p else put s.hbmErr p new }

/-- SCRUB (R174): the next sector in turn, and after the last of a group its parity sector. -/
def execScrub (s : State) : Host.Outcome State Fault Refusal :=
  match s.ev with
  | .scrub =>
    let n := s.io.scrubAt % sectorCount
    let s := (s.sectorRead n .scrub).1.modIo fun io => { io with scrubAt := io.scrubAt + 1 }
    .next (if n % 16 = 15 then s.parityCheck n else s)
  | _ => .next s

/-- The cores that a kill covers: those of a paddock, or of a cluster that acts as one (R175 to R177). -/
def State.killCovers (s : State) (n core : Nat) : Bool :=
  if n < 64 then s.paddockOf core == some n else clusterOf core == n - 64

/-- A channel of zeros (R177). -/
def Chan.zero : Chan := { Chan.reset with dpat := 0, run := 0 }

/-- A core after a kill (R177): everything zeroed, STALLHW and STALLAGE at their reset values (R85), and the scale register at its
own (R313); its cycle count begun anew (R246). What numbers its tasks goes on (log 64). -/
def Core.killed (c : Core) (now : Nat) : Core :=
  { Core.reset with
    spbase := 0, serial := c.serial, epoch := now, chan := (List.range 4).map fun i => (i, Chan.zero) }

/-- PADDOCK_KILL (R177): fence, end of the units, discard, reset; the report follows. Of what meets it in its cycle an opening or a
completed exchange comes before it (R272, R297) and a window compare after it (R183). -/
def execPaddockKill (s : State) : Host.Outcome State Fault Refusal :=
  match s.ev with
  | .paddockKill n =>
    if s.inTurns then .next { s with later := s.ev :: s.later } else
    let inside : Nat → Bool := s.killCovers n
    let s := if n < 64 then s.modIo fun io =>
        { io with paddock := put io.paddock n (look io.paddock n 0 ||| BitVec.ofNat 64 (2 ^ 62)) }
      else s.modIo fun io => { io with fenced := insertNat (n - 64) io.fenced }
    let s := s.mangerReturn inside
    let cores := s.cores.filter fun (c, _) => inside c
    let s := cores.foldl (fun s (c, x) => x.slots.foldl (fun s (k, t) =>
      if t.status == .running then s.abort c k .kill else s.freeSlot c k) s) s
    let count := (cores.map fun (c, _) => ((s.coreAt c).stall.filter fun e => !e.tent).length).sum
    let colls := (s.cores.filter fun (c, _) => inside c).flatMap fun (c, x) => x.colls.map fun y => (c, y.ctx, y.id)
    let s := s.modIo fun io => { io with collDead := io.collDead ++ colls }
    let s := cores.foldl (fun s (c, _) => s.modCore c fun x => x.killed s.now) s
    let s : State :=
      { s with
        clusters := s.clusters.map fun (cl, x) =>
          (cl, { x with
            htab := x.htab.map fun (h, v) =>
              (h, if inside (coreOf cl (bitsOf v.toNat 61 3)) || inside (coreOf cl (bitsOf v.toNat 30 3)) then
                v &&& ~~~(BitVec.ofNat 64 (2 ^ 20)) else v) }) }
    .next (s.push [.paddockKillReport n count])
  | _ => .next s

/-- PADDOCK_KILL_REPORT (R40, R41, R177). A cluster that acts as a paddock has no paddock number: its CAUSE is free (log 64). -/
def execPaddockKillReport (s : State) : Host.Outcome State Fault Refusal :=
  match s.ev with
  | .paddockKillReport n count =>
    let w := (look s.io.paddock n 0).toNat
    let die := if n < 64 then bitsOf w 12 6 / 24 * 2 + bitsOf w 18 6 / 24 else (n - 64) / 72
    let s := s.tick.tick
    let cause := if n < 64 then n else Config.recordField (s.fresh - 2)
    .next (((s.lifeAdd (lifeKill die) 1).postSup (supWord 4 cause 0 0 die noTask) count (Config.recordField (s.fresh - 1))).push
      [.lifetimeRecordWrite])
  | _ => .next s

/-- TEARDOWN_COMPLETE (R69): once every unit of the context has left its slot, PTBR.V := 0. -/
def execTeardownComplete (s : State) : Host.Outcome State Fault Refusal :=
  match s.ev with
  | .teardownComplete ctx =>
    if !s.torn ctx || s.cores.any fun (_, c) => c.slots.any fun (_, t) => t.cr.ctx.toNat == ctx then .next s
    else
      .next ((s.dropTables ctx).modIo fun io =>
        { io with
          ptbr := put io.ptbr ctx (look io.ptbr ctx 0 &&& ~~~(BitVec.ofNat 64 (2 ^ 63))) })
  | _ => .next s

end Sys2Proof.Machine
end

