-- ==== Sys2Proof/Machine/Boot.lean ====
section
/-! DEFINITION. Power (R12, R13), the boot chain (R32 to R35), the management port (R39) and lifetime records (R40, R41). -/

namespace Sys2Proof.Machine

/-- The I/O die as power leaves it (R12): what lies outside the part stays. -/
def Io.unpowered (io : Io) : Io :=
  { Io.reset with
    bootIn := io.bootIn
    temps := io.temps
    lifeStored := io.lifeStored
    lifeAside := io.lifeAside
    bootKeyId := io.bootKeyId
    replies := io.replies
    msixSent := io.msixSent
    sent := io.sent
    redfishOut := io.redfishOut }

/-- The package off (R12, R13): every register and memory of it is lost. -/
def State.unpowered (s : State) : State :=
  { State.reset with io := s.io.unpowered, hostMem := s.hostMem, fresh := s.fresh, ids := s.ids }

/-- POWER_ON (R32): from off, the boot ROM starts at step 1, with a key exchange key of its own boot (R36); the sensors read what
they read (log 92). -/
def execPowerOn (s : State) : Host.Outcome State Fault Refusal :=
  if s.power then .next s
  else
    .next { s.unpowered with
      power := true
      agenda := s.agenda
      io := { s.io.unpowered with
        bootStep := 1, bootKeyId := s.io.bootKeyId + 1
        temps := (List.range 5).map (Config.junction s.io.bootKeyId)
        volts := (List.range 4).map (Config.supply s.io.bootKeyId) } }

/-- POWER_OFF (R12). -/
def execPowerOff (s : State) : Host.Outcome State Fault Refusal :=
  if s.power then .next s.unpowered else .next s

/-- The hottest junction in °C (R13). -/
def Io.hottest (io : Io) : Nat := io.temps.foldl max 0

/-- A junction has become so hot (R13): the first sensor's, where no other reads as much (log 92). -/
def Io.heated (io : Io) (t : Nat) : Io := if t ≤ io.hottest then io else { io with temps := io.temps.set 0 t }

/-- What the hottest junction has the hearth cores do (R13). -/
def State.thermal (s : State) : Option Ev :=
  if 105 ≤ s.io.hottest then some .overtempPowerOff
  else if 95 ≤ s.io.hottest then (if s.io.throttled then none else some .issueThrottlingEntry)
  else if s.io.throttled then some .issueThrottlingExit
  else none

/-- ISSUE_THROTTLING_ENTRY (R13). -/
def execIssueThrottlingEntry (s : State) : Host.Outcome State Fault Refusal :=
  if !s.power || s.io.throttled then .next s
  else .next ((s.modIo fun io => { io.heated 95 with throttled := true }).lifeAdd lifeThrottleIn 1)

/-- ISSUE_THROTTLING_EXIT (R13). -/
def execIssueThrottlingExit (s : State) : Host.Outcome State Fault Refusal :=
  if !s.power || !s.io.throttled then .next s
  else .next ((s.modIo fun io => { io with throttled := false, temps := io.temps.map (min 94) }).lifeAdd lifeThrottleOut 1)

/-- OVERTEMP_POWER_OFF (R13). -/
def execOvertempPowerOff (s : State) : Host.Outcome State Fault Refusal :=
  if s.power then .next (s.unpowered.modIo fun io => io.heated 105) else .next s

/-- Sets READY bits (R33). -/
def State.setReady (s : State) (bits : Nat) : State :=
  s.modIo fun io => { io with ready := io.ready ||| BitVec.ofNat 32 bits }

/-- Image `i` of the boot chain. -/
def BootIn.image (b : BootIn) (i : Nat) : Image := b.images.getD i Image.empty

/-- The bytes that an image's header counts (R34). -/
def Image.bytes (x : Image) : List Byte := x.body.take x.length

/-- The checks of image `i` (R34), in the order of the model's choice (log 12): storage, length, signature under the fused root
key, digest, security version. The code is that of the check that fails (R35); 0 where it passes. -/
def BootIn.code (b : BootIn) (i : Nat) : Nat :=
  let x := b.image i
  if !x.readable then 4
  else if Config.imageRoom i < x.length then 5
  else if Sha.sha512 (leBytes 32 x.rootKey.toNat) != leBytes 64 b.rootDigest.toNat
      || !Crypto.verifyEd (leBytes 32 x.rootKey.toNat) (leBytes 64 x.digest.toNat) (leBytes 64 x.sig.toNat) then 1
  else if Sha.sha512 x.bytes != leBytes 64 x.digest.toNat then 2
  else if x.version < b.minVersion then 3
  else 0

/-- The route tables of their image: 1,024 entries of two bytes (R19, log 12). -/
def BootIn.routes (b : BootIn) : SMap (BitVec 16) :=
  (List.range (min 1024 ((b.image 3).bytes.length / 2))).map fun n =>
    (n, BitVec.ofNat 16 (bodyNum (b.image 3).bytes (2 * n) 2) &&& 0xC0FF)

/-- The part number of its record (log 12). -/
def BootIn.part (b : BootIn) : BitVec 10 := BitVec.ofNat 10 (bodyNum (b.image 4).bytes 0 2)

/-- Measures image `i` into MREG `m` (R34). -/
def State.measure (s : State) (m i : Nat) : State :=
  let old := leBytes 64 (look s.io.mreg m 0).toNat
  let digest := leBytes 64 (s.io.bootIn.image i).digest.toNat
  s.modIo fun io => { io with mreg := put io.mreg m (BitVec.ofNat 512 (leNat (Sha.sha512 (old ++ digest)))) }

/-- The boot halts (R35); the failure is counted (R40). -/
def State.bootHalt (s : State) (code : Nat) : State :=
  (s.modIo fun io => { io with halted := true, bootErr := BitVec.ofNat 4 code }).lifeAdd (lifeBoot code) 1

/-- The next step of the boot begins. -/
def State.bootNext (s : State) : State := s.modIo fun io => { io with bootStep := io.bootStep + 1 }

/-- Saturating counters of 64 bits (R40). -/
def countAdd (a b : BitVec 64) : BitVec 64 := BitVec.ofNat 64 (min (a.toNat + b.toNat) (2 ^ 64 - 1))

/-- The seed of the device identity key (R36). -/
def identity : List Byte := leBytes 32 Config.identitySeed.toNat

/-- A signature of the device identity key over the digest of bytes (R36, R41). -/
def signature (bs : List Byte) : List Byte := Crypto.signEd identity (Sha.sha512 bs)

/-- A lifetime record whose signature is right (R41). -/
def LifeRecord.good (r : LifeRecord) : Bool :=
  Crypto.verifyEd (Crypto.publicEd identity) (Sha.sha512 (Config.lifeRecord r.counts)) r.sig

/-- Dolzia continues the counts of the last record; one whose signature fails is kept aside, and the counts start anew with the
failure counted (R41). -/
def State.lifeStart (s : State) : State :=
  let s := match s.io.lifeStored with
    | none => s
    | some r =>
      if r.good then
        s.modIo fun io =>
          { io with life := r.counts.foldl (fun m (k, v) => Machine.put m k (countAdd (look m k (0 : BitVec 64)) v)) io.life }
      else (s.modIo fun io => { io with lifeAside := io.lifeAside ++ [r] }).lifeAdd (lifeOther 0) 1
  s.lifeAdd lifePower 1

/-- Dolzia runs: step 4 has been completed (R32). -/
def State.dolzia (s : State) : Bool := s.power && !s.io.halted && 5 ≤ s.io.bootStep.toNat

/-- The event of a hearth command (R36). -/
def hearthEvent (cmd : Nat) : Option Ev :=
  if cmd = 0x001 then some .quote
  else if cmd = 0x002 then some .idcert
  else if cmd = 0x010 then some .keyxch
  else if cmd = 0x011 then some .keyimport
  else if cmd = 0x012 then some .keygen
  else if cmd = 0x013 then some .keyerase
  else if cmd = 0x020 then some .liferead
  else none

/-- BUSY of the mailbox (R36). -/
def State.hcmdBusy (s : State) : Bool := s.io.hcmd.getLsbD 63

/-- CMD of the mailbox (R36). -/
def State.hcmdCode (s : State) : Nat := bitsOf s.io.hcmd.toNat 0 12

/-- A command ends with a status (R36). -/
def State.hcmdEnd (s : State) (status : Nat) : State :=
  s.modIo fun io => { io with hcmd := BitVec.ofNat 64 (status * 2 ^ 32 + bitsOf io.hcmd.toNat 0 12) }

/-- Dolzia begins the command that the mailbox holds, once it runs; one that meets the writing of the lifetime record could
not start (R36). -/
def State.hcmdStart (s : State) : State :=
  if !s.hcmdBusy || !s.dolzia then s
  else
    match hearthEvent s.hcmdCode with
    | some e => if s.io.lifeBusy then s.hcmdEnd 4 else s.push [e]
    | none => s.hcmdEnd 1

/-- Images of step 4 in order (R32): each is verified and measured; the first that fails halts the boot. -/
def State.bootLoad (s : State) : State :=
  let b := s.io.bootIn
  if b.code 2 ≠ 0 then s.bootHalt (b.code 2)
  else
    let s := (s.measure 1 2).lifeStart
    if b.code 3 ≠ 0 then s.bootHalt (b.code 3)
    else
      let s := (s.measure 2 3).modIo fun io => { io with route := b.routes }
      if b.code 4 ≠ 0 then s.bootHalt (b.code 4)
      else ((s.measure 3 4).modIo fun io => { io with partNo := b.part }).bootNext.hcmdStart

/-- READY bits of the stacks and dies that come up (R32, R33): a die needs both of its stacks. -/
def BootIn.dieBits (b : BootIn) : Nat :=
  b.stackUp.toNat * 2 ^ 18 + ((List.range 4).map fun d =>
    if b.dies.getLsbD d && b.stackUp.getLsbD (2 * d) && b.stackUp.getLsbD (2 * d + 1) then 2 ^ (26 + d) else 0).sum

/-- A stack or die that fails its step is counted (R32). -/
def State.bootLosses (s : State) : State :=
  let b := s.io.bootIn
  let s := (List.range 8).foldl (fun s k => if b.stackUp.getLsbD k then s else s.lifeAdd (lifeOther (16 + k)) 1) s
  (List.range 4).foldl (fun s d => if b.dies.getLsbD d then s else s.lifeAdd (lifeOther (32 + d)) 1) s

/-- Lumaux ports train (R32). -/
def State.bootPorts (s : State) : State :=
  (List.range 16).foldl (fun s p =>
    if s.io.bootIn.ports.getLsbD p then
      (s.modPort p fun _ => { Port.reset with up := true, ackAt := s.now }).setReady (2 ^ (2 + p))
    else s) s

/-- BOOT_STEP_COMPLETE (R32 to R35). -/
def execBootStepComplete (s : State) : Host.Outcome State Fault Refusal :=
  let b := s.io.bootIn
  if !s.power || s.io.halted || s.io.bootDone then .next s
  else
    match s.io.bootStep.toNat with
    | 1 => .next (s.setReady (2 ^ 30)).bootNext
    | 2 =>
      if b.code 0 = 0 then .next (s.measure 0 0).bootNext
      else if b.code 1 = 0 then .next (s.measure 0 1).bootNext
      else .next (s.bootHalt (b.code 1))
    | 3 => .next (s.bootLosses.setReady b.dieBits).bootNext
    | 4 => .next s.bootLoad
    | 5 => .next ((s.bootPorts.setReady (2 ^ 31)).modIo fun io => { io with bootDone := true })
    | _ => .next s

/-- The sensors' readings enter their histograms (R40). -/
def State.lifeSense (s : State) : State :=
  let s := (s.io.temps.zipIdx).foldl (fun s (t, k) => s.lifeAdd (lifeTemp k t) 1) s
  (s.io.volts.zipIdx).foldl (fun s (mv, d) => s.lifeAdd (lifeVolt d mv) 1) s

/-- Dolzia signs the lifetime record and writes it to fabric storage (R41). -/
def State.lifeWrite (s : State) : State :=
  if !s.dolzia then s
  else
    let s := s.lifeSense
    s.modIo fun io =>
      { io with
        lifeStored := some ⟨io.life, signature (Config.lifeRecord io.life)⟩, lifeDue := s.now + lifePeriod, lifeBusy := true }

/-- LIFETIME_RECORD_WRITE (R41). -/
def execLifetimeRecordWrite (s : State) : Host.Outcome State Fault Refusal := .next s.lifeWrite

/-- A section of the lifetime record (R40, log 9). -/
def State.lifeBytes (s : State) (n : Nat) : List Byte := Config.lifeSection n s.io.life

/-- BOOTST (R35). -/
def Io.bootst (io : Io) : Word :=
  BitVec.ofNat 64 (io.bootStep.toNat * 2 ^ 8 + io.bootErr.toNat * 2 ^ 4 + io.bootDone.toNat)

/-- REDFISH_REQUEST (R39; the form of an answer is log 42's): an orderly power-off writes the lifetime record first (R41). -/
def execRedfishRequest (s : State) : Host.Outcome State Fault Refusal :=
  match s.ev with
  | .redfishRequest q =>
    if !s.dolzia then .next s
    else
      let say (s : State) (l : List Byte) : State := s.modIo fun io => { io with redfishOut := io.redfishOut ++ [l] }
      match q with
      | .power => .next (say s [1])
      | .ready => .next (say s (leBytes 8 s.io.ready.toNat))
      | .bootst => .next (say s (leBytes 8 s.io.bootst.toNat))
      | .temperature => .next (say s ((s.io.temps ++ s.io.volts).flatMap (leBytes 8)))
      | .lifeRead n =>
        .next ((say s (s.lifeBytes n)).modIo fun io => { io with redfishSection := some n })
      | .orderlyOff => .next (say s.lifeWrite []).unpowered
  | _ => .next s

end Sys2Proof.Machine
end

