-- ==== Sys2Proof/Machine/Placement.lean ====
section
/-! DEFINITION. The dispatcher and the mangers (R51 to R62, R65, R67, R68), the exact save and restore of a pinned unit (R66,
R99), and the end of a vacate (R64). -/

namespace Sys2Proof.Machine

/-- The round of a pool key (R54). -/
def keyRound (k : Word) : Nat := bitsOf k.toNat 40 16

/-- Rebases a priority (R55). -/
def State.rebase (s : State) (p : Nat) : State :=
  let less (n : Nat) : Nat := n - 0x8000
  let pool := s.io.pool.foldl (fun l e =>
    let k := e.key.toNat
    let e := if bitsOf k 56 8 = p then
        { e with key := BitVec.ofNat 64 (k - keyRound e.key * 2 ^ 40 + less (keyRound e.key) * 2 ^ 40) } else e
    poolInsert e l) []
  s.modIo fun io =>
    { io with
      pool := pool, curRound := put io.curRound p (less (look io.curRound p 0))
      queues := io.queues.map fun (n, q) => (n, if q.prio.toNat = p then { q with last := less q.last } else q) }

/-- Rebases every priority whose round has reached 0x8000 (R55). -/
def State.rebaseAll (s : State) : State :=
  (s.io.curRound.filter fun (_, r) => 0x8000 ≤ r).foldl (fun s (p, _) => s.rebase p) s

/-- The placement entry of a record (R58): MODE and TGT. -/
def State.placeEntry (s : State) (r : Record) : Nat × Nat :=
  let q := s.queue r.queue.toNat
  let i := r.vui.toNat % 2 ^ (min q.plog.toNat 16)
  let e := s.phys (q.ptab.toNat + 2 * i) 2
  (bitsOf e 14 2, bitsOf e 0 12)

/-- The vacated rectangle that contains a core. -/
def State.vacateOf (s : State) (n : Nat) : Option Vacate := s.io.vacates.find? fun v => inRect v.word0.toNat n

/-- The cores of a cluster. -/
def coresOf (cl : Nat) : List Nat := (List.range 8).map (coreOf cl)

/-- A cluster lies wholly inside a rectangle. -/
def allIn (w cl : Nat) : Bool := (coresOf cl).all (inRect w)

/-- The substitute of a cluster (R64, R65); `none` where there is none. -/
def State.substOf (s : State) (v : Vacate) (cl : Nat) : Option Nat :=
  let n := s.phys (v.subst + 2 * cl) 2
  if 288 ≤ n then none else some n

/-- The cores that a placement entry names, after the remapping of R65; an entry out of range names none (R58). -/
def State.candidates (s : State) (mode tgt : Nat) : List Nat :=
  match mode with
  | 0 =>
    if coreCount ≤ tgt then []
    else
      match s.vacateOf tgt with
      | none => [tgt]
      | some v =>
        match s.substOf v (clusterOf tgt) with
        | some cl =>
          let c := coreOf cl (posOf tgt)
          if inRect v.word0.toNat c then [] else [c]
        | none => []
  | 1 =>
    if 288 ≤ tgt then []
    else
      match s.io.vacates.find? fun v => allIn v.word0.toNat tgt with
      | none => coresOf tgt
      | some v =>
        match s.substOf v tgt with
        | some cl => if allIn v.word0.toNat cl then [] else coresOf cl
        | none => []
  | 2 => if 4 ≤ tgt then [] else (List.range 576).map fun i => 576 * tgt + i
  | _ => List.range coreCount

/-- A core is a free placement for a record (R59). -/
def State.freePlace (s : State) (n : Nat) (r : Record) : Bool :=
  s.placeable n && s.slotFor n r && ((s.clusterAt (clusterOf n)).manger.length < 16)

/-- Both cores of a pair, if they are free placements for a record (R67). -/
def State.pairPlace (s : State) (n : Nat) (r : Record) : Option (List Nat) :=
  if s.freePlace n r && s.freePlace (partnerOf n) r then some [n, partnerOf n] else none

/-- Where a record is placed (R59, R66 to R68): the free placement with the lowest core number; a PIN record only on its own
core; for a pair both cores; a second placement on the two cores that its mismatch gave. -/
def State.placeOf (s : State) (e : PoolEntry) : Option (List Nat) :=
  let r := e.cr
  match e.again with
  | some n => s.pairPlace n r
  | none =>
  if r.pin then
    let n := r.arg2.toNat
    if s.freePlace n r then some [n] else none
  else
    let (mode, tgt) := s.placeEntry r
    match ((s.candidates mode tgt).filter fun n => s.freePlace n r) with
    | [] => none
    | n :: l =>
      let n := l.foldl min n
      if (s.queue r.queue.toNat).pair then s.pairPlace n r else some [n]

/-- Sends a record to the mangers of its cores (R59, R60, R67). -/
def State.sendRecord (s : State) (key : Word) (r : Record) (cores : List Nat) (second : Bool) : State :=
  let pair := cores.length = 2
  (cores.zipIdx).foldl (fun s (n, i) =>
    let m : MangerRec := ⟨key, r, n, false, if pair then some (i = 0) else none, second⟩
    (s.modCluster (clusterOf n) fun c => { c with manger := c.manger ++ [m] }).push
      [.recordArrivalAtManger (clusterOf n) key]) s

/-- Records that the dispatcher looks at (R59): second placements are ahead of every other (R68). -/
def State.front (s : State) : List PoolEntry :=
  (s.io.pool.filter (·.again.isSome) ++ s.io.pool.filter (·.again.isNone)).take 64

/-- An invalid record (R59): its LAUNCH names no counter, or its XCOUNT is outside 8..64. -/
def State.invalid (s : State) (r : Record) : Bool := !s.ctrExists r.ctx.toNat r.launch.toNat || !Record.sized r

/-- A record may be taken (R59). -/
def State.takable (s : State) (e : PoolEntry) : Bool :=
  (s.queue e.cr.queue.toNat).en && !s.cancelled e.cr && !s.invalid e.cr && (s.placeOf e).isSome

/-- A place of the pool is freed. -/
def State.unpool (s : State) (e : PoolEntry) : State :=
  let s := s.modIo fun io => { io with pool := dropFirst (· == e) io.pool }
  s.modQueue e.cr.queue.toNat fun q => { q with depth := q.depth - 1 }

/-- The take of a cycle (R59, R68). -/
def State.take (s : State) : State :=
  match s.front.find? s.takable with
  | none => s
  | some e =>
    match s.placeOf e with
    | none => s
    | some cores =>
      let p := e.cr.prio.toNat
      let s := (s.unpool e).modIo fun io =>
        { io with curRound := put io.curRound p (max (look io.curRound p 0) (keyRound e.key)) }
      (s.sendRecord e.key e.cr cores e.again.isSome).queueRoom e.cr.queue.toNat

/-- A record that leaves the pool without a placement: the updates of a unit saved exactly are discarded with it. -/
def State.removeRecord (s : State) (e : PoolEntry) : State :=
  let s := if e.cr.pin then s.dropSaved fun u => u.area == e.cr.arg1.toNat else s
  (s.unpool e).queueRoom e.cr.queue.toNat

/-- At most one cancelled record is removed in a cycle, and counted (R50, R51, R59). -/
def State.removeCancelled (s : State) (l : List PoolEntry) : State :=
  match l.find? fun e => s.io.pool.contains e && s.cancelled e.cr with
  | some e => (s.removeRecord e).unitEnd e.cr (.ended true)
  | none => s

/-- At most one invalid record is removed in a cycle (R59): dropped uncounted where its LAUNCH names no counter, counted as
ended by fault otherwise. -/
def State.removeInvalid (s : State) (l : List PoolEntry) : State :=
  match l.find? fun e => s.io.pool.contains e && s.invalid e.cr with
  | some e =>
    let known := s.ctrExists e.cr.ctx.toNat e.cr.launch.toNat
    let s := s.removeRecord e
    if known then s.unitEnd e.cr (.ended false) else s
  | none => s

/-- DISPATCHER_CYCLE (R55, R59). -/
def execDispatcherCycle (s : State) : Host.Outcome State Fault Refusal :=
  let s := s.rebaseAll
  let l := s.front
  .next ((s.take.removeCancelled l).removeInvalid l)

/-- HELD_INSERT_ENTRY (R54): the oldest held insert of a queue enters once there is room; one whose queue refuses it ends
its unit (R45). -/
def execHeldInsertEntry (s : State) : Host.Outcome State Fault Refusal :=
  match s.ev with
  | .heldInsertEntry q =>
    match s.io.held.find? (·.queue == q) with
    | none => .next s
    | some h =>
      let drop (s : State) : State := s.modIo fun io => { io with held := dropFirst (·.queue == q) io.held }
      if !s.queueOk q h.cr.ctx.toNat then .next (((drop s).unitEnd h.cr (.ended false)).heldGo q)
      else if s.noRoom q then .next s
      else .next (((drop s).poolEnter h).queueRoom q)
  | _ => .next s

/-- NODE_READY_INSERT (R52): the next template copy whose queue has room; a queue that refuses it ends the copy. -/
def execNodeReadyInsert (s : State) : Host.Outcome State Fault Refusal :=
  let ready (x : Nat × Record × Nat × Nat) : Bool :=
    x.2.2.2 = 0 || !s.queueOk x.1 x.2.1.ctx.toNat || (!s.noRoom x.1 && !s.io.held.any (·.queue == x.1))
  match s.io.nodeReady.find? ready with
  | none => .next s
  | some (q, r, i, left) =>
    let x := (q, r, i, left)
    let rest := if left ≤ 1 then dropFirst (· == x) s.io.nodeReady
      else mapIf (· == x) (fun _ => (q, r, i + 1, left - 1)) s.io.nodeReady
    let s := s.modIo fun io => { io with nodeReady := rest }
    let r := { r with vui := BitVec.ofNat 32 i }
    if left = 0 then .next s
    else if !s.queueOk q r.ctx.toNat then .next (s.unitEnd r (.ended false))
    else .next (s.poolPlace q r)

/-- Identifier of a destination in the saved group write buffer (log 40). -/
def destCode : Dest → Nat
  | .x e => 0x100 + e
  | .p n => 0x200 + n
  | .v n => 0x300 + n
  | .w n => 0x400 + n
  | .ix => 0x500
  | .flags => 0x501
  | .tepc => 0x502
  | .stallhw => 0x503
  | .stallage => 0x504
  | .tret => 0x505
  | .vlong => 0x506
  | .vshort => 0x507
  | .discard => 0x508
  | .dpat c => 0x600 + c

/-- The destination of an identifier. -/
def destOf (n : Nat) : Dest :=
  match n / 256 with
  | 1 => .x (n % 64)
  | 2 => .p (n % 8)
  | 3 => .v (n % 32)
  | 4 => .w (n % 16)
  | 6 => .dpat (n % 4)
  | _ =>
    match n with
    | 0x500 => .ix
    | 0x501 => .flags
    | 0x502 => .tepc
    | 0x503 => .stallhw
    | 0x504 => .stallage
    | 0x505 => .tret
    | 0x506 => .vlong
    | 0x507 => .vshort
    | _ => .discard

/-- Channels of a core that a slot's unit owns (R92, R99). -/
def Core.owned (c : Core) (k unit : Nat) : List (Nat × Chan) :=
  c.chan.filter fun (_, x) => x.kind != 0 && x.oslot == k && x.unit == unit

/-- OTH, OVF and INX of the four monitors (R97, R99). -/
def Core.monFlags (c : Core) : Nat :=
  (List.range 4).foldl (fun n i => n + bitsOf (look c.mon i Monitor.reset).cfg.toNat 65 3 * 2 ^ (8 * i)) 0

/-- The guard record as a word (R91, R99). -/
def guardWord (g : Guard) : Nat :=
  g.pending.toNat * 2 ^ 63 + g.count.toNat * 2 ^ 40 + g.bank.toNat * 2 ^ 32 + g.off.toNat

/-- The guard record of a word. -/
def guardOf (n : Nat) : Guard :=
  ⟨bitsOf n 63 1 = 1, BitVec.ofNat 3 (bitsOf n 32 3), BitVec.ofNat 32 n, BitVec.ofNat 8 (bitsOf n 40 8)⟩

/-- Handles of a cluster that a thread holds (R90, R99). -/
def State.handlesOf (s : State) (n k : Nat) : List (Nat × BitVec 64) :=
  (s.clusterAt (clusterOf n)).htab.filter fun (_, v) => v.getLsbD 20 && holds v (s.thr n k) n k

/-- The save area of a thread (R99): offsets with numbers of so many bytes; every other byte is zero. Between repeats TEPC is the
address of the prefix (R87). -/
def State.saveImage (s : State) (n k : Nat) : List (Nat × Nat × Nat) :=
  let t := s.thr n k
  let c := s.coreAt n
  let words (at' : Nat) (l : List Nat) : List (Nat × Nat × Nat) := (l.zipIdx).map fun (v, i) => (at' + 8 * i, 8, v)
  let gwb := if t.intrap then t.gwb else t.pend
  let hs := s.handlesOf n k
  let own := c.owned k t.unit
  words 0 [t.pc.toNat, t.xcount.toNat, t.cr.ctx.toNat, t.tstat.toNat, t.tcause.toNat,
      (if t.repLive then t.pc else t.tepc).toNat, t.tval.toNat, t.seq.toNat, t.cringh.toNat]
  ++ words 0x80 [t.ix.toNat, t.p.toNat / 2 * 2, guardWord t.guard, c.monFlags, t.lend.toNat]
  ++ ((List.range 4).map fun i => (0xC0 + 16 * i, 16, (look (look c.mon i Monitor.reset).tsum k 0).toNat))
  ++ ((gwb.take 32).zipIdx.flatMap fun (w, i) =>
      [(0x100 + 64 * i, 8, destCode w.dest), (0x108 + 64 * i, 56, (w.val.getD 0).toNat)])
  ++ ((List.range 64).map fun i => (0x900 + 8 * i, 8, if i < t.xcount.toNat then (c.readX t i).toNat else 0))
  ++ ((List.range 32).map fun i => (0xB00 + 32 * i, 32, (t.readV i).toNat))
  ++ (if t.long then (List.range 16).map fun i => (0xF00 + 256 * i, 256, (s.readW n k i).toNat) else [])
  ++ (t.a.map fun (i, v) => (0x1F00 + 5 * i, 5, v.toNat))
  ++ ((List.range 4).flatMap fun i =>
      let h := look t.h i HAcc.reset
      (h.c.map fun (j, v) => (0x4700 + 528 * i + 8 * j, 8, v.toNat))
        ++ [(0x4700 + 528 * i + 512, 8, h.deg.toNat), (0x4700 + 528 * i + 520, 8, h.sc.toNat)])
  ++ (t.s.map fun (i, v) => (0x4F40 + 64 * i, 64, v.toNat))
  ++ (own.map fun (i, x) => (0x5140 + 32 * i, 32, x.st.toNat))
  ++ (t.cring.map fun (i, v) => (0x51C0 + 64 * i, 64, v.toNat))
  ++ [(0x61C0, 64, hs.foldl (fun m (h, _) => m + 2 ^ h) 0),
      (0x6200, 256, hs.foldl (fun m (h, v) => m + bitsOf v.toNat 16 4 * 2 ^ (4 * h)) 0)]

/-- A thread waits where a cancel aborts its task (R51). -/
def cancelWait : Wait → Bool
  | .barrier | .barrierRoom | .exchange | .exchangeTurn | .mailbox _ | .handle _ | .longCtx | .mailFull => true
  | _ => false

/-- A thread waits where its instruction has had no effect yet, or only one that ends with the wait: the instruction can begin
anew after an exact save (R66; log 39). -/
def anewWait : Wait → Bool
  | .channel _ | .engine _ | .flue _ | .puts | .stallEmpty | .shedClear | .copqRoom | .copqDrained | .longDone | .collRoom => true
  | w => cancelWait w

/-- The sequencer of a thread stands at a chunk boundary, or runs no mmt (R81). -/
def Thread.mmtStill (t : Thread) : Bool := t.mmtStop.isSome || t.inflight.all fun i => !isMmt i.instr

/-- A thread can be saved exactly (R66): nothing of it is on its way but what it can take up again. -/
def State.savable (s : State) (n k : Nat) : Bool :=
  let t := s.thr n k
  let early := t.blocked.all fun i => i.phase = 0 || t.commit == .preparing || anewWait t.wait || (match t.commit with
    | .held _ _ _ => true
    | _ => false)
  t.pendDone && t.loads.isEmpty && t.sosOut == 0 && t.flip.isNone && t.drainOut == 0
    && t.applyOut == 0 && t.arRel.isNone && t.results.isEmpty && t.pipeCommit.isNone && t.forwarded && early
    && (t.inflight.all fun i => i.phase == 0) && t.mmtStill && t.wait != .parked && (!t.intrap || t.pend.isEmpty)

/-- The number under which the gets and collectives of a unit go on while it is saved exactly: none of a slot (R66). -/
def savedSlot (unit : Nat) : Nat := 16 + unit

/-- The gets and collectives of a core's unit take another slot number (R66). -/
def State.moveEngines (s : State) (n k j : Nat) : State :=
  let s := s.modIo fun io =>
    { io with gets := mapIf (fun g => g.core == n && g.slot == k) (fun g => { g with slot := j }) io.gets }
  s.modCore n fun c => { c with colls := mapIf (fun x => x.slot == k) (fun x => { x with slot := j }) c.colls }

/-- An exact save (R66, R99): the save area is written, the unit's record inserted with PIN = 1, and its slot freed; its
tentative updates stay. -/
def State.exactSave (s : State) (n k : Nat) : State :=
  let t := s.thr n k
  let area := t.saveAt
  let s := s.needPhys area saveBytes
  let s := if physOk area saveBytes then
      { s with
        mem := (s.saveImage n k).foldl (fun m (o, b, v) => Memory.writeN m (area + o) (leBytes b v))
          (Memory.clear s.mem area saveBytes)
        poison := s.poison.filter fun g => g < area / 4 || (area + saveBytes) / 4 ≤ g
        hbmErr := s.hbmErr.filter fun (x, _) => x < area / 64 || (area + saveBytes - 1) / 64 < x }
    else s
  let own := (s.coreAt n).owned k t.unit
  let u : Saved := ⟨area, s.token n k, t, own⟩
  let s := ((s.withdrawBar n k).moveEngines n k (savedSlot t.unit)).modIo fun io => { io with saved := io.saved ++ [u] }
  let s := s.modCore n fun c =>
    { c with chan := c.chan.map fun (i, x) =>
      (i, if own.any (·.1 == i) then { Chan.reset with dpat := x.dpat } else x) }
  (s.freeSlot n k).insertHeld
    { t.cr with pin := true, arg1 := BitVec.ofNat 64 area, arg2 := BitVec.ofNat 64 n }

/-- The record that stands for a unit saved in an area. -/
def Record.saves (r : Record) (area : Nat) : Bool := r.pin && r.arg1.toNat == area

/-- The task of a unit that is saved exactly aborts (R123): its updates are discarded, and its record goes, wherever it is. The
resume record of its task, if there is such a unit. -/
def State.abortSaved (s : State) (task : BitVec 40) : State × Option Record :=
  match s.io.saved.find? fun u => u.token == task with
  | none => (s, none)
  | some u =>
    let mine (r : Record) : Bool := Record.saves r u.area
    let s := (s.dropSaved fun x => x.area == u.area).poolRemove fun e => mine e.cr
    let s := s.modIo fun io => { io with held := io.held.filter fun h => !mine h.cr }
    let s : State :=
      { s with clusters := s.clusters.map fun (n, c) => (n, { c with manger := c.manger.filter fun m => !mine m.cr }) }
    let waits := s.cores.flatMap fun (n, c) => (c.slots.filter fun (_, t) => t.wait == .started && mine t.cr).map fun (k, _) => (n, k)
    (waits.foldl (fun s (n, k) => s.freeSlot n k) s, some u.thread.resume)

/-- The freeze of a migration, with the tasks of units that are saved exactly (R66, R170). -/
def State.migrBegin (s : State) (m : Migr) : State :=
  (s.tasksOn m.old m.ctx m.va m.size).foldl (fun s t =>
    match s.abortSaved t with
    | (s, some r) => s.moveWait m.new m.ctx m.va [.record r]
    | (s, none) => s) (s.migrFreeze m)

/-- VACATE_GRACE_EXPIRY (R64, R66): a unit that has not suspended is aborted and re-inserted, or saved exactly if pinned; its
sequencer stops first at a chunk boundary (R81). -/
def execVacateGraceExpiry (s : State) : Host.Outcome State Fault Refusal :=
  match s.ev with
  | .vacateGraceExpiry n k =>
    let t := s.thr n k
    match t.leaveBy with
    | none => .next s
    | some c =>
      if s.now < c || t.status == .free then .next s
      else if !t.pin then .next (s.push [.taskAbort n k .vacate])
      else if s.savable n k then .next (s.exactSave n k)
      else .next (if t.mmtStill then s else s.modThr n k fun t => { t with mmtHalt := true })
  | _ => .next s

/-- Every slot of a rectangle is empty (R64). -/
def State.rectEmpty (s : State) (w0 : Nat) : Bool := s.cores.all fun (n, c) => !inRect w0 n || c.slots.isEmpty

/-- RECTANGLE_EMPTY (R64). -/
def execRectangleEmpty (s : State) : Host.Outcome State Fault Refusal :=
  match s.ev with
  | .rectangleEmpty w0 =>
    match s.io.vacates.find? fun v => v.word0 == w0 && !v.reported with
    | none => .next s
    | some v =>
      if !s.rectEmpty w0.toNat then .next s
      else
        .next ((s.modIo fun io =>
          { io with vacates := mapIf (fun x => x.word0 == w0) (fun x => { x with reported := true }) io.vacates }).push
            [.counterOperation ⟨v.cctx, BitVec.ofNat 32 v.cnt, .counted 1 0, noNode, 0⟩])
  | _ => .next s

/-- A number of a save area. -/
def State.saved (s : State) (area off n : Nat) : Nat := s.phys (area + off) n

/-- The group write buffer of a save area (R99). -/
def State.savedGwb (s : State) (area count : Nat) : List PendW :=
  (List.range (min count 32)).map fun i =>
    ⟨0, destOf (s.saved area (0x100 + 64 * i) 8), some (BitVec.ofNat 2048 (s.saved area (0x108 + 64 * i) 56))⟩

/-- Writes of a save area's group buffer. -/
def State.savedCount (s : State) (area : Nat) : Nat :=
  ((List.range 32).takeWhile fun i => s.saved area (0x100 + 64 * i) 8 != 0).length

/-- The thread of a save area (R99): every item of the layout is taken from it, the rest from what was kept of the unit. -/
def State.restored (s : State) (area : Nat) (old : Thread) (n k xbase : Nat) (r : Record) : Thread :=
  let num (off b : Nat) : Nat := s.saved area off b
  let ts := num 0x18 8
  let intrap := bitsOf ts 19 1 = 1
  let gwb := s.savedGwb area (s.savedCount area)
  let early := old.blocked.map fun i => { i with phase := 0 }
  let keep := fun (l : List (Nat × Nat)) => l.filter fun p => p.2 != 0
  let _ := n
  let _ := k
  { old with
    status := .running, wait := if old.wait == .parked then .parked else .none, commit := .idle, blocked := early
    cr := { old.cr with
      pc := r.pc, prio := r.prio, ctx := BitVec.ofNat 9 (num 0x10 8), xcount := r.xcount, pin := false, launch := r.launch
      vui := r.vui, queue := r.queue, node := r.node }
    pc := BitVec.ofNat 57 (num 0 8), xbase := BitVec.ofNat 10 xbase, xcount := BitVec.ofNat 7 (num 8 8)
    mmtk := BitVec.ofNat 16 (bitsOf ts 48 16), mmta := bitsOf ts 47 1 = 1, repcnt := BitVec.ofNat 7 (bitsOf ts 40 7)
    repdone := BitVec.ofNat 6 (bitsOf ts 34 6), repmask := BitVec.ofNat 4 (bitsOf ts 30 4), intrap := intrap
    sup := bitsOf ts 18 1 = 1, pin := bitsOf ts 17 1 = 1, flags := BitVec.ofNat 5 (bitsOf ts 11 5)
    repLive := bitsOf ts 40 7 != 0 && !intrap
    tcause := BitVec.ofNat 9 (num 0x20 8), tepc := BitVec.ofNat 57 (num 0x28 8), tval := BitVec.ofNat 64 (num 0x30 8)
    seq := BitVec.ofNat 32 (num 0x38 8), cringh := BitVec.ofNat 6 (num 0x40 8)
    ix := BitVec.ofNat 16 (num 0x80 8), p := BitVec.ofNat 8 (num 0x88 8 / 2 * 2), guard := guardOf (num 0x90 8)
    lend := bitsOf (num 0xA0 8) 0 1 = 1
    gwb := if intrap then gwb else [], pend := if intrap then [] else gwb
    v := (keep ((List.range 32).map fun i => (i, num (0xB00 + 32 * i) 32))).map fun (i, v) => (i, BitVec.ofNat 256 v)
    a := (keep ((List.range 2048).map fun i => (i, num (0x1F00 + 5 * i) 5))).map fun (i, v) => (i, BitVec.ofNat 40 v)
    h := (List.range 4).map fun i =>
      (i, ⟨(keep ((List.range 64).map fun j => (j, num (0x4700 + 528 * i + 8 * j) 8))).map fun (j, v) => (j, BitVec.ofNat 64 v),
        BitVec.ofNat 6 (num (0x4700 + 528 * i + 512) 8), BitVec.ofNat 16 (num (0x4700 + 528 * i + 520) 8)⟩)
    s := (keep ((List.range 8).map fun i => (i, num (0x4F40 + 64 * i) 64))).map fun (i, v) => (i, BitVec.ofNat 512 v)
    cring := (keep ((List.range 64).map fun i => (i, num (0x51C0 + 64 * i) 64))).map fun (i, v) => (i, BitVec.ofNat 512 v)
    long := false, lctx := 0, lgrant := none, barAt := none, leaveBy := none }

/-- Entries of a task take another token, where its unit runs on another slot than before (R66, R101). -/
def State.retag (s : State) (old new : BitVec 40) : State :=
  if old == new then s
  else
    let mine (e : Entry) : Bool := e.tent && e.task == old
    let tag (e : Entry) : Entry := if mine e then { e with task := new } else e
    let s := s.mapRuns (·.map tag) (·.map tag)
    { s with
      clusters := s.clusters.map fun (n, c) =>
        (n, match find? c.dmask old.toNat with
          | some m => { c with dmask := put (del c.dmask old.toNat) new.toNat m }
          | none => c)
      dies := s.dies.map fun (n, d) =>
        (n, { d with
          waits := d.waits.map fun w =>
            { w with items := w.items.map fun
                | .entry e a b => .entry (tag e) a b
                | x => x }
          heldAt := d.heldAt.map fun (e, a) => (tag e, a) }) }

/-- A save area holds a long context (R99). -/
def State.savedLong (s : State) (area : Nat) : Bool := bitsOf (s.saved area 0x18 8) 29 1 = 1

/-- The monitors with OTH, OVF and INX, and a slot's TSUM, of a save area written back (R99). -/
def State.savedMon (s : State) (area k : Nat) (mon : SMap Monitor) : SMap Monitor :=
  (List.range 4).foldl (fun m i =>
    let x := look m i Monitor.reset
    put m i { x with
      tsum := put x.tsum k (BitVec.ofNat 128 (s.saved area (0xC0 + 16 * i) 16))
      cfg := (x.cfg &&& ~~~(BitVec.ofNat 256 (7 * 2 ^ 65)))
        ||| BitVec.ofNat 256 (bitsOf (s.saved area 0x98 8) (8 * i) 3 * 2 ^ 65) }) mon

/-- EXACT_RESTORE (R66, R99): once a long context is free where one is needed, or where a `vmode.long` had been granted one, every
item is written back, the handles are marked again, and the unit's task goes on; the start is an acquire (R145). -/
def execExactRestore (s : State) : Host.Outcome State Fault Refusal :=
  match s.ev with
  | .exactRestore n k =>
    let t := s.thr n k
    let r := t.cr
    if t.status != .running || t.wait != .started || !r.pin then .next s
    else
      let area := r.arg1.toNat
      let cl := clusterOf n
      let s := s.needPhys area saveBytes
      let free := (s.clusterAt cl).freeLong
      let long := s.savedLong area
      let u := (s.io.saved.find? fun u => u.area == area).getD
        ⟨area, noTask, { Thread.reset with unit := t.unit, cr := r, resume := r }, []⟩
      let due := u.thread.lgrant.isSome
      if (long || due) && free.isNone then .next s
      else
        let s := s.modIo fun io => { io with saved := dropFirst (fun u => u.area == area) io.saved }
        let t' := s.restored area u.thread n k t.xbase.toNat r
        let s := s.modThr n k fun _ => t'
        let s := s.modCore n fun c =>
          (List.range 64).foldl (fun c i =>
            if i < t'.xcount.toNat then c.writeX t' i (BitVec.ofNat 64 (s.saved area (0x900 + 8 * i) 8)) else c) c
        let s := s.modCore n fun c =>
          { c with
            mon := s.savedMon area k c.mon
            chan := u.chans.foldl (fun m (i, x) =>
              let st := BitVec.ofNat 256 (s.saved area (0x5140 + 32 * i) 32)
              let st := (st &&& ~~~(BitVec.ofNat 256 (15 * 2 ^ 242))) ||| BitVec.ofNat 256 (k * 2 ^ 242)
              put m i { x with st := st, waits := none, dpat := (look m i Chan.reset).dpat }) c.chan }
        let s := match free with
          | none => s
          | some i =>
            if !long then (if due then s.grantLong cl n k i else s)
            else
            let s := (s.grantLong cl n k i).modThr n k fun t => { t with long := true, lctx := BitVec.ofNat 3 i, lgrant := none }
            s.modCluster cl fun c =>
              { c with w := (List.range 16).foldl (fun m j =>
                put m (16 * i + j) (BitVec.ofNat 2048 (s.saved area (0xF00 + 256 * j) 256))) c.w }
        let map := s.saved area 0x61C0 64
        let tags := s.saved area 0x6200 256
        let s := s.modCluster cl fun c =>
          { c with htab := c.htab.map fun (h, v) =>
            (h, if bitsOf map h 1 = 1 then
              let n' := v.toNat
              BitVec.ofNat 64 (n' - bitsOf n' 33 4 * 2 ^ 33 + k * 2 ^ 33 - bitsOf n' 30 3 * 2 ^ 30 + posOf n * 2 ^ 30
                - bitsOf n' 21 9 * 2 ^ 21 + t'.cr.ctx.toNat * 2 ^ 21 - bitsOf n' 16 4 * 2 ^ 16 + bitsOf tags (4 * h) 4 * 2 ^ 16)
            else v) }
        let s := match u.thread.mate with
          | some (m, j) => s.modThr m j fun t => { t with mate := some (n, k) }
          | none => s
        .next (((s.moveEngines n (savedSlot u.thread.unit) k).retag u.token (s.token n k)).acquireStart n t'.cr.ctx.toNat)
  | _ => .next s

/-- Grants a slot to a PIN record, whose thread then waits to be restored (R61, R66). -/
def State.grantPin (s : State) (n : Nat) (r : Record) : State :=
  let c := s.coreAt n
  match c.freeSlot, c.freeWindow r.xcount.toNat with
  | some k, some b =>
    let s := s.newTask n k
    let s := s.modThr n k fun _ =>
      { Thread.reset with
        status := .running, wait := .started, cr := r, resume := r, xbase := BitVec.ofNat 10 b, xcount := r.xcount }
    let s := s.modCore n fun c => { c with rf := c.rf.filter fun (i, _) => !(b ≤ i && i < b + r.xcount.toNat) }
    (s.noteUnit n k r).push [.exactRestore n k]
  | _, _ => s

/-- Starts the records of a pair on their two cores and links the copies (R67, R68). -/
def State.grantPair (s : State) (a b : MangerRec) : State :=
  match s.grant a.core a.cr with
  | (s, some k) =>
    match s.grant b.core b.cr with
    | (s, some j) =>
      let s := s.modThr a.core k fun t => { t with mate := some (b.core, j), primary := true, mismatched := a.second }
      s.modThr b.core j fun t => { t with mate := some (a.core, k), primary := false, mismatched := a.second }
    | (s, none) => s
  | (s, none) => s

/-- The mangers' records of a key. -/
def State.heldOf (s : State) (key : Word) : List MangerRec :=
  s.clusters.flatMap fun (_, c) => c.manger.filter fun m => m.key == key

/-- Removes a record of a key from the mangers that hold it. -/
def State.mangerDrop (s : State) (key : Word) : State :=
  { s with clusters := s.clusters.map fun (n, c) => (n, { c with manger := c.manger.filter fun m => m.key != key }) }

/-- A record sent to a manger or held there is discarded by a cancel and counted (R51, R60); the updates of a unit saved exactly go
with it. -/
def State.mangerGone (s : State) (m : MangerRec) : State :=
  if (s.heldOf m.key).isEmpty then s
  else
    let s := if m.cr.pin then s.dropSaved fun u => u.area == m.cr.arg1.toNat else s
    (s.mangerDrop m.key).unitEnd m.cr (.ended true)

/-- RECORD_ARRIVAL_AT_MANGER (R43, R60, R61): held, and granted a slot; a core vacated or killed meanwhile returns the record
to the pool with its original key, and a cancelled record is discarded (R51). A pair starts once both mangers hold it (R67). -/
def execRecordArrivalAtManger (s : State) : Host.Outcome State Fault Refusal :=
  match s.ev with
  | .recordArrivalAtManger cl key =>
    let l := s.heldOf key
    match l.find? fun m => clusterOf m.core == cl with
    | none => .next s
    | some m =>
      if l.any fun m => s.vacated m.core || s.killed m.core then
        .next (s.mangerReturn fun n => l.any fun m => m.core == n && (s.vacated n || s.killed n))
      else if s.cancelled m.cr then .next (s.mangerGone m)
      else
        let s := s.modCluster cl fun c =>
          { c with manger := mapIf (fun x => x.key == key && x.core == m.core) (fun x => { x with arrived := true }) c.manger }
        let l := s.heldOf key
        match m.pair with
        | none =>
          let s := s.mangerDrop key
          .next (if m.cr.pin then s.grantPin m.core m.cr else (s.grant m.core m.cr).1)
        | some _ =>
          match l.find? fun x => x.pair == some true && x.arrived, l.find? fun x => x.pair == some false && x.arrived with
          | some a, some b => .next ((s.mangerDrop key).grantPair a b)
          | _, _ => .next s
  | _ => .next s

/-- MANGER_CANCEL (R51): the manger discards its cancelled records, each counted; the cluster's cancelled units are marked,
and those that wait in the instructions of R51 have their tasks aborted. Their collectives go (R330). -/
def execMangerCancel (s : State) : Host.Outcome State Fault Refusal :=
  match s.ev with
  | .mangerCancel cl _ _ =>
    let gone := (s.clusterAt cl).manger.filter fun m => s.cancelled m.cr
    let s := gone.foldl State.mangerGone s
    .next ((coresOf cl).foldl (fun s n =>
      let c := s.coreAt n
      let mine := c.slots.filter fun (_, t) => t.status == .running && s.cancelled t.cr
      let s := mine.foldl (fun s (k, t) =>
        let s := s.modThr n k fun t => { t with cancelled := true }
        if cancelWait t.wait then s.push [.taskAbort n k .cancel] else s) s
      let lost := c.colls.filter fun x => s.cancelled { Record.zero with ctx := x.ctx, launch := x.launch }
      if lost.isEmpty then s
      else
        let s := s.modCore n fun x => { x with colls := x.colls.filter fun y => !lost.contains y }
        s.modIo fun io =>
          { io with collHeld := io.collHeld.filter fun m => !lost.any fun x => x.ctx == m.ctx && x.id == m.id }) s)
  | _ => .next s

end Sys2Proof.Machine
end

