-- ==== Sys2Proof/Machine/Host.lean ====
section
/-! DEFINITION. The host interface (R25 to R31), the hearth command mailbox (R36) and the key slots (R37, R38). -/

namespace Sys2Proof.Machine

/-- The part answers the host: on, with its link trained (R12, R32, R33). -/
def State.linked (s : State) : Bool := s.power && s.readyBit 30

/-- A completion to the host: data, whether poisoned, whether Completer Abort. -/
def State.reply (s : State) (data : List Byte) (poisoned abort : Bool) : State :=
  s.modIo fun io => { io with replies := io.replies ++ [(data, poisoned, abort)] }

/-- An access of which nothing comes: a read completes with Completer Abort, a write is discarded (R31, R35). -/
def State.turnAway (s : State) (a : HostAccess) : State := if a.read then s.reply [] false true else s

/-- Records a discard in SUBERR (R29). -/
def State.subErr (s : State) (cause q : Nat) : State :=
  s.modIo fun io =>
    { io with
      suberrCount := BitVec.ofNat 16 (min (io.suberrCount.toNat + 1) 0xFFFF)
      suberrCause := BitVec.ofNat 4 cause
      suberrQueue := BitVec.ofNat 12 q }

/-- The context slot that a PASID selects (R27): the lowest-numbered valid entry with it. -/
def State.slotOf (s : State) (pasid : BitVec 20) : Option Nat :=
  (List.range 512).find? fun n =>
    let v := look s.io.ctxb n 0
    v.getLsbD 63 && bitsOf v.toNat 42 20 == pasid.toNat

/-- What the checks of R29 give for an access to queue `q`: the cause of its discard, or none. -/
def State.poolCheck (s : State) (a : HostAccess) (q : Nat) : Option Nat :=
  let slot := a.pasid.bind s.slotOf
  if a.read then some 5
  else if a.size ≠ 64 || a.data.length ≠ 64 then some 1
  else if a.offset % 64 ≠ 0 then some 2
  else if !(s.queue q).v then some 4
  else if slot == some 0 && !a.priv then some 7
  else if slot != some (s.queue q).ctx.toNat || s.torn (s.queue q).ctx.toNat then some 3
  else if s.noRoom q then some 6
  else none

/-- POOL_WINDOW_ACCESS (R28, R29, R54): from a halt on, no request is accepted and none is counted (R35). -/
def execPoolWindowAccess (s : State) : Host.Outcome State Fault Refusal :=
  match s.ev with
  | .poolWindowAccess a =>
    let q := a.offset / 4096 % 4096
    if !s.linked then .next s
    else if s.io.halted then .next (s.turnAway a)
    else
      match s.poolCheck a q with
      | none => .next (s.poolPlace q (recordOf (leNat a.data)))
      | some c =>
        let s := s.subErr c q
        let s := if c = 6 then s.dropInsert q else s
        .next (if a.read then s.reply (List.replicate a.size 0xFF) false false else s)
  | _ => .next s

/-- The context slot of a memory-window access, if it is not refused (R27, R31). -/
def State.windowSlot (s : State) (a : HostAccess) : Option Nat :=
  let slot := match a.pasid with
    | some p => s.slotOf p
    | none => if s.io.mwdef = 0 then none else some s.io.mwdef.toNat
  slot.bind fun n =>
    let v := look s.io.ctxb n 0
    if v.getLsbD 63 && v.getLsbD 62 && (n != 0 || a.priv) then some n else none

/-- The virtual address of an offset of a slot's window (R31). -/
def State.windowVa (s : State) (slot off : Nat) : Nat :=
  (bitsOf (look s.io.ctxb slot 0).toNat 24 18 * 2 ^ 39 + off) % 2 ^ 57

/-- Elements of a write (R31): each aligned 8 bytes written whole, and each 4 bytes that remain; the fuel is the number of
granules. -/
def windowElements : Nat → Nat → List Byte → List (Nat × List Byte)
  | 0, _, _ => []
  | _, _, [] => []
  | n + 1, va, l =>
    if va % 8 = 0 && 8 ≤ l.length then (va, l.take 8) :: windowElements n (va + 8) (l.drop 8)
    else (va, l.take 4) :: windowElements n (va + 4) (l.drop 4)

/-- The update of one element of a memory-window write (R31): a committed `rep`. -/
def windowEntry (ctx va : Nat) (bs : List Byte) : Entry :=
  { repGranule ctx va 0 with w := bs.length == 8, val := BitVec.ofNat 128 (leNat bs) }

/-- An earlier access of a memory window is tried again in the next cycle: later ones stand behind it (R31). -/
def State.windowLater (s : State) : Bool := s.later.any fun
  | .memoryWindowRead _ | .memoryWindowWrite _ => true
  | _ => false

/-- An access of a memory window that meets a page it cannot reach (R31, R166, R369): nothing waits for the page; the supervisor
is told of it. `none` where the access is held, at a frozen page or a 257th one. -/
def State.windowMiss (s : State) (m : LoadMiss) : Option State :=
  match m.tr with
  | .ok _ _ _ _ => some s
  | .refused c lvl v => some (s.postRefused c 5 lvl m.die noTask m.ctx m.va v)
  | .absent lvl v _ =>
    if m.held || !s.waitRoom m.die m.ctx m.va then none
    else some (s.waitOn m.die m.ctx m.va [] (supWord 1 1 5 lvl m.die noTask) (bitsOf v.toNat 0 64))

/-- MEMORY_WINDOW_WRITE (R31): a part of a 4-byte element discards the TLP and is counted; a refusal or a page that is not
resident discards it. -/
def execMemoryWindowWrite (s : State) : Host.Outcome State Fault Refusal :=
  match s.ev with
  | .memoryWindowWrite a =>
    if !s.linked || s.io.halted then .next s
    else if a.offset % 4 ≠ 0 || a.data.length % 4 ≠ 0 then .next (s.subErr 1 0)
    else
      match s.windowSlot a with
      | none => .next s
      | some ctx =>
        if s.windowLater then .next (s.defer (.memoryWindowWrite a))
        else
          let va := s.windowVa ctx a.offset
          let home := (s.route ctx va).home
          let (s, r) := s.xlate home ctx va .wr
          match r with
          | .ok _ leaf _ _ =>
            .next ((windowElements a.data.length va a.data).foldl (fun s (v, bs) =>
              s.yardTake home { windowEntry ctx v bs with ord := BitVec.ofNat 2 (leafOrd leaf) } 5) s)
          | r => .next ((s.windowMiss ⟨home, ctx, va, r, false⟩).getD (s.defer (.memoryWindowWrite a)))
  | _ => .next s

/-- MEMORY_WINDOW_READ (R31): home memory with the committed entries of the home yard; poison goes into the TLP (R175). -/
def execMemoryWindowRead (s : State) : Host.Outcome State Fault Refusal :=
  match s.ev with
  | .memoryWindowRead a =>
    if !s.linked then .next s
    else if s.io.halted then .next (s.turnAway a)
    else
      match s.windowSlot a with
      | none => .next (s.turnAway a)
      | some ctx =>
        if s.windowLater then .next (s.defer (.memoryWindowRead a))
        else
          let va := s.windowVa ctx a.offset
          let dws := ((List.range a.size).map fun i => (va + i) / 8 * 8).eraseDups
          match s.windowDws ctx dws .window with
          | (s, .error m) =>
            match s.windowMiss m with
            | some s => .next (s.turnAway a)
            | none => .next (s.defer (.memoryWindowRead a))
          | (s, .ok (ds, lost)) =>
            let granules := ((List.range a.size).map fun i => (va + i) / 4 * 4).eraseDups
            let poison := lost || granules.any fun g => (dwNum ds g 4).2
            .next (s.reply ((List.range a.size).map fun i => BitVec.ofNat 8 (dwNum ds (va + i) 1).1) poison false)
  | _ => .next s

/-- Writes the low word of a watch (R30). EN written to 0 withholds what a change of this cycle would fire; EN written to 1 comes
after such a firing, and evaluates the watch at once, or, where the counter's page is not resident, once it is. -/
def State.watchSet (s : State) (n : Nat) (en : Bool) (f : BitVec 128 → BitVec 128) : State :=
  let due := find? s.io.watchDue n
  let s := s.modIo fun io => { io with watchDue := del io.watchDue n }
  let s := match due with
    | some can => if en then s.fireAs n can else s
    | none => s
  let s := s.modIo fun io => { io with watch := Machine.put io.watch n (f (look io.watch n 0)) }
  let w := f (look s.io.watch n 0)
  let ctx := bitsOf w.toNat 32 9
  let k := bitsOf w.toNat 0 32
  if !en then s
  else
    match s.engTr ctx (s.ctrAt ctx k) with
    | .absent _ _ _ => s.push [.counterOperation ⟨BitVec.ofNat 9 ctx, BitVec.ofNat 32 k, .counted 0 0, noNode, 0⟩]
    | _ => s.fireWatch n

/-- WATCH_ARM (R30). -/
def execWatchArm (s : State) : Host.Outcome State Fault Refusal :=
  match s.ev with
  | .watchArm n => .next (if s.linked && n < 256 then s.watchSet n true fun w => w ||| BitVec.ofNat 128 (2 ^ 63) else s)
  | _ => .next s

/-- A write of the low word of a watch (R30): EN, CTX and INDEX are written, a 1 clears FIRED, CAN stays. -/
def watchWrite (old : BitVec 128) (v : Word) : BitVec 128 :=
  BitVec.ofNat 128 (bitsOf old.toNat 64 11 * 2 ^ 64 + bitsOf v.toNat 63 1 * 2 ^ 63
    + (if v.getLsbD 62 then 0 else bitsOf old.toNat 62 1) * 2 ^ 62 + bitsOf old.toNat 61 1 * 2 ^ 61
    + bitsOf v.toNat 32 9 * 2 ^ 32 + bitsOf v.toNat 0 32)

/-- A write of half of an MSI-X vector: a vector that is unmasked with its pending bit set is sent (log 13). -/
def State.msixWrite (s : State) (n part : Nat) (v : Word) : State :=
  let old := look s.io.msix n msixReset
  let new : BitVec 128 := if part = 0 then BitVec.ofNat 128 (bitsOf old.toNat 64 64 * 2 ^ 64 + v.toNat)
    else BitVec.ofNat 128 (v.toNat * 2 ^ 64 + bitsOf old.toNat 0 64)
  let s := s.modIo fun io => { io with msix := Machine.put io.msix n new }
  if !new.getLsbD 96 && s.io.pba.getLsbD n then
    (s.modIo fun io => { io with pba := io.pba &&& ~~~(BitVec.ofNat 2048 (2 ^ n)) }).sendMsi n
  else s

/-- A write of the command word (R36): ignored while a command runs. STATUS is zero until it is valid (DESIGN CHOICE, log 42: R36
does not say what it holds while BUSY = 1). -/
def State.hcmdWrite (s : State) (v : Word) : State :=
  if s.hcmdBusy then s
  else (s.modIo fun io => { io with hcmd := BitVec.ofNat 64 (2 ^ 63 + bitsOf v.toNat 0 12) }).hcmdStart

/-- A field written by W1C: any 1 clears it whole (R4, R21, R29). -/
def w1c {w : Nat} (old : BitVec w) (v : Nat) : BitVec w := if v = 0 then old else 0

/-- The place of the mailbox's payload in the control window, and its bytes (R36). -/
def hcmdAt : Nat := 0x4100

/-- A write of 8 bytes at an offset of the control window (R26): an offset that names no register, or no 8 bytes of one, and a
read-only register, ignore it. The payload of the mailbox may be written at any time (DESIGN CHOICE, log 42). -/
def State.controlWrite (s : State) (off : Nat) (v : Word) : State :=
  let i := off / 8
  if off % 8 ≠ 0 then s
  else if off = 0x18 then s.modIo fun io => { io with mwdef := v.setWidth 9 }
  else if off = 0x20 then s.modIo fun io => { io with suberrCount := w1c io.suberrCount (bitsOf v.toNat 48 16) }
  else if off / 0x1000 = 1 then
    s.modIo fun io => { io with ctxb := Machine.put io.ctxb (i % 512) (v &&& 0xFFFFFFFFFF000000) }
  else if off / 0x1000 = 2 then
    let n := off / 16 % 256
    if off % 16 = 0 then s.watchSet n (v.getLsbD 63) fun w => watchWrite w v
    else
      s.modIo fun io =>
        { io with
          watch := Machine.put io.watch n (BitVec.ofNat 128
            (bitsOf v.toNat 0 11 * 2 ^ 64 + bitsOf (look io.watch n 0).toNat 0 64)) }
  else if off = 0x4000 then s.hcmdWrite v
  else if hcmdAt ≤ off && off < 0x5000 then
    s.modIo fun io => { io with hcmdBuf := Memory.writeN io.hcmdBuf (off - hcmdAt) (leBytes 8 v.toNat) }
  else if off / 0x8000 = 2 then s.msixWrite (off / 16 % 2048) (i % 2) v
  else s

/-- What a read of 8 bytes at an offset of the control window gives (R26 to R30, R33, R35, R36): an offset that names no register
reads zero. -/
def State.controlRead (s : State) (off : Nat) : Word :=
  let io := s.io
  let half (v : BitVec 128) : Word := BitVec.ofNat 64 (bitsOf v.toNat (64 * (off / 8 % 2)) 64)
  if off % 8 ≠ 0 then 0
  else if off = 0 then Config.ident
  else if off = 0x08 then io.ready.setWidth 64
  else if off = 0x10 then io.bootst
  else if off = 0x18 then io.mwdef.setWidth 64
  else if off = 0x20 then
    BitVec.ofNat 64 (io.suberrCount.toNat * 2 ^ 48 + io.suberrCause.toNat * 2 ^ 44 + io.suberrQueue.toNat * 2 ^ 32)
  else if off / 0x1000 = 1 then look io.ctxb (off / 8 % 512) 0
  else if off / 0x1000 = 2 then half (look io.watch (off / 16 % 256) 0)
  else if off = 0x4000 then io.hcmd
  else if hcmdAt ≤ off && off < 0x5000 then BitVec.ofNat 64 (Memory.num io.hcmdBuf (off - hcmdAt) 8)
  else if off / 0x8000 = 2 then half (look io.msix (off / 16 % 2048) msixReset)
  else if off / 0x100 = 0x180 then BitVec.ofNat 64 (bitsOf io.pba.toNat (8 * (off % 0x100)) 64)
  else 0

/-- REGISTER_WRITE (R4, R19, R21, R26, R27, R29, R30, R36): the control window answers once the link is trained (R32). -/
def execRegisterWrite (s : State) : Host.Outcome State Fault Refusal :=
  match s.ev with
  | .registerWrite r v =>
    match r with
    | .bar0 off => .next (if s.linked then s.controlWrite off v else s)
    | .route n =>
      .next (if s.power && n < 1024 then
        s.modIo fun io => { io with route := Machine.put io.route n (v.setWidth 16 &&& 0xC0FF) } else s)
    | .lnkst n =>
      .next (if s.power && n < 16 then
        s.modPort n fun p => { p with replays := w1c p.replays (bitsOf v.toNat 16 8), errs := w1c p.errs (bitsOf v.toNat 0 16) }
        else s)
  | _ => .next s

/-- Payload of the mailbox (R36; log 42). -/
def State.payload (s : State) (off n : Nat) : List Byte := Memory.readN s.io.hcmdBuf off n

/-- The slot number that a payload begins with (log 42). -/
def State.payloadSlot (s : State) : Nat := leNat (s.payload 0 8)

/-- A result of a command, as far as the mailbox holds it, with STATUS 0. -/
def State.result (s : State) (bs : List Byte) : State :=
  (s.modIo fun io => { io with hcmdBuf := Memory.writeN io.hcmdBuf 0 (bs.take 0xF00) }).hcmdEnd 0

/-- A command runs (R36): `code` is the one that the mailbox holds, and Dolzia is there. -/
def State.command (s : State) (code : Nat) (run : State → State) : Host.Outcome State Fault Refusal :=
  if s.dolzia && s.hcmdBusy && s.hcmdCode == code then .next (run s) else .next s

/-- The items that QUOTE signs (R36). -/
def State.quoted (s : State) : List Byte :=
  s.payload 0 32 ++ ((List.range 8).flatMap fun m => leBytes 64 (look s.io.mreg m 0).toNat)
    ++ leBytes 2 s.io.partNo.toNat ++ leBytes 8 Config.ident.toNat

/-- QUOTE (R36). -/
def execQuote (s : State) : Host.Outcome State Fault Refusal :=
  s.command 0x001 fun s => s.result (signature s.quoted ++ s.quoted)

/-- IDCERT (R36). -/
def execIdcert (s : State) : Host.Outcome State Fault Refusal :=
  s.command 0x002 fun s => s.result (Config.certificate 0)

/-- The part's per-boot X25519 private key (R36; log 7). -/
def State.bootPrivate (s : State) : List Byte := (leBytes 64 (Config.hearthBytes (2 * s.io.bootKeyId)).toNat).take 32

/-- The part's per-boot X25519 public key (R36). -/
def State.bootPublic (s : State) : List Byte := Crypto.x25519 s.bootPrivate (leBytes 32 9)

/-- KEYXCH (R36): a transport key is agreed with the host's key; the part's key is signed. -/
def execKeyxch (s : State) : Host.Outcome State Fault Refusal :=
  s.command 0x010 fun s =>
    let shared := Crypto.x25519 s.bootPrivate (s.payload 0 32)
    (s.modIo fun io => { io with transport := some (BitVec.ofNat 256 (leNat shared)) }).result
      (s.bootPublic ++ Crypto.signEd identity s.bootPublic)

/-- A command that fills an empty key slot (R37); the slot is checked first. A slot number of 4,096 or more is a bad payload
(DESIGN CHOICE, log 42: R37 names no STATUS for it). -/
def State.fillSlot (s : State) (run : State → Nat → State) : State :=
  let n := s.payloadSlot
  if n = 0 then s.hcmdEnd 3
  else if 4096 ≤ n then s.hcmdEnd 2
  else if (find? s.io.keySlots n).isSome then s.hcmdEnd 3
  else run s n

/-- A key slot holds a key. -/
def State.setSlot (s : State) (n : Nat) (key : BitVec 512) : State :=
  s.modIo fun io => { io with keySlots := Machine.put io.keySlots n key }

/-- KEYIMPORT (R36, R37): a payload that does not unwrap under the transport key is a bad one; so it is where no KEYXCH of this boot
has agreed one (DESIGN CHOICE, log 42: R36 names no STATUS for it). -/
def execKeyimport (s : State) : Host.Outcome State Fault Refusal :=
  s.command 0x011 fun s => s.fillSlot fun s n =>
    match s.io.transport with
    | none => s.hcmdEnd 2
    | some k =>
      match Crypto.unwrap (leBytes 32 k.toNat) (s.payload 8 72) with
      | some key => (s.setSlot n (BitVec.ofNat 512 (leNat key))).hcmdEnd 0
      | none => s.hcmdEnd 2

/-- KEYGEN (R36, R37). -/
def execKeygen (s : State) : Host.Outcome State Fault Refusal :=
  s.command 0x012 fun s => s.fillSlot fun s n =>
    (s.tick.setSlot n (Config.hearthBytes (2 * s.fresh + 1))).hcmdEnd 0

/-- The page of a key names a key slot. -/
def State.namesSlot (s : State) (n : Nat) (key : Word) : Bool :=
  match s.walk (keyCtx key.toNat) (keyVa key.toNat) .none with
  | .ok _ leaf _ _ => bitsOf leaf.toNat 108 12 == n
  | _ => false

/-- Entries of a yard whose pages name a key slot. -/
def State.slotEntries (s : State) (die n : Nat) : List Entry := (s.dieAt die).all.filter fun e => s.namesSlot n e.key

/-- Aborts the tasks that hold tentative entries of a key slot's pages, but for those whose prepare has succeeded (R38); so too the
task of a unit that is saved exactly (R66). -/
def State.eraseAborts (s : State) (n : Nat) : State :=
  let tasks := (((List.range 4).flatMap fun d => s.slotEntries d n).filter (·.tent)).foldl
    (fun l e => insertNat e.task.toNat l) []
  tasks.foldl (fun s t =>
    let tok := BitVec.ofNat 40 t
    let x := s.thr (tokCore tok) (tokSlot tok)
    if s.taskLive tok then
      (if x.flip != some tok && x.commit != .prepared then s.abort (tokCore tok) (tokSlot tok) .keyErase else s)
    else
      match s.abortSaved tok with
      | (s, some r) => s.insertHeld r
      | (s, none) => s) s

/-- Applies every committed entry of a key slot's pages, of every class (R38). -/
def State.eraseApply (s : State) (n : Nat) : State :=
  (List.range 4).foldl (fun s d =>
    let s := (keysOf (s.slotEntries d n)).foldl (fun s key => s.applyKey d key fun _ => true) s
    (s.slotEntries d n).foldl (fun s e => if e.op.isFx then s.applyFx d e else s) s) s

/-- The home caches drop what they hold of a key slot's pages (R38): so the read replicas go (R168). -/
def State.dropCopies (s : State) (n : Nat) : State :=
  let keep (r : Replica) : Bool := !s.namesSlot n (BitVec.ofNat 64 (keyOf r.ctx (4096 * r.page)))
  { s with dies := s.dies.map fun (d, x) => (d, { x with replicas := x.replicas.filter keep }) }

/-- KEYERASE (R38): flips of prepared tasks, and loads that still mark an entry, are waited for; meanwhile the slot number is read from
the payload as it then stands (DESIGN CHOICE, log 42). A slot that is empty already ends with STATUS 0 (DESIGN CHOICE, log 42:
R38 names no other), and a number of 4,096 or more is a bad payload (log 42). -/
def execKeyerase (s : State) : Host.Outcome State Fault Refusal :=
  s.command 0x013 fun s =>
    let n := s.payloadSlot
    if n = 0 then s.hcmdEnd 3
    else if 4096 ≤ n then s.hcmdEnd 2
    else
      let s := s.eraseAborts n
      let left := (List.range 4).flatMap fun d => s.slotEntries d n
      if left.any fun e => e.tent || s.yardMarked e.key then s.defer .keyerase
      else ((((s.eraseApply n).dropCopies n).modIo fun io => { io with keySlots := del io.keySlots n }).hcmdEnd 0).retryMoves

/-- LIFEREAD (R36): not while Redfish is served the same section. Every section number has a section (DESIGN CHOICE, log 42: R36 does
not say which numbers there are). -/
def execLiferead (s : State) : Host.Outcome State Fault Refusal :=
  s.command 0x020 fun s =>
    let n := s.payloadSlot
    if s.io.redfishSection == some n then s.hcmdEnd 4 else s.result (s.lifeBytes n)

end Sys2Proof.Machine
end

