-- ==== Sys2Proof/Machine/Clock.lean ====
section
/-! DEFINITION. What is due when no event is under way: one sweep over the cores and the units around them is one cycle
(R2, R5). An order among what is due in one cycle is the model's choice (log 43). -/

namespace Sys2Proof.Machine

/-- Events due at a core's slots: commit points that wait (R122, R179), graces that ended (R64), units to be restored
(R66). -/
def State.slotEvents (s : State) (n : Nat) : List Ev :=
  (s.coreAt n).slots.flatMap fun (k, t) =>
    (if t.commit == .preparing && t.forwarded then [.commitPrepare n k] else [])
      ++ (if t.leaveBy.any fun c => c ≤ s.now then [.vacateGraceExpiry n k] else [])
      ++ (if t.cr.pin && t.wait == .started then [.exactRestore n k] else [])

/-- Events due at a core's stall run (R107): they are judged at the end of a cycle, after its stores and register writes (R132,
R249). -/
def State.stallEvents (s : State) (n : Nat) : List Ev :=
  let c := s.coreAt n
  if c.stall.isEmpty || !s.shedOpen (clusterOf n) then []
  else if c.stallhw.toNat ≤ c.stall.length then [.stallHighwaterMoveout n]
  else if c.stall.any fun e => e.age + c.stallage.toNat ≤ s.now then [.stallAgeMoveout n]
  else []

/-- Blocks due at a core's copy channels (R92, R323). -/
def State.chanEvents (s : State) (n : Nat) : List Ev :=
  (s.coreAt n).chan.filterMap fun (i, c) =>
    if c.busy && !c.st.getLsbD 252 && c.waits.isNone then some (.copyBlockDelivery n i) else none

/-- Messages that a core's router sends again, every 64 cycles (R95). -/
def State.mailEvents (s : State) (n : Nat) : List Ev :=
  if s.now % 64 ≠ 0 then []
  else ((s.coreAt n).outbox.filter fun m => (s.thr n m.slot).forwarded).map fun m => .mailboxRetry n m.slot

/-- Collectives of a core whose messages have come (R330). -/
def State.collEvents (s : State) (n : Nat) : List Ev :=
  if s.io.collHeld.isEmpty then [] else (s.coreAt n).colls.map fun c => .collectiveReceiveStep n c.slot

/-- A core's events in its turn of a cycle: its pipes take up an instruction (R73), and its barrel issues one (R72). -/
def State.coreEvents (s : State) (n : Nat) : List Ev :=
  s.slotEvents n ++ s.chanEvents n ++ s.mailEvents n ++ s.collEvents n
    ++ (if (s.copGo n).isSome then [.coprocessorDispatch n] else []) ++ [.barrelIssue n]

/-- Releases that `fence.ar` started on a core go on (R144). -/
def State.arSteps (s : State) (n : Nat) : State :=
  (s.coreAt n).slots.foldl (fun s (k, t) => if t.arRel.isSome then s.arStep n k else s) s

/-- Exchanges of a cluster that are full, as its other cores have been vacated or killed; they complete before an abort of the
cycle (R94, R292, R297). -/
def State.exchEvents (s : State) (cl : Nat) : List Ev :=
  ((s.clusterAt cl).exch.filter (s.xmaxFull cl)).map fun x => .xmaxExchangeComplete cl x.n

/-- Events due at a cluster (R80, R106, R108). -/
def State.clusterEvents (s : State) (cl : Nat) : List Ev :=
  let c := s.clusterAt cl
  let old := c.shed.filter fun e => e.age + 4096 ≤ s.now && !c.blocked.contains e.key.toNat
  ((keysOf old).map fun k => .shedAgeMoveout cl k) ++ (c.blocked.map fun k => .shedMoveRetry cl (BitVec.ofNat 64 k))
    ++ (if 6144 ≤ c.shed.length then [.shedFillMoveout cl] else [])
    ++ (if !c.longQ.isEmpty && c.freeLong.isSome then [.longContextGrant cl] else [])

/-- Entries held at a yard's input are tried again, in order (R104, R106, R170). -/
def State.heldRetry (s : State) (die : Nat) : State :=
  (s.dieAt die).heldAt.foldl (fun s (e, acc) => s.yardTake die e acc) (s.modDie die fun d => { d with heldAt := [] })

/-- Queues that have a held insert which can enter, or which the queue refuses (R54). -/
def State.dueQueues (s : State) : List Nat :=
  s.heldQueues.filter fun q => !s.noRoom q || s.io.held.any fun x => x.queue == q && !s.queueOk q x.cr.ctx.toNat

/-- Events due at the I/O die. -/
def State.ioEvents (s : State) : List Ev :=
  let io := s.io
  (s.dueQueues.map .heldInsertEntry) ++ (if io.nodeReady.isEmpty then [] else [.nodeReadyInsert])
    ++ (if s.readyBit 31 && !io.pool.isEmpty then [.dispatcherCycle] else [])
    ++ ((io.vacates.filter fun v => !v.reported && s.rectEmpty v.word0.toNat).map fun v => .rectangleEmpty v.word0)
    ++ ((io.migr.filter (·.begun)).map fun m => .migrationComplete m.ctx m.va) ++ ((io.teardown.filter fun c => (look io.ptbr c 0).getLsbD 63).map .teardownComplete)
    ++ (if io.scrubAt * 2 ^ 41 ≤ s.now * sectorCount then [.scrub] else [])
    ++ (if io.lifeDue ≤ s.now then [.lifetimeRecordWrite] else [])
    ++ (io.ports.filterMap fun (p, x) =>
      if x.up && !x.kept.isEmpty && x.ackAt + 65536 ≤ s.now then some (.ackTimeout p) else none)

/-- Deferred entries that an apply point has marked, and that a read mark or a 257th page has kept, are applied (R115, R118,
R166). -/
def State.markedRetry (s : State) (die : Nat) : State :=
  let d := s.dieAt die
  ((d.blocks.flatten ++ d.dset).filter fun e =>
    e.mark && e.op.isFx && !s.yardMarked e.key && !d.waits.any (·.isPage e.ctx e.va)).foldl (fun s e => s.applyFx die e) s

/-- A thread that holds for a page of a list, or for a frozen one, goes on holding (R46, R166, R170). -/
def State.stillHeld (s : State) (n k : Nat) (w : Wait) : Bool :=
  match w with
  | .page die ctx va =>
    let d := s.dieAt die
    d.isFrozen ctx va || d.waits.any fun l => l.isPage ctx va && l.items.any (· == .thread n k)
  | _ => true

/-- Threads that a frozen page or a 257th one has held try again (R166, R170). -/
def State.pageRetry (s : State) : State :=
  { s with
    cores := s.cores.map fun (n, c) =>
      (n, { c with
        threads := c.threads.map fun (k, t) => (k, if s.stillHeld n k t.wait then t else { t with wait := .none }) }) }

/-- What the end of a cycle settles: the watches that its changes fire (R30), the records of sectors lost (R175), what was held at a
yard or for a page, and the freezes of the migrations that it has started (R183). -/
def State.settle (s : State) : State :=
  let s := s.watchEnd.postLost
  let s := s.io.heldPosts.foldl (fun s (ctx, w) => s.postMergeWords ctx w) (s.modIo fun io => { io with heldPosts := [] })
  let s := s.dies.foldl (fun s (d, x) => if x.heldAt.isEmpty then s else s.heldRetry d) s
  let s := s.dies.foldl (fun s (d, _) => (s.markedRetry d).yardFill d) s
  ((s.io.migr.filter fun m => !m.begun).foldl State.migrBegin s).pageRetry

/-- The end of a cycle: what it settles, the moves of stall runs that are due, and the exchanges that are full; then what waited for
the end of the turns or for the next cycle, and what is due around the cores. The flue's visit is the first event of the next
cycle (R183). -/
def State.wrap (s : State) : State :=
  let s := s.settle
  let due := (if s.io.flue.isSome then [.fluePageVisit] else []) ++ (s.cores.flatMap fun (n, _) => s.stallEvents n)
    ++ s.clusters.flatMap fun (cl, _) => s.exchEvents cl
  let s : State :=
    { s with
      turn := 0, now := s.now + 1, agenda := due ++ s.agenda ++ s.later, later := []
      io := { s.io with lifeBusy := false, redfishSection := none, refused := [] } }
  s.push ((s.clusters.flatMap fun (cl, _) => s.clusterEvents cl) ++ s.ioEvents)

/-- The next core whose turn of this cycle has not come. -/
def State.nextCore (s : State) : Option Nat := (s.cores.find? fun x => s.turn ≤ x.1).map (·.1)

/-- No event is under way: power comes (R12), the hearth cores act on the junctions (R13), the boot goes on (R32), a halted part
stands still (R35), the next core has its turn, or the cycle ends. -/
def State.refill (s : State) : State :=
  if !s.power then s.push [.powerOn]
  else if s.thermal.isSome then s.push s.thermal.toList
  else if s.io.halted then { s with now := s.now + 1 }
  else if !s.io.bootDone then s.push [.bootStepComplete]
  else
    match s.nextCore with
    | some n => let s := ({ s with turn := n + 1 } : State).arSteps n; s.push (s.coreEvents n)
    | none => s.wrap

end Sys2Proof.Machine
end

