-- ==== Sys2Proof/Machine/Scalar.lean ====
section
/-! DEFINITION. The scalar instructions: arithmetic, logic, shifts, bit fields, addresses, compares, predicates, moves and
keys (R231 to R239). -/

namespace Sys2Proof.Machine

/-- Quotient towards zero; a zero divisor gives all ones (R232). -/
def divT (w : Nat) (a b : Int) : Int := if b = 0 then 2 ^ w - 1 else a.tdiv b
/-- Remainder of the quotient towards zero; a zero divisor gives the dividend (R232). -/
def remT (a b : Int) : Int := if b = 0 then a else a - b * a.tdiv b

/-- ADD (R232). -/
def execAdd (ty : Ty) (a b c : XReg) (s : State) : Host.Outcome State Fault Refusal := s.alu ty (· + ·) a b c
/-- SUB (R232). -/
def execSub (ty : Ty) (a b c : XReg) (s : State) : Host.Outcome State Fault Refusal := s.alu ty (· - ·) a b c
/-- MUL (R232). -/
def execMul (ty : Ty) (a b c : XReg) (s : State) : Host.Outcome State Fault Refusal := s.alu ty (· * ·) a b c
/-- MULH: the upper half of the exact product (R232). -/
def execMulh (ty : Ty) (a b c : XReg) (s : State) : Host.Outcome State Fault Refusal :=
  s.alu ty (fun x y => (x * y) / 2 ^ ty.width) a b c
/-- DIV; a zero divisor sets DZ when the dividend is not zero (R232). -/
def execDiv (ty : Ty) (a b c : XReg) (s : State) : Host.Outcome State Fault Refusal :=
  let dz := ty.opnd (s.x c) = 0 && ty.opnd (s.x b) ≠ 0
  (s.orFlags (flagIf dz Flags.dz)).alu ty (divT ty.width) a b c
/-- REM (R232). -/
def execRem (ty : Ty) (a b c : XReg) (s : State) : Host.Outcome State Fault Refusal := s.alu ty remT a b c
/-- MIN (R232). -/
def execMin (ty : Ty) (a b c : XReg) (s : State) : Host.Outcome State Fault Refusal := s.alu ty min a b c
/-- MAX (R232). -/
def execMax (ty : Ty) (a b c : XReg) (s : State) : Host.Outcome State Fault Refusal := s.alu ty max a b c
/-- ABS (R232). -/
def execAbs (ty : Ty) (a b : XReg) (s : State) : Host.Outcome State Fault Refusal :=
  s.alu1 ty (fun x => (x.natAbs : Int)) a b
/-- ADD with an immediate (R232). -/
def execAddImm (ty : Ty) (a b : XReg) (imm : Word) (s : State) : Host.Outcome State Fault Refusal :=
  s.aluImm ty (· + ·) a b imm
/-- SUB with an immediate (R232). -/
def execSubImm (ty : Ty) (a b : XReg) (imm : Word) (s : State) : Host.Outcome State Fault Refusal :=
  s.aluImm ty (· - ·) a b imm
/-- MUL with an immediate (R232). -/
def execMulImm (ty : Ty) (a b : XReg) (imm : Word) (s : State) : Host.Outcome State Fault Refusal :=
  s.aluImm ty (· * ·) a b imm
/-- MIN with an immediate (R232). -/
def execMinImm (ty : Ty) (a b : XReg) (imm : Word) (s : State) : Host.Outcome State Fault Refusal :=
  s.aluImm ty min a b imm
/-- MAX with an immediate (R232). -/
def execMaxImm (ty : Ty) (a b : XReg) (imm : Word) (s : State) : Host.Outcome State Fault Refusal :=
  s.aluImm ty max a b imm

/-- Complement of a number within the type's width. -/
def notIn (ty : Ty) (n : Nat) : Nat := 2 ^ ty.width - 1 - n % 2 ^ ty.width

/-- AND (R233). -/
def execAnd (ty : Ty) (a b c : XReg) (s : State) : Host.Outcome State Fault Refusal :=
  s.logic ty (· &&& ·) a (s.x b) (s.x c)
/-- OR (R233). -/
def execOr (ty : Ty) (a b c : XReg) (s : State) : Host.Outcome State Fault Refusal :=
  s.logic ty (· ||| ·) a (s.x b) (s.x c)
/-- XOR (R233). -/
def execXor (ty : Ty) (a b c : XReg) (s : State) : Host.Outcome State Fault Refusal :=
  s.logic ty (· ^^^ ·) a (s.x b) (s.x c)
/-- ANDN (R233). -/
def execAndn (ty : Ty) (a b c : XReg) (s : State) : Host.Outcome State Fault Refusal :=
  s.logic ty (fun x y => x &&& notIn ty y) a (s.x b) (s.x c)
/-- ORN (R233). -/
def execOrn (ty : Ty) (a b c : XReg) (s : State) : Host.Outcome State Fault Refusal :=
  s.logic ty (fun x y => x ||| notIn ty y) a (s.x b) (s.x c)
/-- XNOR (R233). -/
def execXnor (ty : Ty) (a b c : XReg) (s : State) : Host.Outcome State Fault Refusal :=
  s.logic ty (fun x y => notIn ty (x ^^^ y)) a (s.x b) (s.x c)
/-- AND with an immediate (R233). -/
def execAndImm (ty : Ty) (a b : XReg) (imm : Word) (s : State) : Host.Outcome State Fault Refusal :=
  s.logic ty (· &&& ·) a (s.x b) imm
/-- OR with an immediate (R233). -/
def execOrImm (ty : Ty) (a b : XReg) (imm : Word) (s : State) : Host.Outcome State Fault Refusal :=
  s.logic ty (· ||| ·) a (s.x b) imm
/-- XOR with an immediate (R233). -/
def execXorImm (ty : Ty) (a b : XReg) (imm : Word) (s : State) : Host.Outcome State Fault Refusal :=
  s.logic ty (· ^^^ ·) a (s.x b) imm

/-- Shift left. -/
def shl (_w x k : Nat) : Int := ((x * 2 ^ k : Nat) : Int)
/-- Logical shift right. -/
def shr (_w x k : Nat) : Int := ((x / 2 ^ k : Nat) : Int)
/-- Arithmetic shift right. -/
def sar (w x k : Nat) : Int := toSigned w x / 2 ^ k
/-- Rotation left. -/
def rotl (w x k : Nat) : Int := ((x * 2 ^ k % 2 ^ w + x / 2 ^ (w - k) : Nat) : Int)
/-- Rotation right. -/
def rotr (w x k : Nat) : Int := rotl w x ((w - k) % w)

/-- SLL (R233). -/
def execSll (ty : Ty) (a b c : XReg) (s : State) : Host.Outcome State Fault Refusal := s.shift ty shl a (s.x b) (s.x c)
/-- SRL (R233). -/
def execSrl (ty : Ty) (a b c : XReg) (s : State) : Host.Outcome State Fault Refusal := s.shift ty shr a (s.x b) (s.x c)
/-- SRA (R233). -/
def execSra (ty : Ty) (a b c : XReg) (s : State) : Host.Outcome State Fault Refusal := s.shift ty sar a (s.x b) (s.x c)
/-- ROL (R233). -/
def execRol (ty : Ty) (a b c : XReg) (s : State) : Host.Outcome State Fault Refusal := s.shift ty rotl a (s.x b) (s.x c)
/-- ROR (R233). -/
def execRor (ty : Ty) (a b c : XReg) (s : State) : Host.Outcome State Fault Refusal := s.shift ty rotr a (s.x b) (s.x c)
/-- SLL by an immediate (R233). -/
def execSllImm (ty : Ty) (a b : XReg) (imm : Word) (s : State) : Host.Outcome State Fault Refusal :=
  s.shift ty shl a (s.x b) imm
/-- SRL by an immediate (R233). -/
def execSrlImm (ty : Ty) (a b : XReg) (imm : Word) (s : State) : Host.Outcome State Fault Refusal :=
  s.shift ty shr a (s.x b) imm
/-- SRA by an immediate (R233). -/
def execSraImm (ty : Ty) (a b : XReg) (imm : Word) (s : State) : Host.Outcome State Fault Refusal :=
  s.shift ty sar a (s.x b) imm
/-- ROL by an immediate (R233). -/
def execRolImm (ty : Ty) (a b : XReg) (imm : Word) (s : State) : Host.Outcome State Fault Refusal :=
  s.shift ty rotl a (s.x b) imm
/-- ROR by an immediate (R233). -/
def execRorImm (ty : Ty) (a b : XReg) (imm : Word) (s : State) : Host.Outcome State Fault Refusal :=
  s.shift ty rotr a (s.x b) imm

/-- Position and length of a bit field (R234). -/
def fieldAt (xp xl : Word) : Nat × Nat :=
  let pos := bitsOf xp.toNat 0 6
  (pos, min (bitsOf xl.toNat 0 7) (64 - pos))

/-- BEXT (R234). -/
def execBext (_ty : Ty) (a b c d : XReg) (s : State) : Host.Outcome State Fault Refusal :=
  let (pos, len) := fieldAt (s.x c) (s.x d)
  let f := bitsOf (s.x b).toNat pos len
  .next (s.wx a (if len = 0 then 0 else BitVec.ofInt 64 (toSigned len f))).retire
/-- BEXTZ (R234). -/
def execBextz (_ty : Ty) (a b c d : XReg) (s : State) : Host.Outcome State Fault Refusal :=
  let (pos, len) := fieldAt (s.x c) (s.x d)
  .next (s.wx a (BitVec.ofNat 64 (bitsOf (s.x b).toNat pos len))).retire
/-- BINS: the destination is a source too (R234). -/
def execBins (_ty : Ty) (a b c d : XReg) (s : State) : Host.Outcome State Fault Refusal :=
  let (pos, len) := fieldAt (s.x c) (s.x d)
  let old := (s.x a).toNat
  let v := old - bitsOf old pos len * 2 ^ pos + bitsOf (s.x b).toNat 0 len * 2 ^ pos
  .next (s.wx a (BitVec.ofNat 64 v)).retire

/-- Trailing zeros within `w` bits. -/
def ctzN : Nat → Nat → Nat
  | 0, _ => 0
  | w + 1, n => if n % 2 = 1 then 0 else 1 + ctzN w (n / 2)
/-- Ones within `w` bits. -/
def popN : Nat → Nat → Nat
  | 0, _ => 0
  | w + 1, n => n % 2 + popN w (n / 2)

/-- CLZ (R234). -/
def execClz (ty : Ty) (a b : XReg) (s : State) : Host.Outcome State Fault Refusal :=
  let n := (s.x b).toNat % 2 ^ ty.width
  .next (s.wx a (BitVec.ofNat 64 (if n = 0 then ty.width else ty.width - 1 - n.log2))).retire
/-- CTZ (R234). -/
def execCtz (ty : Ty) (a b : XReg) (s : State) : Host.Outcome State Fault Refusal :=
  .next (s.wx a (BitVec.ofNat 64 (ctzN ty.width ((s.x b).toNat % 2 ^ ty.width)))).retire
/-- POPC (R234). -/
def execPopc (ty : Ty) (a b : XReg) (s : State) : Host.Outcome State Fault Refusal :=
  .next (s.wx a (BitVec.ofNat 64 (popN ty.width (s.x b).toNat))).retire
/-- BSWAP (R234). -/
def execBswap (ty : Ty) (a b : XReg) (s : State) : Host.Outcome State Fault Refusal :=
  .next (s.wx a (ty.res ((leNat (leBytes ty.bytes (s.x b).toNat).reverse : Nat) : Int))).retire

/-- LEA (R235). -/
def execLea (a b c : XReg) (isc : BitVec 3) (s : State) : Host.Outcome State Fault Refusal :=
  .next (s.wx a (s.x b + s.x c * BitVec.ofNat 64 (2 ^ isc.toNat))).retire

/-- CMP.EQ (R236). -/
def execCmpEq (ty : Ty) (a : PReg) (b c : XReg) (s : State) : Host.Outcome State Fault Refusal :=
  s.cmp ty (fun x y => x == y) a (s.x b) (s.x c)
/-- CMP.NE (R236). -/
def execCmpNe (ty : Ty) (a : PReg) (b c : XReg) (s : State) : Host.Outcome State Fault Refusal :=
  s.cmp ty (fun x y => x != y) a (s.x b) (s.x c)
/-- CMP.LT (R236). -/
def execCmpLt (ty : Ty) (a : PReg) (b c : XReg) (s : State) : Host.Outcome State Fault Refusal :=
  s.cmp ty (fun x y => decide (x < y)) a (s.x b) (s.x c)
/-- CMP.LE (R236). -/
def execCmpLe (ty : Ty) (a : PReg) (b c : XReg) (s : State) : Host.Outcome State Fault Refusal :=
  s.cmp ty (fun x y => decide (x ≤ y)) a (s.x b) (s.x c)
/-- CMP.GT (R236). -/
def execCmpGt (ty : Ty) (a : PReg) (b c : XReg) (s : State) : Host.Outcome State Fault Refusal :=
  s.cmp ty (fun x y => decide (y < x)) a (s.x b) (s.x c)
/-- CMP.GE (R236). -/
def execCmpGe (ty : Ty) (a : PReg) (b c : XReg) (s : State) : Host.Outcome State Fault Refusal :=
  s.cmp ty (fun x y => decide (y ≤ x)) a (s.x b) (s.x c)
/-- CMP.EQ with an immediate (R236). -/
def execCmpEqImm (ty : Ty) (a : PReg) (b : XReg) (imm : Word) (s : State) : Host.Outcome State Fault Refusal :=
  s.cmp ty (fun x y => x == y) a (s.x b) imm
/-- CMP.NE with an immediate (R236). -/
def execCmpNeImm (ty : Ty) (a : PReg) (b : XReg) (imm : Word) (s : State) : Host.Outcome State Fault Refusal :=
  s.cmp ty (fun x y => x != y) a (s.x b) imm
/-- CMP.LT with an immediate (R236). -/
def execCmpLtImm (ty : Ty) (a : PReg) (b : XReg) (imm : Word) (s : State) : Host.Outcome State Fault Refusal :=
  s.cmp ty (fun x y => decide (x < y)) a (s.x b) imm
/-- CMP.LE with an immediate (R236). -/
def execCmpLeImm (ty : Ty) (a : PReg) (b : XReg) (imm : Word) (s : State) : Host.Outcome State Fault Refusal :=
  s.cmp ty (fun x y => decide (x ≤ y)) a (s.x b) imm
/-- CMP.GT with an immediate (R236). -/
def execCmpGtImm (ty : Ty) (a : PReg) (b : XReg) (imm : Word) (s : State) : Host.Outcome State Fault Refusal :=
  s.cmp ty (fun x y => decide (y < x)) a (s.x b) imm
/-- CMP.GE with an immediate (R236). -/
def execCmpGeImm (ty : Ty) (a : PReg) (b : XReg) (imm : Word) (s : State) : Host.Outcome State Fault Refusal :=
  s.cmp ty (fun x y => decide (y ≤ x)) a (s.x b) imm

/-- PAND (R237). -/
def execPand (a b c : PReg) (s : State) : Host.Outcome State Fault Refusal :=
  .next (s.wp a (s.me.pred b && s.me.pred c)).retire
/-- POR (R237). -/
def execPor (a b c : PReg) (s : State) : Host.Outcome State Fault Refusal :=
  .next (s.wp a (s.me.pred b || s.me.pred c)).retire
/-- PXOR (R237). -/
def execPxor (a b c : PReg) (s : State) : Host.Outcome State Fault Refusal :=
  .next (s.wp a (s.me.pred b != s.me.pred c)).retire
/-- PANDN (R237). -/
def execPandn (a b c : PReg) (s : State) : Host.Outcome State Fault Refusal :=
  .next (s.wp a (s.me.pred b && !s.me.pred c)).retire
/-- PNOT (R237). -/
def execPnot (a b : PReg) (s : State) : Host.Outcome State Fault Refusal :=
  .next (s.wp a (!s.me.pred b)).retire

/-- SEL (R238). -/
def execSel (a : XReg) (b : PReg) (c d : XReg) (s : State) : Host.Outcome State Fault Refusal :=
  .next (s.wx a (if s.me.pred b then s.x c else s.x d)).retire
/-- MOV of a register (R238). -/
def execMovXX (a b : XReg) (s : State) : Host.Outcome State Fault Refusal := .next (s.wx a (s.x b)).retire
/-- MOV of a predicate to a register (R238). -/
def execMovXP (a : XReg) (b : PReg) (s : State) : Host.Outcome State Fault Refusal :=
  .next (s.wx a (if s.me.pred b then 1 else 0)).retire
/-- MOV of a register to a predicate (R238). -/
def execMovPX (a : PReg) (b : XReg) (s : State) : Host.Outcome State Fault Refusal :=
  .next (s.wp a (s.x b != 0)).retire
/-- LI (R238). -/
def execLi (a : XReg) (imm : Word) (s : State) : Host.Outcome State Fault Refusal := .next (s.wx a imm).retire

/-- KHASH (R239). -/
def execKhash (a b : XReg) (s : State) : Host.Outcome State Fault Refusal :=
  .next (s.wx a (BitVec.ofNat 64 (keyOf s.me.cr.ctx.toNat (s.x b).toNat))).retire

end Sys2Proof.Machine
end

