-- ==== Sys2Proof/Machine/Dispatch.lean ====
section
/-! DEFINITION. What each row of the table of operations and events does: one arm for each constructor of `Instr`. -/

namespace Sys2Proof.Machine

/-- The meaning of an instruction or event. -/
def exec (i : Instr) (s : State) : Host.Outcome State Fault Refusal :=
  match i with
  | .add ty a b c => Sys2Proof.Machine.execAdd ty a b c s
  | .sub ty a b c => Sys2Proof.Machine.execSub ty a b c s
  | .mul ty a b c => Sys2Proof.Machine.execMul ty a b c s
  | .mulh ty a b c => Sys2Proof.Machine.execMulh ty a b c s
  | .div ty a b c => Sys2Proof.Machine.execDiv ty a b c s
  | .rem ty a b c => Sys2Proof.Machine.execRem ty a b c s
  | .min ty a b c => Sys2Proof.Machine.execMin ty a b c s
  | .max ty a b c => Sys2Proof.Machine.execMax ty a b c s
  | .abs ty a b => Sys2Proof.Machine.execAbs ty a b s
  | .addImm ty a b imm => Sys2Proof.Machine.execAddImm ty a b imm s
  | .subImm ty a b imm => Sys2Proof.Machine.execSubImm ty a b imm s
  | .mulImm ty a b imm => Sys2Proof.Machine.execMulImm ty a b imm s
  | .minImm ty a b imm => Sys2Proof.Machine.execMinImm ty a b imm s
  | .maxImm ty a b imm => Sys2Proof.Machine.execMaxImm ty a b imm s
  | .and ty a b c => Sys2Proof.Machine.execAnd ty a b c s
  | .or ty a b c => Sys2Proof.Machine.execOr ty a b c s
  | .xor ty a b c => Sys2Proof.Machine.execXor ty a b c s
  | .andn ty a b c => Sys2Proof.Machine.execAndn ty a b c s
  | .orn ty a b c => Sys2Proof.Machine.execOrn ty a b c s
  | .xnor ty a b c => Sys2Proof.Machine.execXnor ty a b c s
  | .andImm ty a b imm => Sys2Proof.Machine.execAndImm ty a b imm s
  | .orImm ty a b imm => Sys2Proof.Machine.execOrImm ty a b imm s
  | .xorImm ty a b imm => Sys2Proof.Machine.execXorImm ty a b imm s
  | .sll ty a b c => Sys2Proof.Machine.execSll ty a b c s
  | .srl ty a b c => Sys2Proof.Machine.execSrl ty a b c s
  | .sra ty a b c => Sys2Proof.Machine.execSra ty a b c s
  | .rol ty a b c => Sys2Proof.Machine.execRol ty a b c s
  | .ror ty a b c => Sys2Proof.Machine.execRor ty a b c s
  | .sllImm ty a b imm => Sys2Proof.Machine.execSllImm ty a b imm s
  | .srlImm ty a b imm => Sys2Proof.Machine.execSrlImm ty a b imm s
  | .sraImm ty a b imm => Sys2Proof.Machine.execSraImm ty a b imm s
  | .rolImm ty a b imm => Sys2Proof.Machine.execRolImm ty a b imm s
  | .rorImm ty a b imm => Sys2Proof.Machine.execRorImm ty a b imm s
  | .bext ty a b c d => Sys2Proof.Machine.execBext ty a b c d s
  | .bextz ty a b c d => Sys2Proof.Machine.execBextz ty a b c d s
  | .bins ty a b c d => Sys2Proof.Machine.execBins ty a b c d s
  | .clz ty a b => Sys2Proof.Machine.execClz ty a b s
  | .ctz ty a b => Sys2Proof.Machine.execCtz ty a b s
  | .popc ty a b => Sys2Proof.Machine.execPopc ty a b s
  | .bswap ty a b => Sys2Proof.Machine.execBswap ty a b s
  | .lea a b c isc => Sys2Proof.Machine.execLea a b c isc s
  | .cmpEq ty a b c => Sys2Proof.Machine.execCmpEq ty a b c s
  | .cmpNe ty a b c => Sys2Proof.Machine.execCmpNe ty a b c s
  | .cmpLt ty a b c => Sys2Proof.Machine.execCmpLt ty a b c s
  | .cmpLe ty a b c => Sys2Proof.Machine.execCmpLe ty a b c s
  | .cmpGt ty a b c => Sys2Proof.Machine.execCmpGt ty a b c s
  | .cmpGe ty a b c => Sys2Proof.Machine.execCmpGe ty a b c s
  | .cmpEqImm ty a b imm => Sys2Proof.Machine.execCmpEqImm ty a b imm s
  | .cmpNeImm ty a b imm => Sys2Proof.Machine.execCmpNeImm ty a b imm s
  | .cmpLtImm ty a b imm => Sys2Proof.Machine.execCmpLtImm ty a b imm s
  | .cmpLeImm ty a b imm => Sys2Proof.Machine.execCmpLeImm ty a b imm s
  | .cmpGtImm ty a b imm => Sys2Proof.Machine.execCmpGtImm ty a b imm s
  | .cmpGeImm ty a b imm => Sys2Proof.Machine.execCmpGeImm ty a b imm s
  | .pand a b c => Sys2Proof.Machine.execPand a b c s
  | .por a b c => Sys2Proof.Machine.execPor a b c s
  | .pxor a b c => Sys2Proof.Machine.execPxor a b c s
  | .pandn a b c => Sys2Proof.Machine.execPandn a b c s
  | .pnot a b => Sys2Proof.Machine.execPnot a b s
  | .sel a b c d => Sys2Proof.Machine.execSel a b c d s
  | .movXX a b => Sys2Proof.Machine.execMovXX a b s
  | .movXP a b => Sys2Proof.Machine.execMovXP a b s
  | .movPX a b => Sys2Proof.Machine.execMovPX a b s
  | .li a imm => Sys2Proof.Machine.execLi a imm s
  | .khash a b => Sys2Proof.Machine.execKhash a b s
  | .br a imm => Sys2Proof.Machine.execBr a imm s
  | .brn a imm => Sys2Proof.Machine.execBrn a imm s
  | .jr b => Sys2Proof.Machine.execJr b s
  | .call a imm => Sys2Proof.Machine.execCall a imm s
  | .callr a b => Sys2Proof.Machine.execCallr a b s
  | .ret b => Sys2Proof.Machine.execRet b s
  | .loop a imm => Sys2Proof.Machine.execLoop a imm s
  | .rep count mask => Sys2Proof.Machine.execRep count mask s
  | .ixset b imm => Sys2Proof.Machine.execIxset b imm s
  | .ixadd b imm => Sys2Proof.Machine.execIxadd b imm s
  | .ixget a => Sys2Proof.Machine.execIxget a s
  | .mfts a b => Sys2Proof.Machine.execMfts a b s
  | .mtts a b => Sys2Proof.Machine.execMtts a b s
  | .rdcyc a => Sys2Proof.Machine.execRdcyc a s
  | .brk imm => Sys2Proof.Machine.execBrk imm s
  | .trap imm => Sys2Proof.Machine.execTrap imm s
  | .ld ty a b imm => Sys2Proof.Machine.execLd ty a b imm s
  | .ldIndexed ty a b c isc => Sys2Proof.Machine.execLdIndexed ty a b c isc s
  | .ldLs ty a b imm => Sys2Proof.Machine.execLdLs ty a b imm s
  | .ldHandleDisp ty a b imm => Sys2Proof.Machine.execLdHandleDisp ty a b imm s
  | .ldHandleReg ty a b c => Sys2Proof.Machine.execLdHandleReg ty a b c s
  | .st ty op t a b imm => Sys2Proof.Machine.execSt ty op t a b imm s
  | .stIndexed ty op t a b c isc => Sys2Proof.Machine.execStIndexed ty op t a b c isc s
  | .stLs ty a b imm => Sys2Proof.Machine.execStLs ty a b imm s
  | .stHandleDisp ty a b imm => Sys2Proof.Machine.execStHandleDisp ty a b imm s
  | .stHandleReg ty a b c => Sys2Proof.Machine.execStHandleReg ty a b c s
  | .fetch ty op a b c => Sys2Proof.Machine.execFetch ty op a b c s
  | .gather ty a b c idx => Sys2Proof.Machine.execGather ty a b c idx s
  | .scatter ty op t a b c idx => Sys2Proof.Machine.execScatter ty op t a b c idx s
  | .ldt ty a b c => Sys2Proof.Machine.execLdt ty a b c s
  | .unpk ty ty2 rm a b c => Sys2Proof.Machine.execUnpk ty ty2 rm a b c s
  | .prefetch b imm => Sys2Proof.Machine.execPrefetch b imm s
  | .drain sc b c => Sys2Proof.Machine.execDrain sc b c s
  | .drainApply sc b c => Sys2Proof.Machine.execDrainApply sc b c s
  | .fenceRel sc => Sys2Proof.Machine.execFenceRel sc s
  | .fenceAcq sc => Sys2Proof.Machine.execFenceAcq sc s
  | .fenceAr sc => Sys2Proof.Machine.execFenceAr sc s
  | .fenceSc sc => Sys2Proof.Machine.execFenceSc sc s
  | .fenceX ea eb => Sys2Proof.Machine.execFenceX ea eb s
  | .bar sc b imm => Sys2Proof.Machine.execBar sc b imm s
  | .hgive b c => Sys2Proof.Machine.execHgive b c s
  | .htake a b => Sys2Proof.Machine.execHtake a b s
  | .vaddF ty rm a b c => Sys2Proof.Machine.execVaddF ty rm a b c s
  | .vsubF ty rm a b c => Sys2Proof.Machine.execVsubF ty rm a b c s
  | .vmulF ty rm a b c => Sys2Proof.Machine.execVmulF ty rm a b c s
  | .vdiv ty rm a b c => Sys2Proof.Machine.execVdiv ty rm a b c s
  | .vminF ty a b c => Sys2Proof.Machine.execVminF ty a b c s
  | .vmaxF ty a b c => Sys2Proof.Machine.execVmaxF ty a b c s
  | .vabsF ty a b => Sys2Proof.Machine.execVabsF ty a b s
  | .vneg ty a b => Sys2Proof.Machine.execVneg ty a b s
  | .vsqrt ty rm a b => Sys2Proof.Machine.execVsqrt ty rm a b s
  | .vfma ty rm a b c d => Sys2Proof.Machine.execVfma ty rm a b c d s
  | .vfms ty rm a b c d => Sys2Proof.Machine.execVfms ty rm a b c d s
  | .vfnma ty rm a b c d => Sys2Proof.Machine.execVfnma ty rm a b c d s
  | .vaddI ty a b c => Sys2Proof.Machine.execVaddI ty a b c s
  | .vsubI ty a b c => Sys2Proof.Machine.execVsubI ty a b c s
  | .vmulI ty a b c => Sys2Proof.Machine.execVmulI ty a b c s
  | .vminI ty a b c => Sys2Proof.Machine.execVminI ty a b c s
  | .vmaxI ty a b c => Sys2Proof.Machine.execVmaxI ty a b c s
  | .vabsI ty a b => Sys2Proof.Machine.execVabsI ty a b s
  | .vadds ty a b c => Sys2Proof.Machine.execVadds ty a b c s
  | .vsubs ty a b c => Sys2Proof.Machine.execVsubs ty a b c s
  | .vand ty a b c => Sys2Proof.Machine.execVand ty a b c s
  | .vor ty a b c => Sys2Proof.Machine.execVor ty a b c s
  | .vxor ty a b c => Sys2Proof.Machine.execVxor ty a b c s
  | .vsll ty a b c => Sys2Proof.Machine.execVsll ty a b c s
  | .vsrl ty a b c => Sys2Proof.Machine.execVsrl ty a b c s
  | .vsra ty a b c => Sys2Proof.Machine.execVsra ty a b c s
  | .vexp ty rm a b => Sys2Proof.Machine.execVexp ty rm a b s
  | .vlog ty rm a b => Sys2Proof.Machine.execVlog ty rm a b s
  | .vrcp ty rm a b => Sys2Proof.Machine.execVrcp ty rm a b s
  | .vrsqrt ty rm a b => Sys2Proof.Machine.execVrsqrt ty rm a b s
  | .vtanh ty rm a b => Sys2Proof.Machine.execVtanh ty rm a b s
  | .vsig ty rm a b => Sys2Proof.Machine.execVsig ty rm a b s
  | .vcmpEq ty a b c => Sys2Proof.Machine.execVcmpEq ty a b c s
  | .vcmpNe ty a b c => Sys2Proof.Machine.execVcmpNe ty a b c s
  | .vcmpLt ty a b c => Sys2Proof.Machine.execVcmpLt ty a b c s
  | .vcmpLe ty a b c => Sys2Proof.Machine.execVcmpLe ty a b c s
  | .vcmpGt ty a b c => Sys2Proof.Machine.execVcmpGt ty a b c s
  | .vcmpGe ty a b c => Sys2Proof.Machine.execVcmpGe ty a b c s
  | .vsel ty a b c d => Sys2Proof.Machine.execVsel ty a b c d s
  | .vperm ty a b c => Sys2Proof.Machine.execVperm ty a b c s
  | .vshuf ty a b c d => Sys2Proof.Machine.execVshuf ty a b c d s
  | .vbcast ty a b => Sys2Proof.Machine.execVbcast ty a b s
  | .vrot ty a b c => Sys2Proof.Machine.execVrot ty a b c s
  | .vredadd ty rm a b => Sys2Proof.Machine.execVredadd ty rm a b s
  | .vredmax ty a b => Sys2Proof.Machine.execVredmax ty a b s
  | .vredmin ty a b => Sys2Proof.Machine.execVredmin ty a b s
  | .cvt ty ty2 rm a b c => Sys2Proof.Machine.execCvt ty ty2 rm a b c s
  | .cvtn ty2 rm a b c d => Sys2Proof.Machine.execCvtn ty2 rm a b c d s
  | .vquant ty2 rm a b c d => Sys2Proof.Machine.execVquant ty2 rm a b c d s
  | .xmax ty a b => Sys2Proof.Machine.execXmax ty a b s
  | .sbupd b c d => Sys2Proof.Machine.execSbupd b c d s
  | .vhash ty a b c => Sys2Proof.Machine.execVhash ty a b c s
  | .vbcmp a b c d => Sys2Proof.Machine.execVbcmp a b c d s
  | .vmov a b => Sys2Proof.Machine.execVmov a b s
  | .vins ty a b c => Sys2Proof.Machine.execVins ty a b c s
  | .vext ty a b c => Sys2Proof.Machine.execVext ty a b c s
  | .mma ty ty2 a b c d => Sys2Proof.Machine.execMma ty ty2 a b c d s
  | .mmas ty2 a b c d e imm => Sys2Proof.Machine.execMmas ty2 a b c d e imm s
  | .mmt ty a b c d e f imm => Sys2Proof.Machine.execMmt ty a b c d e f imm s
  | .azero a => Sys2Proof.Machine.execAzero a s
  | .aspill a b => Sys2Proof.Machine.execAspill a b s
  | .afill a b => Sys2Proof.Machine.execAfill a b s
  | .aadd ty rm a b c => Sys2Proof.Machine.execAadd ty rm a b c s
  | .aread ty pair rm a b c d => Sys2Proof.Machine.execAread ty pair rm a b c d s
  | .skset b c => Sys2Proof.Machine.execSkset b c s
  | .skget a => Sys2Proof.Machine.execSkget a s
  | .topk ty a b c d => Sys2Proof.Machine.execTopk ty a b c d s
  | .mvh ty ty2 a b c d e imm => Sys2Proof.Machine.execMvh ty ty2 a b c d e imm s
  | .sbld b c => Sys2Proof.Machine.execSbld b c s
  | .sbst b c => Sys2Proof.Machine.execSbst b c s
  | .sopen ty a b => Sys2Proof.Machine.execSopen ty a b s
  | .sadv a b => Sys2Proof.Machine.execSadv a b s
  | .stend a b => Sys2Proof.Machine.execStend a b s
  | .sclose a => Sys2Proof.Machine.execSclose a s
  | .fopen ty a b => Sys2Proof.Machine.execFopen ty a b s
  | .cpyLl a b c d e imm => Sys2Proof.Machine.execCpyLl a b c d e imm s
  | .cpyGl a b c d e imm => Sys2Proof.Machine.execCpyGl a b c d e imm s
  | .cpyLg ty op t a b c d e imm => Sys2Proof.Machine.execCpyLg ty op t a b c d e imm s
  | .cpyDist a c d e imm => Sys2Proof.Machine.execCpyDist a c d e imm s
  | .cpwp a b => Sys2Proof.Machine.execCpwp a b s
  | .cpwait a b => Sys2Proof.Machine.execCpwait a b s
  | .dpat b c => Sys2Proof.Machine.execDpat b c s
  | .get a b c d e => Sys2Proof.Machine.execGet a b c d e s
  | .put ty op a b c d e => Sys2Proof.Machine.execPut ty op a b c d e s
  | .coll ty op a b c d e f => Sys2Proof.Machine.execColl ty op a b c d e f s
  | .post a b c => Sys2Proof.Machine.execPost a b c s
  | .spawn a b c => Sys2Proof.Machine.execSpawn a b c s
  | .ctwait b => Sys2Proof.Machine.execCtwait b s
  | .ctadd b c d => Sys2Proof.Machine.execCtadd b c d s
  | .ctcancel b => Sys2Proof.Machine.execCtcancel b s
  | .ctread a b c => Sys2Proof.Machine.execCtread a b c s
  | .msend b c d => Sys2Proof.Machine.execMsend b c d s
  | .mrecv a b c => Sys2Proof.Machine.execMrecv a b c s
  | .fqrd a b => Sys2Proof.Machine.execFqrd a b s
  | .mset a b => Sys2Proof.Machine.execMset a b s
  | .mref a b c => Sys2Proof.Machine.execMref a b c s
  | .mclr a => Sys2Proof.Machine.execMclr a s
  | .mrd a b c => Sys2Proof.Machine.execMrd a b c s
  | .hset a b c => Sys2Proof.Machine.execHset a b c s
  | .hmul rm a b c => Sys2Proof.Machine.execHmul rm a b c s
  | .hdiv rm a b c => Sys2Proof.Machine.execHdiv rm a b c s
  | .hprod rm a b c => Sys2Proof.Machine.execHprod rm a b c s
  | .hscale a b => Sys2Proof.Machine.execHscale a b s
  | .hrd rm a b c => Sys2Proof.Machine.execHrd rm a b c s
  | .hwr rm a b c => Sys2Proof.Machine.execHwr rm a b c s
  | .hdeg a b => Sys2Proof.Machine.execHdeg a b s
  | .svCtab b c d => Sys2Proof.Machine.execSvCtab b c d s
  | .svQrec b c => Sys2Proof.Machine.execSvQrec b c s
  | .svQprio b c => Sys2Proof.Machine.execSvQprio b c s
  | .svGstart b c => Sys2Proof.Machine.execSvGstart b c s
  | .svTeardown b => Sys2Proof.Machine.execSvTeardown b s
  | .svRht b c => Sys2Proof.Machine.execSvRht b c s
  | .svDph b c => Sys2Proof.Machine.execSvDph b c s
  | .svPtbr b c => Sys2Proof.Machine.execSvPtbr b c s
  | .svPtw b c => Sys2Proof.Machine.execSvPtw b c s
  | .svTinv b c => Sys2Proof.Machine.execSvTinv b c s
  | .svPres b c => Sys2Proof.Machine.execSvPres b c s
  | .svPref b c => Sys2Proof.Machine.execSvPref b c s
  | .svMigr b c d => Sys2Proof.Machine.execSvMigr b c d s
  | .svHint b c d => Sys2Proof.Machine.execSvHint b c d s
  | .svFq b c d => Sys2Proof.Machine.execSvFq b c d s
  | .svSfq b c => Sys2Proof.Machine.execSvSfq b c s
  | .svFlue c => Sys2Proof.Machine.execSvFlue c s
  | .svVac c d => Sys2Proof.Machine.execSvVac c d s
  | .svVrel b => Sys2Proof.Machine.execSvVrel b s
  | .svPdk b c => Sys2Proof.Machine.execSvPdk b c s
  | .svKill b => Sys2Proof.Machine.execSvKill b s
  | .svPrel b => Sys2Proof.Machine.execSvPrel b s
  | .svLspr b c d => Sys2Proof.Machine.execSvLspr b c d s
  | .svSpb b c => Sys2Proof.Machine.execSvSpb b c s
  | .svHtab b c d => Sys2Proof.Machine.execSvHtab b c d s
  | .svYov b c d => Sys2Proof.Machine.execSvYov b c d s
  | .nop => Sys2Proof.Machine.execNop s
  | .commit => Sys2Proof.Machine.execCommit s
  | .vmodeShort => Sys2Proof.Machine.execVmodeShort s
  | .vmodeLong => Sys2Proof.Machine.execVmodeLong s
  | .done => Sys2Proof.Machine.execDone s
  | .yield => Sys2Proof.Machine.execYield s
  | .wfw => Sys2Proof.Machine.execWfw s
  | .lend => Sys2Proof.Machine.execLend s
  | .tret => Sys2Proof.Machine.execTret s
  | .powerOn => Sys2Proof.Machine.execPowerOn s
  | .bootStepComplete => Sys2Proof.Machine.execBootStepComplete s
  | .powerOff => Sys2Proof.Machine.execPowerOff s
  | .issueThrottlingEntry => Sys2Proof.Machine.execIssueThrottlingEntry s
  | .issueThrottlingExit => Sys2Proof.Machine.execIssueThrottlingExit s
  | .overtempPowerOff => Sys2Proof.Machine.execOvertempPowerOff s
  | .flitReceive => Sys2Proof.Machine.execFlitReceive s
  | .stopFlagClear => Sys2Proof.Machine.execStopFlagClear s
  | .ackReceive => Sys2Proof.Machine.execAckReceive s
  | .nakReceive => Sys2Proof.Machine.execNakReceive s
  | .ackTimeout => Sys2Proof.Machine.execAckTimeout s
  | .alternateResend => Sys2Proof.Machine.execAlternateResend s
  | .portUp => Sys2Proof.Machine.execPortUp s
  | .putUpdateReceive => Sys2Proof.Machine.execPutUpdateReceive s
  | .getRequestServe => Sys2Proof.Machine.execGetRequestServe s
  | .getRowWrite => Sys2Proof.Machine.execGetRowWrite s
  | .putAckReceive => Sys2Proof.Machine.execPutAckReceive s
  | .negativeAckReceive => Sys2Proof.Machine.execNegativeAckReceive s
  | .spawnArrival => Sys2Proof.Machine.execSpawnArrival s
  | .spawnAnswerReceive => Sys2Proof.Machine.execSpawnAnswerReceive s
  | .collectiveMessageArrival => Sys2Proof.Machine.execCollectiveMessageArrival s
  | .collectiveReceiveStep => Sys2Proof.Machine.execCollectiveReceiveStep s
  | .poolWindowAccess => Sys2Proof.Machine.execPoolWindowAccess s
  | .memoryWindowWrite => Sys2Proof.Machine.execMemoryWindowWrite s
  | .memoryWindowRead => Sys2Proof.Machine.execMemoryWindowRead s
  | .watchArm => Sys2Proof.Machine.execWatchArm s
  | .registerWrite => Sys2Proof.Machine.execRegisterWrite s
  | .quote => Sys2Proof.Machine.execQuote s
  | .idcert => Sys2Proof.Machine.execIdcert s
  | .keyxch => Sys2Proof.Machine.execKeyxch s
  | .keyimport => Sys2Proof.Machine.execKeyimport s
  | .keygen => Sys2Proof.Machine.execKeygen s
  | .keyerase => Sys2Proof.Machine.execKeyerase s
  | .liferead => Sys2Proof.Machine.execLiferead s
  | .redfishRequest => Sys2Proof.Machine.execRedfishRequest s
  | .lifetimeRecordWrite => Sys2Proof.Machine.execLifetimeRecordWrite s
  | .dispatcherCycle => Sys2Proof.Machine.execDispatcherCycle s
  | .heldInsertEntry => Sys2Proof.Machine.execHeldInsertEntry s
  | .recordArrivalAtManger => Sys2Proof.Machine.execRecordArrivalAtManger s
  | .mangerCancel => Sys2Proof.Machine.execMangerCancel s
  | .counterOperation => Sys2Proof.Machine.execCounterOperation s
  | .nodeReadyInsert => Sys2Proof.Machine.execNodeReadyInsert s
  | .deferredPhaseClose => Sys2Proof.Machine.execDeferredPhaseClose s
  | .vacateGraceExpiry => Sys2Proof.Machine.execVacateGraceExpiry s
  | .rectangleEmpty => Sys2Proof.Machine.execRectangleEmpty s
  | .exactRestore => Sys2Proof.Machine.execExactRestore s
  | .teardownComplete => Sys2Proof.Machine.execTeardownComplete s
  | .windowHashCompare => Sys2Proof.Machine.execWindowHashCompare s
  | .barrelIssue => Sys2Proof.Machine.execBarrelIssue s
  | .coprocessorDispatch => Sys2Proof.Machine.execCoprocessorDispatch s
  | .coprocessorComplete => Sys2Proof.Machine.execCoprocessorComplete s
  | .copFaultDetect => Sys2Proof.Machine.execCopFaultDetect s
  | .groupEnd => Sys2Proof.Machine.execGroupEnd s
  | .mmtChunkComplete => Sys2Proof.Machine.execMmtChunkComplete s
  | .longContextGrant => Sys2Proof.Machine.execLongContextGrant s
  | .scaleSetArrival => Sys2Proof.Machine.execScaleSetArrival s
  | .xmaxExchangeComplete => Sys2Proof.Machine.execXmaxExchangeComplete s
  | .mailboxArrival => Sys2Proof.Machine.execMailboxArrival s
  | .mailboxRetry => Sys2Proof.Machine.execMailboxRetry s
  | .copyBlockDelivery => Sys2Proof.Machine.execCopyBlockDelivery s
  | .copyPendResume => Sys2Proof.Machine.execCopyPendResume s
  | .stallHighwaterMoveout => Sys2Proof.Machine.execStallHighwaterMoveout s
  | .stallAgeMoveout => Sys2Proof.Machine.execStallAgeMoveout s
  | .shedAgeMoveout => Sys2Proof.Machine.execShedAgeMoveout s
  | .shedFillMoveout => Sys2Proof.Machine.execShedFillMoveout s
  | .shedMoveRetry => Sys2Proof.Machine.execShedMoveRetry s
  | .yardEntry => Sys2Proof.Machine.execYardEntry s
  | .movedReroute => Sys2Proof.Machine.execMovedReroute s
  | .yardFillApply => Sys2Proof.Machine.execYardFillApply s
  | .yardSpill => Sys2Proof.Machine.execYardSpill s
  | .yardRefill => Sys2Proof.Machine.execYardRefill s
  | .yardFull => Sys2Proof.Machine.execYardFull s
  | .yardFullClear => Sys2Proof.Machine.execYardFullClear s
  | .releaseApply => Sys2Proof.Machine.execReleaseApply s
  | .commitPrepare => Sys2Proof.Machine.execCommitPrepare s
  | .prepareAnswer => Sys2Proof.Machine.execPrepareAnswer s
  | .commitFlip => Sys2Proof.Machine.execCommitFlip s
  | .flipAcknowledge => Sys2Proof.Machine.execFlipAcknowledge s
  | .taskAbort => Sys2Proof.Machine.execTaskAbort s
  | .abortNoticeArrival => Sys2Proof.Machine.execAbortNoticeArrival s
  | .sosAcknowledge => Sys2Proof.Machine.execSosAcknowledge s
  | .loadResultReturn => Sys2Proof.Machine.execLoadResultReturn s
  | .fetchHomeStep => Sys2Proof.Machine.execFetchHomeStep s
  | .mergeFaultRecordArrival => Sys2Proof.Machine.execMergeFaultRecordArrival s
  | .pageFaultService => Sys2Proof.Machine.execPageFaultService s
  | .migrationComplete => Sys2Proof.Machine.execMigrationComplete s
  | .fluePageVisit => Sys2Proof.Machine.execFluePageVisit s
  | .fluePassEnd => Sys2Proof.Machine.execFluePassEnd s
  | .sectorRead => Sys2Proof.Machine.execSectorRead s
  | .scrub => Sys2Proof.Machine.execScrub s
  | .paddockKill => Sys2Proof.Machine.execPaddockKill s
  | .paddockKillReport => Sys2Proof.Machine.execPaddockKillReport s
  | .barrierGenerationOpen => Sys2Proof.Machine.execBarrierGenerationOpen s
  | .postArrival => Sys2Proof.Machine.execPostArrival s
  | .barrierArrival => Sys2Proof.Machine.execBarrierArrival s
  | .xmaxContributionArrival => Sys2Proof.Machine.execXmaxContributionArrival s
  | .drainRequestArrival => Sys2Proof.Machine.execDrainRequestArrival s

end Sys2Proof.Machine
end

