-- ==== Sys2Proof/Machine/Step.lean ====
section
/-! DEFINITION. One step of the package: the event at the head of the agenda, with the instruction that it issues; and the
state that runs a given word first. -/

namespace Sys2Proof.Machine

/-- The instruction that an event has issued acts in the same step (R72, R73). -/
def runIssued (o : Host.Outcome State Fault Refusal) : Host.Outcome State Fault Refusal :=
  match o with
  | .next s =>
    match s.issue with
    | some i => exec i.instr { s with issue := none }
    | none => .next s
  | o => o

/-- A stop that a meaning has reached ends the run. -/
def stopped (o : Host.Outcome State Fault Refusal) : Host.Outcome State Fault Refusal :=
  match o with
  | .next s =>
    match s.stuck with
    | some f => .fault f
    | none => .next s
  | o => o

/-- One step. -/
def step (s : State) : Host.Outcome State Fault Refusal :=
  match s.stuck with
  | some f => .fault f
  | none =>
    match s.agenda with
    | [] => stopped (.next s.refill)
    | e :: rest => stopped (runIssued (exec e.instr { s with agenda := rest, ev := e, issue := none }))

/-- Physical address of the root of the page table that `withFetchWord` lays down. -/
def fetchRoot : Nat := 0x10000

/-- A page table of context 0 that maps the page of address 0x10000 to 0x100000 in five levels, each permission set. -/
def fetchTable : List (Nat × Nat) :=
  [(0x10000, 0x12001), (0x12000, 0x14001), (0x14000, 0x16001), (0x16000, 0x18001), (0x18100, 0x10007D)]

/-- The thread that fetches the word: the first slot of core 0, in the supervisor's context, with the widest register
window. -/
def fetchThread : Thread :=
  { Thread.reset with status := .running, pc := 0x10000, xcount := 64, sup := true, unit := 1, cr := { Record.zero with owner := 2 } }

/-- A state whose next step fetches and runs the word: the package is up, core 0 has one thread, whose barrel turn is next,
and the runs and caches of its code page's home hold nothing (log 44). -/
def State.withFetchWord (s : State) (nbits w : Nat) : State :=
  let table := fetchTable.foldl (fun m (a, v) => Memory.writeN m a (leBytes 16 v)) s.mem
  { s with
    power := true
    io := { s.io with
      ready := 0xFFFFFFFF, bootStep := 5, bootDone := true, halted := false
      ptbr := put s.io.ptbr 0 (BitVec.ofNat 64 (2 ^ 63 + fetchRoot))
      rht := s.io.rht.filter fun x => 17 ≤ x.1 }
    agenda := [.barrelIssue 0]
    cores := put s.cores 0 { s.coreAt 0 with threads := put [] 0 fetchThread, rot := 0, icache := [] }
    dies := put s.dies 0 Die.reset
    mem := Memory.writeN table 0x100000 (leBytes 16 (w % 2 ^ nbits))
    poison := []
    hbmErr := []
    issue := none
    stuck := none }

end Sys2Proof.Machine
end

