-- ==== Sys2Proof/Safety.lean ====
section
/-! DEFINITION. The terms that statements about the machine are made in: what an instruction of a thread does besides going
on, where a thread stands once its instruction is done, what a step leaves alone, and the invariant of the memories. -/

namespace Sys2Proof.Machine

/-- The writes of an instruction in the order it makes them, tagged from a number on (R75). -/
def tagged : Nat → List (Dest × Option Val) → List PendW
  | _, [] => []
  | n, (d, v) :: l => ⟨n, d, v⟩ :: tagged (n + 1) l

/-- A repeat follows this one: the prefix is live and more than one is left (R87, R243). -/
def State.repeats (s : State) : Bool := s.me.repLive && 1 < s.me.repcnt.toNat

/-- The instruction ends its group: a repeat that is not the last, a taken transfer, or the switch marker (R74, R75). -/
def State.endsGroup (s : State) (target : Option (BitVec 57)) : Bool :=
  s.repeats || target.isSome || s.cur.iss.hdr.sw

/-- What an instruction does besides going on: how it leaves its thread and its core, its snapshot writes (R75), where it
transfers control, and the events it brings about. -/
structure Effect where
  thread : Thread
  core : Core
  writes : List (Dest × Option Val)
  target : Option (BitVec 57)
  events : List Ev

/-- An instruction that does nothing but go on. -/
def Effect.none (s : State) : Effect := ⟨s.me, s.myCore, [], .none, []⟩

/-- The thread once its instruction is done (R74, R75, R87): it waits for nothing but its group's end; a repeat that is not
the last leaves the pc at the prefix, and any other instruction moves it on. -/
def State.doneThread (s : State) (e : Effect) : Thread :=
  let t : Thread :=
    { e.thread with
      pend := e.thread.pend ++ tagged s.ids e.writes, blocked := .none
      wait := if s.endsGroup e.target then .parked else .none }
  if s.repeats then { t with repcnt := t.repcnt - 1, repdone := t.repdone + 1 }
  else { t.repEnd with pc := e.target.getD s.nextPc }

/-- Nothing has changed but one slot of one core, the core's own fields, the supply of tags and the agenda: no memory, no
other core, no other thread, no cluster, no die and nothing of the I/O die. -/
structure OnlyAt (s t : State) (n k : Nat) (core : Core) : Prop where
  rest : t = { s with cores := t.cores, agenda := t.agenda, ids := t.ids }
  cores : ∀ m, m ≠ n → t.coreAt m = s.coreAt m
  core : t.coreAt n = { core with threads := (t.coreAt n).threads }
  slots : ∀ j, j ≠ k → t.thr n j = s.thr n j

/-- Nothing has changed but the current thread and its core's own fields. -/
abbrev OnlyMe (s t : State) (core : Core) : Prop := OnlyAt s t s.cur.core s.cur.slot core

/-- At a state `s` the instruction answers a next state that is `u` with its effect, its thread gone on, and nothing else
changed: `u` is `s` but for what the instruction does to units around its core. -/
def DoesOver (i : Instr) (s u : State) (e : Effect) : Prop :=
  ∃ t, exec i s = .next t ∧ OnlyMe u t e.core ∧ t.me = u.doneThread e ∧ t.ids = u.ids + e.writes.length
    ∧ t.agenda = u.agenda ++ e.events ++ if u.endsGroup e.target then [.groupEnd u.cur.core u.cur.slot] else []

/-- The instruction answers a next state that holds its effect, with its thread gone on, and nothing else changed. -/
def Does (i : Instr) (s : State) (e : Effect) : Prop := DoesOver i s s e

/-- The instruction writes one scalar register at its group's end, and does nothing else. -/
def Gives (i : Instr) (s : State) (a : XReg) (v : Word) : Prop :=
  Does i s { Effect.none s with writes := [(s.destX a, some (v.setWidth 2048))] }

/-- The instruction writes one predicate at its group's end, and does nothing else. -/
def Decides (i : Instr) (s : State) (a : PReg) (v : Bool) : Prop :=
  Does i s { Effect.none s with writes := [(destP a, some (BitVec.ofNat 2048 v.toNat))] }

/-- The instruction raises a precise cause with a TVAL: it enters the handler, and does nothing else (R77, R181). It runs again
after the handler, and counts in its group then. -/
def Raises (i : Instr) (s : State) (c : Cause) (tval : Word) : Prop :=
  exec i s = .next ((s.modMe fun t => { t with groupLen := t.groupLen - 1 }).takeTrap s.cur.core s.cur.slot
    ⟨c, false, tval, s.me.pc⟩)

/-- Where a loaded value goes: a scalar or short vector register at the group's end, a long vector register at once (R75,
R76): the state with the latter written, and the writes of the former. -/
def State.loaded (s : State) (ty : Ty) (a : DReg) (v : Nat) : State × List (Dest × Option Val) :=
  match a with
  | .x r => (s, [(s.destX r, some (((extendTy ty v).setWidth 64).setWidth 2048))])
  | .v (.v n) => (s, [(.v n.toNat, some (extendTy ty v))])
  | .v (.w n) => (s.writeW s.cur.core s.cur.slot n.toNat (extendTy ty v), [])
  | .v (.s _) => (s, [])

/-- The instruction loads a value that is known at its issue, and does nothing else; `g` is what else becomes of its
thread. -/
def LoadsNow (i : Instr) (s : State) (ty : Ty) (a : DReg) (v : Nat) (g : Thread → Thread) : Prop :=
  let u := (s.loaded ty a v).1
  DoesOver i s u { Effect.none u with thread := g u.me, writes := (s.loaded ty a v).2 }

/-- A load of lanes whose doublewords have come: their values, and the way back that has begun (R118). The state `u` is
the one in which they were read. -/
def LoadBegins (i : Instr) (s u : State) (d : Dest) (dws : List Nat) (v : Val) (f : Flags) : Prop :=
  ∃ w l, l.val = some v ∧ l.flags = f ∧ l.tag = w.ids ∧ l.keys = keysAt s.me.cr.ctx.toNat dws ∧ w.cores = u.cores
    ∧ w.clusters = u.clusters ∧ DoesOver i s w
      { Effect.none w with
        thread := { w.me with loads := w.me.loads ++ [l] }, writes := [(d, none)]
        events := [.loadResultReturn s.cur.core s.cur.slot l.tag] }

/-- The current instruction is this one, in its pipe, and every vector operand is a register (R82). -/
def InPipe (i : Instr) (s : State) : Prop :=
  s.cur.iss.pipe = true ∧ s.cur.iss.instr = i ∧ ∀ r ∈ i.vregs, ∀ q, r ≠ .s q

/-- In its pipe the instruction answers a next state that is `u` with its thread and core as given, and with its results on
their way: the values for the tags it has reserved, and flags (R76, R82). -/
def PipeGives (i : Instr) (s u : State) (thread : Thread) (core : Core) (vals : List Val) (f : Flags) : Prop :=
  ∃ t, exec i s = .next t ∧ OnlyMe u t core ∧ t.ids = u.ids
    ∧ t.me = { thread with results := thread.results ++ [(s.cur.iss.seq, s.cur.iss.tags.zip vals, f)] }
    ∧ t.agenda = u.agenda ++ [.coprocessorComplete u.cur.core u.cur.slot (BitVec.ofNat 32 s.cur.iss.seq)]

/-- In its pipe the instruction gives a vector value: a short register's by its tag, a long register's at once. -/
def VectorGives (i : Instr) (s : State) (d : VReg) (v : Val) (f : Flags) : Prop :=
  match d with
  | .v _ => PipeGives i s s s.me s.myCore [v] f
  | .w n => let u := s.writeW s.cur.core s.cur.slot n.toNat v
    PipeGives i s u u.me u.myCore [] f
  | .s _ => False

/-- Lane `j` of a value at a width of `k` bytes. -/
def laneAt (k : Nat) (v : Val) (j : Nat) : Nat := v.toNat / 2 ^ (8 * k * j) % 2 ^ (8 * k)

/-- Lanes of the register width under which the current instruction runs, at a width of `k` bytes (R276). -/
def State.laneCount (s : State) (k : Nat) : Nat := (if s.cur.iss.pipeNo = 1 then 256 else 32) / k

/-- In its pipe the instruction gives each lane by `op`, with the lanes' flags ORed; nothing stands above the lanes. -/
def LaneWise (i : Instr) (s : State) (d : VReg) (k : Nat) (op : Nat → Nat × Flags) : Prop :=
  InPipe i s → ∃ v, VectorGives i s d v ((List.range (s.laneCount k)).foldl (fun f j => f ||| (op j).2) 0)
    ∧ (∀ j < s.laneCount k, laneAt k v j = (op j).1 % 2 ^ (8 * k)) ∧ v.toNat < 2 ^ (8 * k * s.laneCount k)

/-- In its pipe the instruction has an effect on its thread and core, and no result. -/
def PipeDoes (i : Instr) (s : State) (thread : Thread) (core : Core) (f : Flags) : Prop :=
  PipeGives i s s thread core [] f

/-- In its pipe the instruction is a fault of the unit (R83): nothing is written. -/
def PipeFaults (i : Instr) (s : State) (swizzle : Bool) : Prop :=
  exec i s = .next (s.push [.copFaultDetect s.cur.core s.cur.slot (BitVec.ofNat 32 s.cur.iss.seq) swizzle])

/-- The tile `a`, or the two tiles of the FP64 accumulator it names, takes new elements, and every other element of the
tiles is stored as before (R81, R200). -/
def TileSet (t u : Thread) (ty : Ty) (a : Nat) (v : Nat → Nat) : Prop :=
  let n := if ty = .f64 then 2 else 1
  u = { t with a := u.a } ∧ (∀ e < 256, (u.tile ty a).getD e 0 = v e % 2 ^ (if ty = .f64 then 64 else 40))
  ∧ ∀ k x, k < 256 * a ∨ 256 * (a + n) ≤ k → ((k, x) ∈ u.a ↔ (k, x) ∈ t.a)

/-- Bytes of the local store from `lo` on are as `v` says in numbers of `k` bytes, `n` of them, and every other byte is as
before. -/
def StoreSet (c d : Core) (lo k n : Nat) (v : Nat → Nat) : Prop :=
  d = { c with ls := d.ls } ∧ (∀ j < n, leNat (Memory.readN d.ls (lo + k * j) k) = v j % 2 ^ (8 * k))
  ∧ ∀ p, p < lo ∨ lo + k * n ≤ p → Memory.read d.ls p = Memory.read c.ls p

/-- Flags of `n` results, ORed. -/
def flagsOf (n : Nat) (r : Nat → Nat × Flags) : Flags := (List.range n).foldl (fun f e => f ||| (r e).2) 0

/-- The element of a type that a core's local store holds at an offset. -/
def Core.elem (c : Core) (ty : Ty) (off : Nat) : Num := valOf ty (leNat (Memory.readN c.ls off ty.bytes))

/-- Every byte of `n` at an offset of the current core's local store may be read, or written, by the current thread. -/
def State.lsMay (s : State) (off n : Nat) (write : Bool) : Bool :=
  (List.range n).all fun i => s.myCore.lsOk s.me.cr.ctx (off + i) 1 write

/-- Every memory of the package and the host's are in canonical form: home memory, host memory, the local stores, and the
command buffer. -/
structure State.memOk (s : State) : Prop where
  home : Memory.wf s.mem = true
  host : Memory.wf s.hostMem = true
  ls : ∀ n, Memory.wf (s.coreAt n).ls = true
  buf : Memory.wf s.io.hcmdBuf = true

end Sys2Proof.Machine
end

