-- ==== Sys2Proof/Certificates/Slice0/Obligations.lean ====
section
/-! DEFINITION. The statements about the machine, from the numbered rules of the spec: what instructions and events do, with
their frames; what they raise; decoding; and the invariant of the memories. Each docstring cites the rules it rests on. -/

open Sys2Proof Sys2Proof.Machine

/-- R217 to R228: every instruction that is no event, well formed under its header, has a word, and its bytes, whatever
follows them, decode to it and its header: no operand of any value that the encoding admits is lost. An event has no
word. -/
def Obligations.WordsDecodeToTheirInstruction : Prop :=
  (∀ (h : Hdr) (i : Instr) (rest : List Byte), (∀ e : Ev, e.instr ≠ i) → i.wf h = true →
    encode h i ≠ [] ∧ decode (encode h i ++ rest) = .ok (h, i))
  ∧ ∀ (h : Hdr) (e : Ev), encode h e.instr = []

/-- The model's form of memory (log 2): a step keeps home memory, host memory, every local store and the command buffer in
the form that lists each byte once, in order, and no byte that reads as an unlisted one, so that equal contents are
equal data. -/
def Obligations.StepsKeepMemoriesCanonical : Prop :=
  ∀ s t : State, s.memOk → step s = .next t → t.memOk

/-- R12, R32, R72, R85, R89, R313: the package is off at reset and nothing is on; the registers whose reset value the spec
gives hold it; the memories are in canonical form. That every other register is zero is the model's choice (log 3). -/
def Obligations.ResetState : Prop :=
  State.reset.memOk ∧ State.reset.power = false ∧ State.reset.io.ready = 0 ∧ State.reset.io.bootDone = false
  ∧ State.reset.agenda = [] ∧ State.reset.stuck = none
  ∧ ∀ n k, (State.reset.thr n k).status = .free ∧ (State.reset.thr n k).cringh = 0x3F ∧ (State.reset.coreAt n).rot = 0
    ∧ (State.reset.coreAt n).stallhw = 96 ∧ (State.reset.coreAt n).stallage = 2048 ∧ (State.reset.coreAt n).spbase = 0x20000
    ∧ (State.reset.coreAt n).skr = 127 ∧ (State.reset.coreAt n).skg = 0

/-- R219 to R224, with the encodings of R236, R240, R267, R268, R334 and R345: words as the spec writes them out. -/
def Obligations.WrittenOutWords : Prop :=
  decodeTableWord 64 0x00002000C1011054 = some (.cmpLt .i32 1 (.dir 2) (.dir 3))
  ∧ decodeTableWord 64 0xFFFFFFFFFD0100C4 = some (.br 1 (-6)) ∧ decodeTableWord 64 0x000000000000000C = some .nop
  ∧ decodeTableWord 64 0x000050000000028C = some (.fenceRel .device)
  ∧ decodeTableWord 64 0x000002000000228C = some (.fenceX .cp .co) ∧ decodeTableWord 64 0x00000000000006A4 = some .tret
  ∧ decodeTableWord 64 0x0000800305800EB4 = some (.hmul .rne 0 (.dir 11) (.dir 12))
  ∧ decodeTableWord 64 0x00009000C101038C = some (.vaddF .f32 .rne (.v 1) (.v 2) (.v 3))

/-- R181 and the model's stops (log 1): an instruction of the table acts in every state, with its effect, a wait or the
exception that it raises, and so does an event; a step refuses nothing, and a fault that the state holds stops it for
good. -/
def Obligations.EveryInstructionGoesOn : Prop :=
  (∀ (i : Instr) (s : State), ∃ t, exec i s = .next t)
  ∧ ∀ s : State, (∀ r, step s ≠ .refused r) ∧ ∀ f, s.stuck = some f → step s = .fault f

/-- R71, R72, R73: a slot that is ready, in no repeat and with nothing to go on with issues the instruction that the word at its
pc decodes to, where every check of R227 passes. A step whose event is a barrel turn is the meaning of the instruction that
the search has found, at the state that has issued it; the search stops at a slot that gives a turn. -/
def Obligations.StepRunsTheFetchedInstruction : Prop :=
  (∀ (s u : State) (n k w : Nat) (len : Len) (h : Hdr) (i : Instr),
    let t := s.thr n k
    s.ready n k = true → t.trapReq = none → t.blocked = none → t.repLive = false →
    s.fetchAt n t.cr.ctx.toNat t.pc (s.token n k) = (u, .word len w) → decodeWord len w = some (h, i) →
    let next := (u.repeated n k h i t.pc).2
    let v := (u.repeated n k h i t.pc).1
    let v := if next ≠ none then v.modThr n k fun t => { t with repWord := next } else v
    prefixBad i next = false → (v.thr n k).issueCheck h i w = none → v.notYet n k i = none →
    ∃ iss : Issue, s.poll n k = (v, some (.go iss)) ∧ iss.instr = i ∧ iss.hdr = h ∧ iss.pc = t.pc
      ∧ iss.iw = BitVec.ofNat 128 w ∧ iss.phase = 0 ∧ iss.pipe = false)
  ∧ (∀ (s u : State) (n k : Nat) (l : List Nat) (x : Next), s.poll n k = (u, some x) → (u.thr n k).lend = false →
    s.search n (k :: l) = (u, some (k, k, x)))
  ∧ ∀ (s u : State) (n k turn : Nat) (rest : List Ev) (iss : Issue),
    s.stuck = none → s.agenda = .barrelIssue n :: rest →
    let s0 := { s with agenda := rest, ev := .barrelIssue n, issue := none }
    s0.search n ((List.range 16).map fun j => ((s.coreAt n).rot.toNat + j) % 16) = (u, some (k, turn, .go iss)) →
    let p := u.modCore n fun c => { c with rot := BitVec.ofNat 4 (turn + 1) }
    let issued := p.latch n k iss
    step s = (match exec iss.instr { issued with issue := none } with
      | .next v => match v.stuck with
        | some f => .fault f
        | none => .next v
      | o => o)
    ∧ issued.me = { p.thr n k with groupLen := (p.thr n k).groupLen + 1, wait := .none, blocked := none }
    ∧ issued.cur = ⟨n, k, iss⟩

/-- R72: the barrel's search, slot by slot, from P on; the slot that issues and the slot whose turn it uses; P behind the
turn that was used; and nothing but lends that are cleared where no slot gives a turn, with P as it was. The lending
instruction sets the mark on its own slot and goes on. -/
def Obligations.BarrelSearch : Prop :=
  ((∀ (s : State) (n k : Nat) (l : List Nat),
      let u := (s.poll n k).1
      let clear (x : State) : State := x.modThr n k fun t => { t with lend := false }
      s.search n [] = (s, none) ∧ (s.ready n k = false → s.poll n k = (s, none))
      ∧ s.search n (k :: l) =
        match (s.poll n k).2 with
        | some x => (if (u.thr n k).lend then clear u else u, some (k, k, x))
        | none =>
          if (u.thr n k).lend = false then u.search n l
          else match (u.poll n (k ^^^ 1)).2 with
            | some x => (clear (u.poll n (k ^^^ 1)).1, some (k ^^^ 1, k, x))
            | none => (clear (u.poll n (k ^^^ 1)).1).search n l)
    ∧ (∀ (s : State) (n : Nat),
      let e := { s with ev := .barrelIssue n }
      let order := (List.range 16).map fun i => ((s.coreAt n).rot.toNat + i) % 16
      exec .barrelIssue e = .next (match e.search n order with
        | (u, none) => u
        | (u, some (k, turn, x)) => (u.modCore n fun c => { c with rot := BitVec.ofNat 4 (turn + 1) }).turnOf n k x))
    ∧ (∀ (s : State) (n : Nat) (l l' : List Nat),
      (∀ k ∈ l, s.ready n k = false ∧ (s.thr n k).lend = false) → s.search n (l ++ l') = s.search n l')
    ∧ (∀ (s : State) (n k m : Nat), ((s.poll n k).1.coreAt m).rot = (s.coreAt m).rot)
    ∧ Core.reset.rot = 0)
  ∧
  (∀ s : State, Does .lend s { Effect.none s with thread := { s.me with lend := true } })

/-- R219, R227, R230: what a fetch at the pc gives, of the bytes of its fetch block: ILLEGAL_LEN, then FETCH_SPAN, then
POISON at the lowest poisoned granule of the instruction, or its word. R71, R73, R76, R77, R181, R227: a ready slot whose
fetched word decodes to nothing, is refused for the vector mode, would be the 33rd of its group, is a supervisor's without
SUP, or names a register outside its window raises the cause of the first failing check precisely at the instruction, with
its TVAL, and has no other effect; one that has no place in its coprocessor queue yet, or waits for the long unit, is not
ready; any other is issued. -/
def Obligations.FetchAndIssueChecks : Prop :=
  (∀ (s u : State) (n ctx : Nat) (pc : BitVec 57) (task : BitVec 40) (b : Block),
      s.fetchBlock n ctx pc.toNat task = (u, .ok b) →
      let off := pc.toNat % 32
      let w := b.v / 2 ^ (8 * off)
      let bytes : Nat := if w % 4 = 0 then 8 else if w % 4 = 1 then 12 else 16
      let bad (i : Nat) : Bool := b.psn.getD (off / 4 + i) false
      let got := (s.fetchAt n ctx pc task).2
      (s.fetchAt n ctx pc task).1 = u
      ∧ (w % 4 = 3 → got = .fault .illegalLen (pc.setWidth 64))
      ∧ (w % 4 ≠ 3 → 32 < off + bytes → got = .fault .fetchSpan (pc.setWidth 64))
      ∧ (w % 4 ≠ 3 → off + bytes ≤ 32 →
          (∀ i < bytes / 4, bad i = true → (∀ j < i, bad j = false) →
            got = .fault .poison (BitVec.ofNat 64 (pc.toNat + 4 * i)))
          ∧ ((∀ i < bytes / 4, bad i = false) →
            ∃ len : Len, len.bytes = bytes ∧ got = .word len (w % 2 ^ (8 * bytes)))))
  ∧
  (∀ (s u : State) (n k w : Nat) (len : Len),
      let t := s.thr n k
      let raise (c : Cause) (v : Word) : Option Next := some (.fault c v t.pc)
      let bits : Word := BitVec.ofNat 64 w
      s.ready n k = true → t.trapReq = none → t.blocked = none → t.repLive = false →
      (∀ c v, s.fetchAt n t.cr.ctx.toNat t.pc (s.token n k) = (u, .fault c v) → s.poll n k = (u, raise c v))
      ∧ (s.fetchAt n t.cr.ctx.toNat t.pc (s.token n k) = (u, .word len w) →
        match decodeWord len w with
        | none => s.poll n k = (u, raise .illegalOp bits)
        | some (h, i) =>
          let next := (u.repeated n k h i t.pc).2
          let v := (u.repeated n k h i t.pc).1
          let v := if next ≠ none then v.modThr n k fun t => { t with repWord := next } else v
          let t := v.thr n k
          let wrongMode : VReg → Bool := fun
            | .v _ => t.mode
            | .w _ => !t.mode
            | .s _ => false
          if prefixBad i next then s.poll n k = ((u.repeated n k h i (s.thr n k).pc).1, raise .illegalOp bits)
          else s.poll n k =
            if i.wf h = false ∨ i.vregs.any wrongMode then (v, raise .illegalOp bits)
            else if 32 ≤ t.groupLen then (v, raise .illegalOp 33)
            else if isSup i = true ∧ t.sup = false then (v, raise .priv bits)
            else match i.xregs.find? fun r => decide (t.index r < 0 ∨ (t.xcount.toNat : Int) ≤ t.index r) with
              | some r => (v, raise .regBounds (BitVec.ofInt 64 (t.index r)))
              | none =>
                if (isVector i || isMatrix i) = true ∧ 8 ≤ t.copq.length then
                  (v.modThr n k fun t => { t with wait := .copqRoom }, none)
                else if v.longHazard n k i then (v.modThr n k fun t => { t with wait := .longDone }, none)
                else (v, some (.go (v.issueOf t h i w (s.thr n k).pc)))))
  ∧ (∀ (s : State) (n k : Nat) (c : Cause) (v : Word) (pc : BitVec 57),
      s.turnOf n k (.fault c v pc) = s.takeTrap n k ⟨c, false, v, pc⟩)

/-- R231, R232: the integer arithmetic of the scalar unit, with every operand, type and destination; a zero divisor alone
sets a flag, DZ, where the dividend is not zero. R231, R233: the logic instructions bit by bit within the type's
width; the shifts and rotations by an amount taken modulo the width, of the bits read unsigned (`srl`, rotations) or
as two's complement (`sra`). -/
def Obligations.ScalarArithmeticAndLogic : Prop :=
  (∀ (ty : Ty) (a b c : XReg) (imm : Word) (s : State),
      let x := ty.opnd (s.x b)
      let y := ty.opnd (s.x c)
      let k := ty.opnd imm
      let w := ty.width
      Gives (.add ty a b c) s a (ty.res (x + y)) ∧ Gives (.sub ty a b c) s a (ty.res (x - y))
      ∧ Gives (.mul ty a b c) s a (ty.res (x * y)) ∧ Gives (.mulh ty a b c) s a (ty.res (x * y / 2 ^ w))
      ∧ Does (.div ty a b c) s
          { Effect.none s with
            thread := if y = 0 ∧ x ≠ 0 then { s.me with grpFlags := s.me.grpFlags ||| Flags.dz } else s.me
            writes := [(s.destX a, some ((ty.res (if y = 0 then 2 ^ w - 1 else x.tdiv y)).setWidth 2048))] }
      ∧ Gives (.rem ty a b c) s a (ty.res (if y = 0 then x else x - y * x.tdiv y))
      ∧ Gives (.min ty a b c) s a (ty.res (if x ≤ y then x else y))
      ∧ Gives (.max ty a b c) s a (ty.res (if x ≤ y then y else x))
      ∧ Gives (.abs ty a b) s a (ty.res (if x < 0 then -x else x))
      ∧ Gives (.addImm ty a b imm) s a (ty.res (x + k)) ∧ Gives (.subImm ty a b imm) s a (ty.res (x - k))
      ∧ Gives (.mulImm ty a b imm) s a (ty.res (x * k))
      ∧ Gives (.minImm ty a b imm) s a (ty.res (if x ≤ k then x else k))
      ∧ Gives (.maxImm ty a b imm) s a (ty.res (if x ≤ k then k else x)))
  ∧
  (∀ (ty : Ty) (a b c : XReg) (imm : Word) (s : State),
      let w := ty.width
      let bits (v : Word) : BitVec w := v.setWidth w
      let res (v : BitVec w) : Word := if ty.isSigned then v.signExtend 64 else v.setWidth 64
      let x := bits (s.x b)
      let y := bits (s.x c)
      let k := bits imm
      let n := y.toNat % w
      let m := k.toNat % w
      Gives (.and ty a b c) s a (res (x &&& y)) ∧ Gives (.or ty a b c) s a (res (x ||| y))
      ∧ Gives (.xor ty a b c) s a (res (x ^^^ y)) ∧ Gives (.andn ty a b c) s a (res (x &&& ~~~y))
      ∧ Gives (.orn ty a b c) s a (res (x ||| ~~~y)) ∧ Gives (.xnor ty a b c) s a (res (~~~(x ^^^ y)))
      ∧ Gives (.andImm ty a b imm) s a (res (x &&& k)) ∧ Gives (.orImm ty a b imm) s a (res (x ||| k))
      ∧ Gives (.xorImm ty a b imm) s a (res (x ^^^ k))
      ∧ Gives (.sll ty a b c) s a (res (x <<< n)) ∧ Gives (.srl ty a b c) s a (res (x >>> n))
      ∧ Gives (.sra ty a b c) s a (res (x.sshiftRight n)) ∧ Gives (.rol ty a b c) s a (res (x.rotateLeft n))
      ∧ Gives (.ror ty a b c) s a (res (x.rotateRight n))
      ∧ Gives (.sllImm ty a b imm) s a (res (x <<< m)) ∧ Gives (.srlImm ty a b imm) s a (res (x >>> m))
      ∧ Gives (.sraImm ty a b imm) s a (res (x.sshiftRight m)) ∧ Gives (.rolImm ty a b imm) s a (res (x.rotateLeft m))
      ∧ Gives (.rorImm ty a b imm) s a (res (x.rotateRight m)))

/-- R234, R235: bit fields of at most the bits above their position, counts, the byte order swap, and `lea`. -/
def Obligations.BitFieldsAndAddresses : Prop :=
  ∀ (ty : Ty) (a b c d : XReg) (isc : BitVec 3) (s : State),
    let pos := (s.x c).toNat % 64
    let len := min ((s.x d).toNat % 128) (64 - pos)
    let field := (s.x b).toNat / 2 ^ pos % 2 ^ len
    let w := ty.width
    let bit (i : Nat) : Bool := (s.x b).getLsbD i
    (∃ v, Gives (.bext ty a b c d) s a v ∧ ∀ i < 64, v.getLsbD i = if len = 0 then false else bit (pos + min i (len - 1)))
    ∧ Gives (.bextz ty a b c d) s a (BitVec.ofNat 64 field)
    ∧ (∃ v, Gives (.bins ty a b c d) s a v
        ∧ ∀ i < 64, v.getLsbD i = if pos ≤ i ∧ i < pos + len then bit (i - pos) else (s.x a).getLsbD i)
    ∧ (∃ n ≤ w, Gives (.clz ty a b) s a (BitVec.ofNat 64 n) ∧ (∀ i < n, bit (w - 1 - i) = false)
        ∧ (n < w → bit (w - 1 - n) = true))
    ∧ (∃ n ≤ w, Gives (.ctz ty a b) s a (BitVec.ofNat 64 n) ∧ (∀ i < n, bit i = false) ∧ (n < w → bit n = true))
    ∧ Gives (.popc ty a b) s a (BitVec.ofNat 64 ((List.range w).filter bit).length)
    ∧ (∃ v, Gives (.bswap ty a b) s a v
        ∧ ∀ i < min w 64, v.getLsbD i = bit (8 * (w / 8 - 1 - i / 8) + i % 8))
    ∧ Gives (.lea a b c isc) s a (s.x b + s.x c * BitVec.ofNat 64 (2 ^ isc.toNat))

/-- R236: the compares write one predicate, of the two operands read by their type. R237, R238, R239: predicate
operations, selects and moves, and the key of an address. -/
def Obligations.ScalarComparesPredicatesMoves : Prop :=
  (∀ (ty : Ty) (a : PReg) (b c : XReg) (imm : Word) (s : State),
      let x := ty.opnd (s.x b)
      let y := ty.opnd (s.x c)
      let k := ty.opnd imm
      Decides (.cmpEq ty a b c) s a (decide (x = y)) ∧ Decides (.cmpNe ty a b c) s a (decide (x ≠ y))
      ∧ Decides (.cmpLt ty a b c) s a (decide (x < y)) ∧ Decides (.cmpLe ty a b c) s a (decide (x ≤ y))
      ∧ Decides (.cmpGt ty a b c) s a (decide (x > y)) ∧ Decides (.cmpGe ty a b c) s a (decide (x ≥ y))
      ∧ Decides (.cmpEqImm ty a b imm) s a (decide (x = k)) ∧ Decides (.cmpNeImm ty a b imm) s a (decide (x ≠ k))
      ∧ Decides (.cmpLtImm ty a b imm) s a (decide (x < k)) ∧ Decides (.cmpLeImm ty a b imm) s a (decide (x ≤ k))
      ∧ Decides (.cmpGtImm ty a b imm) s a (decide (x > k)) ∧ Decides (.cmpGeImm ty a b imm) s a (decide (x ≥ k)))
  ∧
  (∀ (a : XReg) (b c d : XReg) (p q r : PReg) (imm : Word) (s : State),
      let x := s.me.pred q
      let y := s.me.pred r
      Decides (.pand p q r) s p (x && y) ∧ Decides (.por p q r) s p (x || y) ∧ Decides (.pxor p q r) s p (x ^^ y)
      ∧ Decides (.pandn p q r) s p (x && !y) ∧ Decides (.pnot p q) s p (!x)
      ∧ Gives (.sel a q c d) s a (if x then s.x c else s.x d) ∧ Gives (.movXX a b) s a (s.x b)
      ∧ Gives (.movXP a q) s a (if x then 1 else 0) ∧ Decides (.movPX p b) s p (decide (s.x b ≠ 0))
      ∧ Gives (.li a imm) s a imm
      ∧ Gives (.khash a b) s a (BitVec.ofNat 64 (s.me.cr.ctx.toNat * 2 ^ 55 + (s.x b).toNat % 2 ^ 57 / 4)))

/-- R75, R78, R79: what a scalar operand and a predicate read, and where a scalar or predicate destination goes: x0 reads
zero, p0 reads true, and a write to either is discarded; every other register is one of the thread's own window. -/
def Obligations.ScalarOperandsAndDestinations : Prop :=
  ∀ (s : State) (n : BitVec 6) (d : BitVec 5) (p : PReg), s.cur.iss.pipe = false →
    let t := s.me
    let e : Nat := (t.ix.toInt + d.toNat).toNat
    s.x (.dir n) = (if n = 0 then 0 else look s.myCore.rf ((t.xbase.toNat + n.toNat) % 1024) 0)
    ∧ s.x (.rel d) = (if e = 0 then 0 else look s.myCore.rf ((t.xbase.toNat + e) % 1024) 0)
    ∧ s.destX (.dir n) = (if n = 0 then .discard else .x n.toNat) ∧ s.destX (.rel d) = (if e = 0 then .discard else .x e)
    ∧ t.pred p = (if p = 0 then true else t.p.getLsbD p.toNat) ∧ destP p = (if p = 0 then .discard else .p p.toNat)
    ∧ (t.inWindow (.dir n) = true ↔ n.toNat < t.xcount.toNat)
    ∧ (t.inWindow (.rel d) = true ↔ 0 ≤ t.ix.toInt + d.toNat ∧ t.ix.toInt + d.toNat < t.xcount.toNat)

/-- R240, R241, R242: branches, jumps, calls, returns and `loop`. A target in a register that is not word aligned raises
ALIGN at the transfer, with the target as TVAL and no link written; every other transfer has its effect. R181, R247,
R334: `brk` and `trap` raise their causes with the immediate as TVAL, at themselves and behind themselves; `tret` ends
its group, whose end returns to TEPC, and outside the handler raises ILLEGAL_OP. -/
def Obligations.ControlTransfersAndTraps : Prop :=
  (∀ (p : PReg) (a b : XReg) (imm : Word) (s : State),
      let here := s.cur.iss.pc.setWidth 64
      let target : BitVec 57 := (here + 4 * imm).setWidth 57
      let next : Word := (s.cur.iss.pc + BitVec.ofNat 57 s.cur.iss.hdr.len.bytes).setWidth 64
      let dest (t : Option (BitVec 57)) : Effect := { Effect.none s with target := t }
      let link (t : Option (BitVec 57)) : Effect := { dest t with writes := [(s.destX a, some (next.setWidth 2048))] }
      let t := s.x b
      let count := s.x a - 1
      Does (.br p imm) s (dest (if s.me.pred p then some target else none))
      ∧ Does (.brn p imm) s (dest (if s.me.pred p then none else some target))
      ∧ Does (.call a imm) s (link (some target))
      ∧ Does (.loop a imm) s
          { dest (if count = 0 then none else some target) with writes := [(s.destX a, some (count.setWidth 2048))] }
      ∧ (if t &&& 3 = 0 then
          Does (.jr b) s (dest (some (t.setWidth 57))) ∧ Does (.ret b) s (dest (some (t.setWidth 57)))
          ∧ Does (.callr a b) s (link (some (t.setWidth 57)))
        else
          let tval : Word := (t.setWidth 57).setWidth 64
          Raises (.jr b) s .align tval ∧ Raises (.ret b) s .align tval ∧ Raises (.callr a b) s .align tval))
  ∧
  (∀ (imm : Word) (s : State),
      Raises (.brk imm) s .brk imm
      ∧ exec (.trap imm) s = .next ((s.modMe fun t => { t with gwbPark := s.cur.iss.hdr.sw }).takeTrap s.cur.core s.cur.slot
          ⟨.trap, false, imm, s.cur.iss.pc + BitVec.ofNat 57 s.cur.iss.hdr.len.bytes⟩)
      ∧ if s.me.intrap then
          ∃ t, exec .tret s = .next t ∧ OnlyMe s t s.myCore
            ∧ t.me = { s.me with
                pend := s.me.pend ++ [⟨s.ids, .tret, some (s.me.tepc.setWidth 2048)⟩], blocked := none, wait := .parked }
            ∧ t.agenda = s.agenda ++ [.groupEnd s.cur.core s.cur.slot]
        else Raises .tret s .illegalOp (s.cur.iss.iw.setWidth 64))

/-- R226, R244, R246, R248: the index register is read as a signed 16-bit number and written at the group's end; the cycle
count is the same for every `rdcyc` of a group; `nop` does nothing; `rep` sets the repeat state and leaves the pc at
itself. -/
def Obligations.IndexCyclesRepeatAndNop : Prop :=
  ∀ (a b : XReg) (imm : Word) (count : BitVec 6) (mask : BitVec 4) (s : State),
    let ix (v : BitVec 16) : Effect := { Effect.none s with writes := [(.ix, some (v.setWidth 2048))] }
    let now := match s.me.cyc with
      | some v => v
      | none => BitVec.ofNat 64 (s.now - s.myCore.epoch)
    Does (.ixset b imm) s (ix ((s.x b + imm).setWidth 16)) ∧ Does (.ixadd b imm) s (ix (s.me.ix + (s.x b + imm).setWidth 16))
    ∧ Gives (.ixget a) s a (BitVec.ofInt 64 s.me.ix.toInt)
    ∧ Does (.rdcyc a) s
        { Effect.none s with
          thread := { s.me with cyc := some now }, writes := [(s.destX a, some (now.setWidth 2048))] }
    ∧ Does .nop s (Effect.none s)
    ∧ ∃ t, exec (.rep count mask) s = .next t ∧ OnlyMe s t s.myCore ∧ t.agenda = s.agenda ∧ t.ids = s.ids
      ∧ t.me = { s.me with
          wait := .none, blocked := none, repLen := s.cur.iss.hdr.len, repcnt := BitVec.ofNat 7 (count.toNat + 1), repdone := 0, repmask := mask
          repLive := true }

/-- R85, R245: `mfts` returns the register as it stands; `mtts` takes effect at the group's end, with the fields and the
clamps of the table, PRIV for TEPC outside the handler and ILLEGAL_OP for the registers that are not written. -/
def Obligations.ThreadStateRegisters : Prop :=
  ∀ (a b : XReg) (s : State),
    let t := s.me
    let v := s.x b
    let put (d : Dest) (x : Val) : Effect := { Effect.none s with writes := [(d, some x)] }
    let word : Word := s.cur.iss.iw.setWidth 64
    Gives (.mfts a .tcause) s a (t.tcause.setWidth 64) ∧ Gives (.mfts a .tepc) s a (t.tepc.setWidth 64)
    ∧ Gives (.mfts a .tval) s a t.tval ∧ Gives (.mfts a .xbase) s a (t.xbase.setWidth 64)
    ∧ Gives (.mfts a .xcount) s a (t.xcount.setWidth 64) ∧ Gives (.mfts a .seq) s a (t.seq.setWidth 64)
    ∧ Gives (.mfts a .cringh) s a (t.cringh.setWidth 64) ∧ Gives (.mfts a .stallhw) s a (s.myCore.stallhw.setWidth 64)
    ∧ Gives (.mfts a .stallage) s a (s.myCore.stallage.setWidth 64)
    ∧ (∃ r, Gives (.mfts a .tstat) s a r ∧ (r.toNat / 2 ^ 11 % 2 ^ 5 = t.flags.toNat) ∧ (r.getLsbD 19 = t.intrap)
        ∧ (r.getLsbD 18 = t.sup) ∧ (r.getLsbD 17 = t.pin) ∧ (r.getLsbD 16 = t.lend) ∧ (r.getLsbD 29 = t.long)
        ∧ (r.toNat / 2 ^ 26 % 2 ^ 3 = t.lctx.toNat) ∧ (r.toNat / 2 ^ 30 % 2 ^ 4 = t.repmask.toNat)
        ∧ (r.toNat / 2 ^ 34 % 2 ^ 6 = t.repdone.toNat) ∧ (r.toNat / 2 ^ 40 % 2 ^ 7 = t.repcnt.toNat)
        ∧ (r.toNat / 2 ^ 47 % 2 = t.mmta.toNat) ∧ (r.toNat / 2 ^ 48 = t.mmtk.toNat)
        ∧ (r.toNat / 2 ^ 20 % 2 ^ 6 = (t.gwb.filter fun w => match w.dest with
          | .x _ | .p _ | .v _ | .ix => true
          | _ => false).length % 2 ^ 6)
        ∧ r.toNat % 2 ^ 11 = 0)
    ∧ Does (.mtts .tstat b) s
        { put .flags (BitVec.ofNat 2048 (v.toNat / 2 ^ 11 % 2 ^ 5)) with thread := { s.me with grpFlags := 0 } }
    ∧ Does (.mtts .stallhw b) s
        (put .stallhw (BitVec.ofNat 2048 (if v.toNat < 1 then 1 else if 128 < v.toNat then 128 else v.toNat)))
    ∧ Does (.mtts .stallage b) s
        (put .stallage (BitVec.ofNat 2048 (if v.toNat % 2 ^ 16 < 64 then 64 else v.toNat % 2 ^ 16)))
    ∧ (if t.intrap then Does (.mtts .tepc b) s (put .tepc (BitVec.ofNat 2048 (v.toNat / 4 % 2 ^ 55 * 4)))
      else Raises (.mtts .tepc b) s .priv word)
    ∧ ∀ r, r = .tcause ∨ r = .tval ∨ r = .xbase ∨ r = .xcount ∨ r = .seq ∨ r = .cringh →
        Raises (.mtts r b) s .illegalOp word

/-- R75: what an instruction has written to a snapshot register is not read in its group; a parked group ends once every
write has returned, and not before; at its end its writes become visible, a later write to the same register winning,
and writes to x0 and p0 are discarded. The writes lie in a window, as R78 has checked at issue. R84, R87, R178, R182,
R247, R334: the end of a group whose writes hold a `tret` returns from the handler: INTRAP is cleared, the writes set aside
are the group's again, and control goes to the TEPC that `tret` read; an interrupted repeat goes on at its prefix, and a
group that a `trap` had ended is parked. Otherwise, while INTRAP is 0, the first late cause that is due is delivered after
the writes are visible, at the next instruction: a COP fault, then PADDOCK, then what was held in the handler; with INTRAP
= 1 it is held. -/
def Obligations.GroupsEnd : Prop :=
  ((∀ (s : State) (d : Dest) (v : Val) (a : XReg) (p : PReg) (r : VReg),
      (s.wr d v).x a = s.x a ∧ (s.wr d v).me.pred p = s.me.pred p ∧ (s.wr d v).vec r = s.vec r
        ∧ (s.wr d v).me.ix = s.me.ix ∧ (s.wr d v).me.pend = s.me.pend ++ [⟨s.ids, d, some v⟩])
    ∧ (∀ (s : State) (n k : Nat),
      let e := { s with ev := .groupEnd n k }
      let t := s.thr n k
      exec .groupEnd e = .next (if t.status = .running ∧ t.wait = .parked ∧ ∀ w ∈ t.pend, w.val ≠ none
        then (e.endGroup n k).stallFill n else e))
    ∧ ∀ (s : State) (n k : Nat) (l : List PendW), (∀ w ∈ l, ∀ e, w.dest = .x e → e < 64) →
      let u := applyWrites n k l s
      let last (d : Dest) : Option Val := (l.reverse.find? fun w => w.dest == d).map fun w => w.val.getD 0
      (∀ e < 64, (u.coreAt n).readX (u.thr n k) e =
          if e = 0 then 0 else match last (.x e) with
            | some v => v.setWidth 64
            | none => (s.coreAt n).readX (s.thr n k) e)
      ∧ (∀ p : PReg, (u.thr n k).pred p =
          if p = 0 then true else match last (.p p.toNat) with
            | some v => decide (v ≠ 0)
            | none => (s.thr n k).pred p)
      ∧ (∀ i, (u.thr n k).readV i = match last (.v i) with
            | some v => v.setWidth 256
            | none => (s.thr n k).readV i)
      ∧ (u.thr n k).ix = (match last .ix with
            | some v => v.setWidth 16
            | none => (s.thr n k).ix))
  ∧
  (∀ (s : State) (n k : Nat),
      let t := s.thr n k
      let ended := ((applyWrites n k t.pend
        (s.modThr n k fun t => { t with pend := [], groupLen := 0, cyc := none, grpFlags := 0, wait := .none })).modThr n k
          fun u => { u with flags := u.flags ||| t.grpFlags }).endLong n k
      let u := s.endGroup n k
      let e := ended.thr n k
      let late (t : Thread) (c : Cause) (v : Word) : Prop :=
        u = (ended.modThr n k fun _ => t).takeTrap n k ⟨c, true, v, e.pc⟩
      match t.pend.find? fun w => w.dest == .tret with
      | some w =>
        OnlyAt ended u n k (ended.coreAt n)
        ∧ u.agenda = ended.agenda ++ (if e.gwbPark then [.groupEnd n k] else []) ∧ u.thr n k =
          { e with
            wait := if e.gwbPark then .parked else .none, blocked := none, intrap := false, pc := (w.val.getD 0).setWidth 57
            pend := e.gwb, groupLen := e.gwbLen, cyc := e.gwbCyc, grpFlags := e.gwbFlags, gwb := [], gwbLen := 0
            gwbCyc := none, gwbFlags := 0, gwbPark := false, repLive := decide (e.repcnt ≠ 0), repWord := none }
      | none =>
        if e.intrap then u = ended
        else match e.copFault, e.padPend, e.heldLate with
          | some (seq, swizzle), _, _ =>
            late { e with copFault := none, faultPipes := [] } (if swizzle then .swizzle else .cop) (BitVec.ofNat 64 seq)
          | none, some c, _ => late { e with padPend := none } .paddock (BitVec.ofNat 64 c)
          | none, none, .mergeOp :: _ =>
            late { e with mergePend := none, heldLate := e.heldLate.filter (· != .mergeOp) } .mergeOp
              (BitVec.ofNat 64 (e.mergePend.getD 0))
          | none, none, .guard :: _ =>
            late { e with guard := Guard.clear, heldLate := e.heldLate.filter (· != .guard) } .guard
              (BitVec.ofNat 64 (e.guard.bank.toNat * 2 ^ 32 + e.guard.off.toNat))
          | none, none, .conservation :: _ =>
            late { e with consPend := none, heldLate := e.heldLate.filter (· != .conservation) } .conservation
              ((e.consPend.getD 0).setWidth 64)
          | none, none, [] => u = ended
          | none, none, _ => True)

/-- R77, R182, R333: entry to the trap handler. Without a handler or while it runs the unit ends in a double fault; writes
of the group that have not returned are waited for; otherwise the cause, value and address are saved, the group's
writes but discarded and pipe-ordered ones are set aside, a repeat ends, an `mmt` is to stop at its next chunk, and control
goes to THA, in the cycle of an `sv.fq` the one before it (R351). Nothing else changes. R86: the codes of the causes that reach a
handler. -/
def Obligations.TrapEntryAndCauses : Prop :=
  (∀ (s : State) (n k : Nat) (r : TrapReq),
      let t := s.thr n k
      let u := s.takeTrap n k r
      let tha := match find? s.io.thaWas t.cr.ctx.toNat with
        | some (cycle, old) => if cycle = s.now then old else look s.io.tha t.cr.ctx.toNat 0
        | none => look s.io.tha t.cr.ctx.toNat 0
      let waits : Thread := { t with wait := .trap, blocked := none, trapReq := some r }
      let inMmt := t.inflight.any fun i => match i.instr with
        | .mmt .. => true
        | _ => false
      OnlyAt s u n k (s.coreAt n) ∧ u.ids = s.ids
      ∧ if t.intrap = true ∨ tha = 0 then u.thr n k = waits ∧ u.agenda = s.agenda ++ [.taskAbort n k .double]
        else if ∃ w ∈ t.pend, w.val = none then u.thr n k = waits ∧ u.agenda = s.agenda
        else u.agenda = s.agenda ∧ u.thr n k = { t with
          wait := .none, blocked := none, trapReq := none
          tcause := BitVec.ofNat 9 (256 * r.late.toNat + r.cause.code), tval := r.tval, tepc := r.tepc
          intrap := true, pc := tha, repLive := false, repWord := none, mmtHalt := inMmt
          gwb := t.pend.filter fun w => match w.dest with
            | .discard | .w _ => false
            | _ => true
          gwbLen := t.groupLen, gwbCyc := t.cyc, gwbFlags := t.grpFlags, pend := [], groupLen := 0, cyc := none, grpFlags := 0 })
  ∧
  ([Cause.illegalOp, .illegalLen, .fetchSpan, .regBounds, .priv, .align, .lsProt, .guard, .handle, .poison, .cop, .mergeOp,
      .conservation, .swizzle, .paddock, .brk, .trap].map Cause.code =
    [0x01, 0x02, 0x03, 0x04, 0x05, 0x06, 0x07, 0x08, 0x09, 0x0C, 0x0D, 0x0E, 0x0F, 0x10, 0x12, 0x14, 0x15])

/-- R88, R252, R256: plain accesses to the local store, for every type and register class: ALIGN with the offset, then
LS_PROT with the lowest failing offset; otherwise the bytes at the offset are loaded, or written and nothing else. -/
def Obligations.LocalStoreAccesses : Prop :=
  ∀ (ty : Ty) (a : DReg) (b : XReg) (imm : Word) (s : State),
    let off := (s.x b + imm).toNat
    let width := if ty = .b128 then 4 else ty.bytes
    let ok (o n bit : Nat) : Bool := decide (o + n ≤ s.myCore.spbase.toNat) && (List.range 8).any fun i =>
      let v := look s.myCore.lspr i 0
      v.getLsbD 30 && v.getLsbD bit && v.toNat / 2 ^ 31 % 2 ^ 9 == s.me.cr.ctx.toNat
        && decide (64 * (v.toNat / 2 ^ 52) ≤ o ∧ o + n ≤ 64 * (v.toNat / 2 ^ 40 % 2 ^ 12) + 64)
    let refused (i : Instr) (bit : Nat) : Prop := ∃ bad < ty.bytes, Raises i s .lsProt (BitVec.ofNat 64 (off + bad))
      ∧ (∀ j < bad, ok (off + j) 1 bit = true)
      ∧ (ok (off + bad) 1 bit = false ∨ bad = 0 ∧ ∀ j < ty.bytes, ok (off + j) 1 bit = true)
    let data : Nat := match a with
      | .x r => (s.x r).toNat
      | .v r => (s.vec r).toNat
    if off % width ≠ 0 then
      Raises (.ldLs ty a b imm) s .align (BitVec.ofNat 64 off) ∧ Raises (.stLs ty a b imm) s .align (BitVec.ofNat 64 off)
    else
      (if ok off ty.bytes 28 then
        LoadsNow (.ldLs ty a b imm) s ty a (leNat (Memory.readN s.myCore.ls off ty.bytes)) id
      else refused (.ldLs ty a b imm) 28)
      ∧ (if ok off ty.bytes 29 then
        Does (.stLs ty a b imm) s
          { Effect.none s with core := { s.myCore with ls := Memory.writeN s.myCore.ls off (leBytes ty.bytes data) } }
      else refused (.stLs ty a b imm) 29)

/-- R90, R91, R252, R256, R275: accesses through a handle, whose entry in the cycle of a give is the one before it. The bytes are checked in turn and the first that fails decides: no
valid entry that names the thread, or an offset beyond the guard granules, is HANDLE with its TVAL; then ALIGN; then a
guard granule, which reads zero, discards a write and is recorded; otherwise the bytes of the bank. -/
def Obligations.HandleAccesses : Prop :=
  ∀ (ty : Ty) (a : DReg) (b c : XReg) (imm : Word) (s : State),
    let h : Word := ((s.x b).setWidth 16).setWidth 64
    let cl := clusterOf s.cur.core
    let v := match find? (s.clusterAt cl).gave (h.toNat % 512) with
      | some (cycle, old) => if cycle = s.now then old else look (s.clusterAt cl).htab (h.toNat % 512) 0
      | none => look (s.clusterAt cl).htab (h.toNat % 512) 0
    let base := v.toNat / 2 ^ 49 % 2 ^ 12
    let size := v.toNat / 2 ^ 37 % 2 ^ 12
    let bank := v.toNat / 2 ^ 61 % 2 ^ 3
    let mine : Bool := h.toNat < 512 && s.handleOk cl v && v.toNat / 2 ^ 21 % 2 ^ 9 == s.me.cr.ctx.toNat
      && v.toNat / 2 ^ 30 % 2 ^ 3 == posOf s.cur.core && v.toNat / 2 ^ 33 % 2 ^ 4 == s.cur.slot
    let data : Nat := match a with
      | .x r => (s.x r).toNat
      | .v r => (s.vec r).toNat
    let far (o : Int) : Prop := o < -64 ∨ 64 * (size : Int) + 64 ≤ o
    let inside (o : Int) : Prop := 0 ≤ o ∧ o < 64 * (size : Int)
    let touched (o : Int) (t : Thread) : Thread :=
      { t with
        guard := if t.guard.pending then { t.guard with count := if t.guard.count = 255 then 255 else t.guard.count + 1 }
          else ⟨true, BitVec.ofNat 3 bank, BitVec.ofInt 32 o, 1⟩ }
    ∀ (i j : Instr) (o : Int),
      ((i, j, o) = (.ldHandleDisp ty a b imm, .stHandleDisp ty a b imm, (imm.setWidth 32).toInt)
        ∨ (i, j, o) = (.ldHandleReg ty a b c, .stHandleReg ty a b c, ((s.x c).setWidth 32).toInt)) →
      let place : Int := 64 * base + o
      let bytes : List Int := (List.range ty.bytes).map fun (k : Nat) => o + (k : Int)
      let width : Int := if ty = .b128 then 4 else ty.bytes
      if mine = false then Raises i s .handle h ∧ Raises j s .handle h
      else match bytes.find? fun p => !decide (inside p) with
        | some p =>
          if far p then
            let tval := BitVec.ofNat 64 (h.toNat * 2 ^ 32 + (p % 2 ^ 32).toNat)
            Raises i s .handle tval ∧ Raises j s .handle tval
          else if place % width ≠ 0 then
            Raises i s .align (BitVec.ofInt 64 place) ∧ Raises j s .align (BitVec.ofInt 64 place)
          else
            LoadsNow i s ty a 0 (touched p) ∧ Does j s { Effect.none s with thread := touched p s.me }
        | none =>
          let core := coreOf cl bank
          let at' := 64 * base + o.toNat
          if place % width ≠ 0 then
            Raises i s .align (BitVec.ofInt 64 place) ∧ Raises j s .align (BitVec.ofInt 64 place)
          else
            LoadsNow i s ty a (leNat (Memory.readN (s.coreAt core).ls at' ty.bytes)) id
            ∧ (let u := s.storeLs s.cur.core s.cur.slot core at' (leBytes ty.bytes data)
              DoesOver j s u (Effect.none u))

/-- R119, R140, R250, R252, R253, R254, R260: loads of global memory whose lanes are prepared, aligned where they do not
decode a narrow page, not strongly ordered, not poisoned and found: each lane's value by its type, a gather's lanes in
lane order with zeros above them, on their way back to the destination. A misaligned lane raises ALIGN with the
lowest. R118, R161, R174: what a load's way home changes: no core and no cluster, and in home memory without stored
errors nothing but accessed bits of page-table leaves (bit 6 of a byte). R118, R119, R130: a load's result returns:
its value is delivered to its place among the group's writes, its read marks go and its flags are set; a poisoned one
raises POISON at the load and writes no register. -/
def Obligations.GlobalLoads : Prop :=
  (∀ (ty : Ty) (a : DReg) (va : VReg) (b c : XReg) (vi : VReg) (isc : BitVec 3) (idx : Idx) (imm : Word) (s : State),
      let ctx := s.me.cr.ctx.toNat
      let scalar (vs : List Nat) : Val := extendTy ty (vs.headD 0)
      let many (vs : List Nat) : Val :=
        BitVec.ofNat 2048 ((vs.zipIdx).foldl (fun n (v, j) => n + v * 2 ^ (ty.width * j)) 0)
      let iw := 2 ^ idx.iw.toNat
      let index (j : Nat) : Word :=
        let raw := (s.vec vi).toNat / 2 ^ (8 * iw * j) % 2 ^ (8 * iw)
        if idx.is then BitVec.ofInt 64 (toSigned (8 * iw) raw) else BitVec.ofNat 64 raw
      let lanes := (List.range (min (s.me.rb / ty.bytes) (s.me.rb / iw))).map fun j =>
        ((s.x b + index j * BitVec.ofNat 64 (2 ^ idx.isc.toNat)).setWidth 57).toNat
      ∀ (i : Instr) (d : Dest) (eas : List Nat) (pack : List Nat → Val), s.phase = 0 →
        (i, d, eas, pack) = (.ld ty a b imm, s.destD a, [((s.x b + imm).setWidth 57).toNat], scalar)
        ∨ (i, d, eas, pack) = (.ldIndexed ty a b c isc, s.destD a,
            [((s.x b + s.x c * BitVec.ofNat 64 (2 ^ isc.toNat)).setWidth 57).toNat], scalar)
        ∨ (i, d, eas, pack) = (.gather ty va b vi idx, destV va, lanes, many) →
        (ty ≠ .f32 → s.lanesOf ctx ty eas = (s, .ok (eas.map fun ea => ⟨ea, none, dwsOf ea ty.bytes⟩)))
        ∧ ∀ (u : State) (ls : List Lane), s.lanesOf ctx ty eas = (u, .ok ls) →
          (∀ x xs, (ls.filter fun l => l.dec.isNone && l.ea % alignOf ty != 0).map Lane.ea = x :: xs →
            exec i s = .next (u.raise .align (BitVec.ofNat 64 (xs.foldl min x))))
          ∧ ((∀ l ∈ ls, l.dec = none → l.ea % alignOf ty = 0) → u.me.streamsDone = true →
            (∀ l ∈ ls, ∀ x ∈ l.dws, u.strong x = false) →
            ∀ (v : State) (ds : List (Nat × Dw)),
              u.loadDws s.cur.core s.cur.slot ctx (ls.flatMap Lane.dws) = (v, .ok ds) →
              (∀ l ∈ ls, (laneValue ds ty l).2.1 = false) →
              LoadBegins i s v d (ls.flatMap Lane.dws) (pack (ls.map fun l => (laneValue ds ty l).1))
                ((ls.map fun l => (laneValue ds ty l).2.2).foldl (· ||| ·) 0)))
  ∧
  (∀ (s : State) (n k ctx : Nat) (ty : Ty) (l : List Nat), s.hbmErr = [] →
      let same (t : State) : Prop :=
        t.cores = s.cores ∧ t.clusters = s.clusters ∧ t.io.rht = s.io.rht ∧ t.hostMem = s.hostMem ∧ t.hbmErr = []
        ∧ ∀ a, Memory.read t.mem a &&& ~~~64#8 = Memory.read s.mem a &&& ~~~64#8
      Memory.wf s.mem = true → same (s.lanesOf ctx ty l).1 ∧ same (s.loadDws n k ctx l).1 ∧ same (s.lineFills n k ctx l).1)
  ∧
  (∀ (s : State) (n k tag : Nat) (l : Load),
      let e := { s with ev := .loadResultReturn n k tag }
      let t := s.thr n k
      (t.loads.find? fun x => x.tag == tag) = some l →
      let left := t.loads.filter fun x => x.tag != tag
      match l.val with
      | some v =>
        (∀ w ∈ t.pend ++ t.gwb, w.tag = tag → ∀ r, w.dest ≠ .w r) →
        ∃ u, exec .loadResultReturn e = .next u ∧ u.mem = s.mem ∧ u.thr n k =
          { t with
            loads := left, flags := t.flags ||| l.flags
            pend := t.pend.map fun w => if w.tag == tag then { w with val := some v } else w
            gwb := t.gwb.map fun w => if w.tag == tag then { w with val := some v } else w }
          ∧ u.agenda = s.agenda ++ if t.wait = .parked then [.groupEnd n k] else []
      | none =>
        exec .loadResultReturn e = .next ((e.modThr n k fun t =>
          { t with loads := left, pend := t.pend.filter fun w => w.tag != tag, groupLen := t.groupLen - 1 }).takeTrap n k
            ⟨.poison, false, BitVec.ofNat 64 l.va, t.pc⟩))

/-- R107, R140, R250, R252, R257, R260: keyed stores. A misaligned element raises ALIGN, the lowest first; a store without
strongly ordered elements emits every element in order into the stall run and goes on, or waits for places. R103,
R106, R107, R115, R121, R257: what one element of a store becomes: an entry of its key, width and operator, tentative
unless its page is strongly ordered, of the thread's task; it combines with the newest entry of its chain or is
appended to it, and changes nothing else but the monitors that count it. -/
def Obligations.GlobalStores : Prop :=
  (∀ (ty : Ty) (op : MOp) (trp : Bool) (a : DReg) (va : VReg) (b c : XReg) (vi : VReg) (isc : BitVec 3) (idx : Idx)
      (imm : Word) (s : State),
      let n := s.cur.core
      let width := if ty = .b128 then 4 else ty.bytes
      let elements (ea v : Nat) : List (Nat × Bool × Nat) :=
        if ty = .b128 then (List.range 4).map fun i => (ea + 4 * i, false, v / 2 ^ (32 * i) % 2 ^ 32)
        else [(ea, decide (ty.bytes = 8), if ty.bytes = 8 then v % 2 ^ 64 else v % 2 ^ 32)]
      let data : Nat := match a with
        | .x r => (s.x r).toNat
        | .v r => (s.vec r).toNat
      let store (i : Instr) (eas : List Nat) (l : List (Nat × Bool × Nat)) : Prop :=
        match eas.filter fun ea => ea % width != 0 with
        | x :: xs => Raises i s .align (BitVec.ofNat 64 (xs.foldl min x))
        | [] => s.phase = 0 → s.me.streamsDone = true → (∀ e ∈ l, s.strong e.1 = false) →
          match s.emitAll n s.cur.slot op trp l with
          | some u => DoesOver i s u
              { Effect.none u with
                events := if (u.coreAt n).stallhw.toNat ≤ (u.coreAt n).stall.length ∧ (u.coreAt n).stall ≠ [] then
                  [.stallHighwaterMoveout n] else [] }
          | none => exec i s = .next (s.block (.stallRoom l.length) 0)
      let one (ea : Nat) (i : Instr) : Prop := store i [ea] (elements ea data)
      let lanes := s.laneAddrs ty b vi idx
      one ((s.x b + imm).setWidth 57).toNat (.st ty op trp a b imm)
      ∧ one ((s.x b + s.x c * BitVec.ofNat 64 (2 ^ isc.toNat)).setWidth 57).toNat (.stIndexed ty op trp a b c isc)
      ∧ store (.scatter ty op trp va b vi idx) lanes
        ((lanes.zipIdx).flatMap fun (ea, j) => elements ea ((s.vec va).toNat / 2 ^ (ty.width * j) % 2 ^ ty.width)))
  ∧
  (∀ (s : State) (op : MOp) (trp w : Bool) (va bits : Nat), op.isFx = false →
      let n := s.cur.core
      let k := s.cur.slot
      let ctx := s.me.cr.ctx.toNat
      let r := s.route ctx va
      let e : Entry :=
        { key := BitVec.ofNat 64 (ctx * 2 ^ 55 + va % 2 ^ 57 / 4), op := op, w := w, tent := decide (r.ord ≠ 1), trp := trp
          psn := false, wexp := 0, task := s.token n k, val := BitVec.ofNat 128 bits, ord := BitVec.ofNat 2 r.ord
          units := [s.me.cr.owner], age := s.now, mark := false }
      let old := s.myCore.stall.filter fun x => x.key == e.key
      let new := (tryAppend old e).1
      (tryAppend old e).2 = none → new.length ≤ 4 → (new.length = old.length ∨ s.myCore.stall.length < 128) →
      ∃ u, s.emitAll n k op trp [(va, w, bits)] = some u ∧ u = { s with cores := u.cores }
        ∧ (∀ m, m ≠ n → u.coreAt m = s.coreAt m)
        ∧ u.myCore = { s.myCore with stall := setChain s.myCore.stall e.key new, mon := u.myCore.mon })

/-- R102, R106, R114: how two committed updates of one key and width combine, for `rep` and the integer, bitwise and exact
operators; different operators, and `ins`, are chained, but for a newer `rep`, which replaces what is not `rowx` or
`ins`. -/
def Obligations.UpdatesCombine : Prop :=
  ∀ (x y : Entry), x.key = y.key → x.w = y.w → x.tent = false → y.tent = false → x.mark = false → y.mark = false →
    let n := if y.w then 64 else 32
    let a := x.val.setWidth n
    let b := y.val.setWidth n
    let is (v : BitVec n) (bad : Bool) : Prop := ∃ m, combine x y = some (m, bad) ∧ m.val.toNat = v.toNat ∧ m.op = y.op
      ∧ m.key = y.key ∧ m.w = y.w ∧ m.tent = false ∧ m.psn = (x.psn || y.psn || bad)
    (y.op = .rep → x.op ≠ .rowx → x.op ≠ .ins → ∃ m, combine x y = some (m, false) ∧ m.val = y.val ∧ m.op = .rep ∧ m.psn = y.psn)
    ∧ (y.op = .rep → x.op = .rowx ∨ x.op = .ins → combine x y = none)
    ∧ (y.op ≠ .rep → x.op ≠ y.op ∨ x.op = .ins → combine x y = none)
    ∧ (x.op = y.op →
      (y.op = .add → is (a + b) false) ∧ (y.op = .or → is (a ||| b) false) ∧ (y.op = .and → is (a &&& b) false)
      ∧ (y.op = .xor → is (a ^^^ b) false)
      ∧ (y.op = .minI → is (if a.slt b then a else b) false) ∧ (y.op = .maxI → is (if a.slt b then b else a) false)
      ∧ (y.op = .minN → is (if a.ult b then a else b) false) ∧ (y.op = .maxN → is (if a.ult b then b else a) false)
      ∧ (y.op = .addsN → x.trp = y.trp →
          is (if a.toNat + b.toNat < 2 ^ n then a + b else BitVec.allOnes n)
            (y.trp && decide (2 ^ n ≤ a.toNat + b.toNat)))
      ∧ (y.op = .addsI → x.trp = y.trp →
          is (if a.toInt + b.toInt < -(2 ^ (n - 1)) then BitVec.intMin n
              else if 2 ^ (n - 1) ≤ a.toInt + b.toInt then BitVec.intMax n else a + b)
            (y.trp && decide (a.toInt + b.toInt < -(2 ^ (n - 1)) ∨ 2 ^ (n - 1) ≤ a.toInt + b.toInt)))
      ∧ (y.op = .faddx ∨ y.op = .rowx → x.wexp ≠ y.wexp → combine x y = none)
      ∧ (y.op = .faddx ∨ y.op = .rowx → x.wexp = y.wexp → ∃ m bad, combine x y = some (m, bad)
          ∧ (bad = false → m.val = x.val + y.val ∧ m.val.toInt = x.val.toInt + y.val.toInt)
          ∧ (bad = true → m.psn = true)))

/-- R44, R122, R259: `fetch` raises ALIGN at a misaligned address; otherwise it is a commit point, whose chain of the key then
leaves stall and shed, and at its end the value that its step at home returned is written, with a resume record that has it and
starts behind the instruction. R97, R119, R259: the step at home of a `fetch` whose page is there: a poisoned old value raises
POISON and appends nothing; otherwise the old value is returned, formed of home and the committed entries of the yard, and the
committed entry of the task that ended is appended there, and counted, or where the yard has no place for it the step is taken
again. Its order is that of its page (log 33: of a pair the primary makes it). -/
def Obligations.FetchInstruction : Prop :=
  (∀ (ty : Ty) (op : MOp) (a b c : XReg) (s : State), ty ≠ .b128 →
      let i : Instr := .fetch ty op a b c
      let n := s.cur.core
      let k := s.cur.slot
      let ea := ((s.x b).setWidth 57).toNat
      let key := BitVec.ofNat 64 (s.me.cr.ctx.toNat * 2 ^ 55 + ea / 4)
      if ea % ty.bytes ≠ 0 then Raises i s .align (BitVec.ofNat 64 ea)
      else
        (s.phase = 0 → exec i s = .next s.commitStart)
        ∧ (s.phase = 1 → exec i s = .next ((s.modMe fun t => { t with commit := .idle }).block .flipped 2))
        ∧ (s.phase = 2 → s.me.mate = none → s.me.window = [] → s.me.closed = [] → chain s.myCore.stall key = [] →
            chain (s.clusterAt (clusterOf n)).shed key = [] →
            ∃ t, exec i s = .next t ∧ t.cores = (s.modMe fun t =>
                { t with reply := none, wait := .reply, blocked := some { s.cur.iss with phase := 3 } }).cores
              ∧ t.agenda = s.agenda ++ [.fetchHomeStep n k])
        ∧ (3 ≤ s.phase → ∀ v, s.me.reply = some v →
          let res := ty.res (v.toNat : Int)
          ∃ r : Record, r.pc = s.nextPc ∧ r.ctx = s.me.cr.ctx ∧ r.owner = s.me.cr.owner
            ∧ [r.arg1, r.arg2, r.arg3, r.arg4, r.arg5] =
              ([1, 2, 3, 4, 5].map fun j => if s.destX a = .x j then res else s.argNow n k j)
            ∧ Does i s
              { Effect.none s with
                thread := { s.me with reply := none, pin := false, resume := r }
                writes := [(s.destX a, some (res.setWidth 2048))] }))
  ∧
  (∀ (s u : State) (n k pa at' lvl : Nat) (leaf : BitVec 128) (iss : Issue) (ty : Ty) (op : MOp) (a b c : XReg),
      let e := { s with ev := .fetchHomeStep n k }
      let x := { e with cur := ⟨n, k, iss⟩ }
      let ctx := (s.thr n k).cr.ctx.toNat
      let ea := ((x.x b).setWidth 57).toNat
      let key := ctx * 2 ^ 55 + ea / 4
      let die := (x.route ctx ea).home
      let w := ty.bytes == 8
      (s.thr n k).blocked = some iss → iss.instr = .fetch ty op a b c → (s.thr n k).mate = none →
      (s.dieAt die).frozen = [] → (s.dieAt die).heldAt = [] →
      x.xlate die ctx ea .wr = (u, .ok pa leaf at' lvl) →
      (u.sectorRead (pa / 64) (.core n false (u.endedToken n k))).2 = false →
      let v := (u.sectorRead (pa / 64) (.core n false (u.endedToken n k))).1
      let old := (combineLevels (v.homeDw leaf pa) (v.homeLevels die key [])).element key w
      if old.2 then
        exec .fetchHomeStep e = .next
          ((v.modMe fun t => { t with pin := false, blocked := none, wait := .none }).raise .poison (BitVec.ofNat 64 ea))
      else op.isFx = false → (v.route ctx ea).ord = leafOrd leaf →
        let ent : Entry :=
          { key := BitVec.ofNat 64 key, op := op, w := w, tent := false, trp := false, psn := false, wexp := 0
            task := v.endedToken n k, val := BitVec.ofNat 128 ((v.x c).toNat % 2 ^ ty.width), ord := BitVec.ofNat 2 (leafOrd leaf)
            units := [(s.thr n k).cr.owner], age := s.now, mark := false }
        ∃ mon, exec .fetchHomeStep e = .next
          (match (((v.modCore n fun c => { c with mon := mon }).dropReplicas ctx ea).setDirty at').yardInsert die ent with
          | some z =>
            ((z.yardFill die).fetchResume a (ty.res (old.1 : Int))).answer n k (BitVec.ofNat 64 old.1)
          | none => v.modMe fun t => { t with wait := .fenceTurn, blocked := some { iss with phase := 2 } }))

/-- R252, R262: `ldt` transposes a block of 16 rows and 4 columns of the local store into its registers; ALIGN with the
first misaligned offset, then LS_PROT with the lowest failing offset of its elements. R113, R264: `prefetch` always goes on, at
an address of any kind: at most its core's read cache gains the line of its address, in place of its first line where it holds
1,024 others, and never one of a strongly ordered key. Where no sector has an error it brings no event about, and leaves memory as
it was but for the A bit of table entries. -/
def Obligations.TransposedLoadAndPrefetch : Prop :=
  (∀ (ty : Ty) (a : VReg) (b c : XReg) (s : State), (∀ r, a ≠ .s r) →
      let i : Instr := .ldt ty a b c
      let k := ty.bytes
      let xa := s.x b
      let xp := s.x c
      let at' (r col : Nat) : Nat := (xa + BitVec.ofNat 64 r * xp + BitVec.ofNat 64 (col * k)).toNat
      let may (o n : Nat) : Bool := s.myCore.lsOk s.me.cr.ctx o n false
      -- the lowest failing byte of the element at `o`
      let fails (o bad : Nat) : Prop := may o k = false ∧ o ≤ bad ∧ bad < o + k ∧ (∀ p, o ≤ p → p < bad → may p 1 = true)
        ∧ (may bad 1 = false ∨ bad = o ∧ ∀ j < k, may (o + j) 1 = true)
      if xa.toNat % k ≠ 0 then Raises i s .align xa
      else if xp.toNat % k ≠ 0 then Raises i s .align (xa + xp)
      else if ∀ r < 16, ∀ col < 4, may (at' r col) k = true then
        ∃ v : Nat, (∀ r < 16, ∀ col < 4,
            v / 2 ^ (8 * k * (16 * col + r)) % 2 ^ (8 * k) = leNat (Memory.readN s.myCore.ls (at' r col) k))
          ∧ v < 2 ^ (8 * k * 64)
          ∧ match a with
            | .v m => Does i s { Effect.none s with
                writes := (List.range (2 * k)).map fun j =>
                  (.v (m.toNat + j), some (BitVec.ofNat 2048 (v / 2 ^ (256 * j) % 2 ^ 256))) }
            | .w m => let u := s.writeW s.cur.core s.cur.slot m.toNat (BitVec.ofNat 2048 v)
              DoesOver i s u (Effect.none u)
            | .s _ => True
      else ∃ bad, Raises i s .lsProt (BitVec.ofNat 64 bad)
        ∧ (∃ r col, r < 16 ∧ col < 4 ∧ fails (at' r col) bad)
        ∧ ∀ r < 16, ∀ col < 4, ∀ x, fails (at' r col) x → bad ≤ x)
  ∧
  (∀ (b : XReg) (imm : Word) (s : State),
      let ea := ((s.x b + imm).setWidth 57).toNat
      let ctx := s.me.cr.ctx.toNat
      let key := ctx * 2 ^ 51 + ea / 64
      ∃ (u : State) (core : Core), u.cores = s.cores ∧ u.clusters = s.clusters
        ∧ DoesOver (.prefetch b imm) s u { Effect.none u with core := core }
        ∧ (core = u.myCore ∨ (s.route ctx ea).ord ≠ 1 ∧ ∃ line, core =
          { u.myCore with
            rcache := put (if find? u.myCore.rcache key = none ∧ 1024 ≤ u.myCore.rcache.length then u.myCore.rcache.tail
              else u.myCore.rcache) key line })
        ∧ (s.hbmErr = [] → Memory.wf s.mem = true → u.agenda = s.agenda ∧ u.later = s.later
          ∧ ∀ p, Memory.read u.mem p &&& ~~~64#8 = Memory.read s.mem p &&& ~~~64#8))

/-- R44, R122, R139, R141, R319: every commit point waits until the thread's earlier accesses are performed, those of its streams
with them, and then sends its prepare and waits for the answer; nothing else happens before. A paired unit's window that holds
stores is another statement's.
R252, R335, R340, R349: an instruction with an image or a message in the local store checks it first: ALIGN where it
is not aligned, LS_PROT at the lowest byte that may not be accessed; otherwise the commit begins, with a supervisor's image
copied. R44, R97,
R101, R122, R259, R340: a good answer to a prepare: the commit can no longer fail. The resume record is kept, of the
instruction behind it or of the instruction itself where it is to run again, the next task begins with the next serial, the
unit is pinned on for a `fetch` alone, and the flip is sent; `msend` and `mrecv` only go on, to commit once they have acted.
R46, R122, R132, R166: the prepare asks for the task's pages in turn, at their homes. It is answered well where every page is
there. At the first that is absent an unpinned task is aborted to wait for the page, and a pinned unit's prepare waits itself;
where 256 other pages wait, or a page of the task is frozen, the prepare is asked again. The one of a thread that is in no
commit, or whose window has not been forwarded, is nothing. -/
def Obligations.CommitsPrepare : Prop :=
  (∀ (i : Instr) (s : State), s.phase = 0 → s.me.window = [] →
      (i = .commit ∨ i = .done ∨ i = .yield ∨ i = .wfw ∨ (∃ sc, i = .fenceRel sc ∨ i = .fenceAr sc ∨ i = .fenceSc sc)
        ∨ (∃ sc b imm, i = .bar sc b imm) ∨ (∃ ty a b, i = .xmax ty a b)
        ∨ ∃ a b c d, i = .ctwait b ∨ i = .ctadd b c d ∨ i = .ctcancel b ∨ i = .ctread a b c ∨ i = .svCtab b c d
          ∨ i = .svQprio b c ∨ i = .svTeardown b ∨ i = .svDph b c ∨ i = .svPtbr b c ∨ i = .svTinv b c ∨ i = .svPres b c
          ∨ i = .svPref b c ∨ i = .svMigr b c d ∨ i = .svHint b c d ∨ i = .svFq b c d ∨ i = .svSfq b c ∨ i = .svVrel b
          ∨ i = .svPdk b c ∨ i = .svKill b ∨ i = .svPrel b ∨ i = .svLspr b c d ∨ i = .svSpb b c ∨ i = .svHtab b c d
          ∨ i = .svYov b c d ∨ i = .svGstart b c) →
      let t := s.me
      let ready := t.loads = [] ∧ t.sosOut = 0 ∧ t.flip = none ∧ (∀ w ∈ t.pend, w.val ≠ none) ∧ t.arRel = none
        ∧ t.streamsDone = true
      let waits (w : Wait) (p : Nat) (t : Thread) : Thread := { t with wait := w, blocked := some { s.cur.iss with phase := p } }
      ∃ u, exec i s = .next u ∧ OnlyMe s u s.myCore ∧ u.ids = s.ids
        ∧ (ready → u.me = waits .prepared 1 { t with commit := .preparing }
          ∧ u.agenda = s.agenda ++ [.commitPrepare s.cur.core s.cur.slot])
        ∧ (¬ ready → u.me = waits .settled 0 t ∧ u.agenda = s.agenda))
  ∧
  (∀ (a b c d : XReg) (s : State), s.phase = 0 →
      let copied (n : Nat) : State := { s with cur := { s.cur with iss := { s.cur.iss with
        vs := [(.v 0, BitVec.ofNat 2048 (leNat (Memory.readN s.myCore.ls (s.x c).toNat n)))] } } }
      ∀ (i : Instr) (r : XReg) (n : Nat) (write : Bool) (u : State),
        (i, r, n, write, u) = (.svQrec b c, c, 32, false, copied 32) ∨ (i, r, n, write, u) = (.svRht b c, c, 16, false, copied 16)
          ∨ (i, r, n, write, u) = (.svPtw b c, c, 16, false, copied 16)
          ∨ (i, r, n, write, u) = (.svFlue c, c, 64, false, copied 64)
          ∨ (i, r, n, write, u) = (.svVac c d, c, 32, false, copied 32) ∨ (i, r, n, write, u) = (.msend b c d, c, 64, false, s)
          ∨ (i, r, n, write, u) = (.mrecv a b c, b, 64, true, s) ∨ (i, r, n, write, u) = (.fqrd a b, b, 64, true, s) →
        let off := (s.x r).toNat
        (off % n ≠ 0 → Raises i s .align (BitVec.ofNat 64 off))
        ∧ (off % n = 0 → s.myCore.lsOk s.me.cr.ctx off n write = true → exec i s = .next u.commitStart)
        ∧ (off % n = 0 → s.myCore.lsOk s.me.cr.ctx off n write = false → ∃ bad < n,
          Raises i s .lsProt (BitVec.ofNat 64 (off + bad)) ∧ (∀ j < bad, s.myCore.lsOk s.me.cr.ctx (off + j) 1 write = true)
          ∧ (s.myCore.lsOk s.me.cr.ctx (off + bad) 1 write = false
            ∨ bad = 0 ∧ ∀ j < n, s.myCore.lsOk s.me.cr.ctx (off + j) 1 write = true)))
  ∧
  (∀ (s : State) (n k : Nat) (iss : Issue),
      let e := { s with ev := .prepareAnswer n k true }
      let t := s.thr n k
      t.commit = .preparing → t.pipeCommit = none → t.blocked = some iss →
      ((∃ a b c, iss.instr = .msend a b c ∨ iss.instr = .mrecv a b c) →
        ∃ u, exec .prepareAnswer e = .next u ∧ OnlyAt e u n k (s.coreAt n) ∧ u.agenda = s.agenda
          ∧ u.thr n k = { t with commit := .prepared })
      ∧ ((∀ a b c, iss.instr ≠ .msend a b c ∧ iss.instr ≠ .mrecv a b c) →
        ∃ u, exec .prepareAnswer e = .next u ∧ u.mem = s.mem ∧ u.agenda = s.agenda ++ [.commitFlip n k (s.token n k)]
          ∧ (u.thr n k).commit = .prepared ∧ (u.thr n k).flip = some (s.token n k)
          ∧ ((u.thr n k).pin = true ↔ ∃ ty op a b c, iss.instr = .fetch ty op a b c)
          ∧ (u.thr n k).resume.pc = (if iss.pipe then iss.pc else if resumesHere iss.instr then t.pc
            else iss.pc + BitVec.ofNat 57 iss.hdr.len.bytes)
          ∧ recordArgs (u.thr n k).resume = [1, 2, 3, 4, 5].map (s.argNow n k)
          ∧ tokSerial (u.token n k) = (match find? (s.coreAt n).serial k with
            | none => 0
            | some x => x + 1)))
  ∧
  (∀ (s : State) (n k : Nat),
      let e := { s with ev := .commitPrepare n k }
      ((s.thr n k).commit ≠ .preparing ∨ (s.thr n k).forwarded = false → exec .commitPrepare e = .next e)
      ∧ ((s.thr n k).commit = .preparing → (s.thr n k).forwarded = true →
        let pages := pagesOf (s.entriesOf (s.token n k))
        let home (p : Nat × Nat) : Nat := (s.route p.1 p.2).home
        if ∃ p ∈ pages, (s.dieAt (home p)).isFrozen p.1 p.2 = true then exec .commitPrepare e = .next e
        else
          -- the first `j` pages are there, and `w` are the states after each of their translations
          ∀ (w : Nat → State) (j : Nat), w 0 = e →
            (∀ i < j, ∀ p, pages[i]? = some p → ∃ pa leaf at' lvl,
              (w i).xlate (home p) p.1 p.2 .wr = (w (i + 1), .ok pa leaf at' lvl)) →
            (pages.length = j → exec .commitPrepare e = .next ((w j).push [.prepareAnswer n k true]))
            ∧ ∀ p u lvl v at', pages[j]? = some p → (w j).xlate (home p) p.1 p.2 .wr = (u, .absent lvl v at') →
              let record := supWord 1 1 1 lvl (home p) (u.token n k)
              exec .commitPrepare e = .next
                (if u.waitRoom (home p) p.1 p.2 = false then u
                else if (u.thr n k).pin then
                  (u.modThr n k fun t => { t with commit := .held (home p) p.1 p.2 }).waitOn (home p) p.1 p.2 [.thread n k]
                    record (v.toNat % 2 ^ 64)
                else (u.waitOn (home p) p.1 p.2 [] record (v.toNat % 2 ^ 64)).push
                  [.taskAbort n k (.page (home p) p.1 p.2)])))

/-- R115, R122, R126: the flip commits every entry of the task in every run, overflow block and deferred set, and those held at
a yard's input or parked for a page; an exact entry of a deferred set combines with the committed one of its key, and a sum that
leaves its range is recorded. The acknowledgement completes the commit. R122, R129, R266: `commit` is done once its prepare is answered; a pending MERGE_OP is delivered after it, with TEPC at the next
instruction. -/
def Obligations.CommitsFlip : Prop :=
  (∀ (s : State) (n k : Nat) (task : BitVec 40),
      let flip (l : List Entry) : List Entry :=
        l.map fun x => if x.tent = true ∧ x.task = task then { x with tent := false } else x
      let e := { s with ev := .commitFlip n k task }
      let its (x : Entry) : Prop := x.tent = true ∧ x.task = task
      (∃ u, exec .commitFlip e = .next u ∧ (∀ m, (u.coreAt m).stall = flip (s.coreAt m).stall)
        ∧ (∀ m, (u.clusterAt m).shed = flip (s.clusterAt m).shed) ∧ (∀ d, (u.dieAt d).yard = flip (s.dieAt d).yard)
        ∧ (∀ d, (u.dieAt d).blocks = ((s.dieAt d).blocks.map flip).filter fun b => !b.isEmpty)
        ∧ (∀ d, (u.dieAt d).heldAt = (s.dieAt d).heldAt.map fun x => ((flip [x.1]).headD x.1, x.2))
        ∧ (∀ d, ∀ x ∈ (u.dieAt d).dset, ¬ its x) ∧ (∀ m j, u.thr m j = s.thr m j)
        ∧ ((∀ x ∈ s.dies, ∀ y ∈ x.2.dset, ¬ its y) →
          u.mem = s.mem ∧ u.io = s.io ∧ (∀ d, (u.dieAt d).dset = (s.dieAt d).dset)
          ∧ (∀ d, (u.dieAt d).waits = (s.dieAt d).waits.map fun w =>
            { w with items := w.items.map fun
                | .entry x a b => .entry ((flip [x]).headD x) a b
                | x => x })
          ∧ ∃ l, u.agenda = s.agenda ++ l ++ [.flipAcknowledge n k task] ∧ ∀ x ∈ l, ∃ cl key, x = .shedMoveRetry cl key)
        ∧ ∀ d x y m bad, (s.dieAt d).dset = [x, y] → x.tent = false → its y → combine x { y with tent := false } = some (m, bad) →
          (u.dieAt d).dset = [m]
          ∧ (bad = true → ∃ launch num, .mergeFaultRecordArrival y.task launch num y.ctx ∈ u.agenda))
      ∧ ∃ u, exec .flipAcknowledge { s with ev := .flipAcknowledge n k task } = .next u
        ∧ u.thr n k = (if (s.thr n k).flip = some task then { s.thr n k with flip := none } else s.thr n k)
        ∧ (u.clusterAt (clusterOf n)).dmask = del (s.clusterAt (clusterOf n)).dmask task.toNat
        ∧ u.mem = s.mem ∧ u.io = s.io ∧ u.agenda = s.agenda)
  ∧
  (∀ (s : State), s.phase ≠ 0 →
      let u := s.modMe fun t => { t with commit := .idle }
      match s.me.mergePend with
      | none => Does .commit s { Effect.none s with thread := { s.me with commit := .idle } }
      | some num => exec .commit s = .next (u.retire.dueLate ⟨.mergeOp, true, BitVec.ofNat 64 num, s.nextPc⟩))

/-- R142, R143, R144, R150, R156, R230, R267, R319: the last phase of the fences, and what each waits for: an acquire for the
thread's loads, those of its streams with them, and a release of system scope for the unit's puts. The acquires drop the lines and
copies of their scope, and a line that a load is still to leave. R117, R142, R144, R270: the phases of a release before its last,
for `fence.rel`, `fence.sc` and `bar`: the commit is complete, the stall run has moved out, the unit's committed entries have
left the shed and stand at no yard's input, and each of the four yards is asked to apply what it holds of the unit; a scope that
needs no more goes on at once, `fence.sc` with its acquire, `bar` with its arrival. -/
def Obligations.FencesAndReleases : Prop :=
  (∀ (s : State) (sc : Scope), s.me.mergePend = none →
      let n := s.cur.core
      let k := s.cur.slot
      let ctx := s.me.cr.ctx.toNat
      let gone (line : Nat) : Bool := line / 2 ^ 51 == ctx && (s.route ctx (line % 2 ^ 51 * 64)).ord == 0
      (s.phase = 5 → (sc ≠ .system ∨ s.putsLeft n k = false) → Does (.fenceRel sc) s (Effect.none s))
      ∧ (s.phase = 5 → sc = .system → s.putsLeft n k = true →
        ∀ i, i = .fenceRel sc ∨ i = .fenceSc sc ∨ (∃ b imm, i = .bar sc b imm) → exec i s = .next (s.block .puts 5))
      ∧ (s.putsLeft n k = true ↔ ∃ p ∈ s.io.puts, p.unit = s.me.cr.owner
        ∨ ∃ m j, s.mateAt n k = some (m, j) ∧ p.unit = (s.thr m j).cr.owner)
      ∧ (s.me.loads ≠ [] → exec (.fenceAcq sc) s = .next (s.block .loads 0))
      ∧ (s.me.loads = [] → s.me.streamsDone = false → exec (.fenceAcq sc) s = .next (s.block .copqDrained 0))
      ∧ (s.me.loads = [] → s.me.streamsDone = true → DoesOver (.fenceAcq sc) s (s.acquire sc) (Effect.none (s.acquire sc)))
      ∧ (s.phase ≠ 0 →
        let u := (s.modMe fun t => { t with commit := .idle, arRel := some (sc, false) }).acquire sc
        u.me.arRel = some (sc, false) ∧ DoesOver (.fenceAr sc) s u (Effect.none u))
      ∧ (s.phase = 5 → (sc ≠ .system ∨ s.putsLeft n k = false) →
        let u := (s.modIo fun io => { io with serialFence := io.serialFence + 1 }).acquire sc
        DoesOver (.fenceSc sc) s u (Effect.none u))
      ∧ (sc = .thread ∨ sc = .core → s.acquire sc = s)
      ∧ (sc ≠ .thread → sc ≠ .core →
        ((s.acquire sc).coreAt n).rcache = ((s.coreAt n).rcache.filter fun x => !gone x.1)
        ∧ ∀ j, (s.acquire sc).thr n j = { s.thr n j with
            loads := (s.thr n j).loads.map fun l => { l with fills := l.fills.filter fun x => !gone x.1 } })
      ∧ (sc = .device ∨ sc = .system →
        ((s.acquire sc).coreAt n).icache = ((s.coreAt n).icache.filter fun x => x.1 / 2 ^ 52 != ctx)
        ∧ ((s.acquire sc).coreAt n).ctl = ((s.coreAt n).ctl.filter fun x => x.1 / 2 ^ 51 != ctx)))
  ∧
  (∀ (s : State) (sc : Scope) (b : XReg) (imm : BitVec 23),
      let n := s.cur.core
      let k := s.cur.slot
      let arrive (u : State) : State :=
        let p := barPointOf sc u.cur.core
        (((u.modMe fun t => { t with barAt := some (p, imm.toNat / 16) }).push
          [.barrierArrival p u.me.cr.ctx.toNat (imm.toNat / 16) ⟨u.cur.core, u.cur.slot, (u.x b).setWidth 32,
            BitVec.ofNat 4 imm.toNat, (List.range 4).map fun j => contribOf (look u.myCore.mon j Monitor.reset)⟩]).block
          .barrier 7).waitCancel
      ∀ (i : Instr) (all : Bool) (done : State → State),
        (i = .fenceRel sc ∧ all = false ∧ ∀ u : State, done u = u.retireCommit)
        ∨ (i = .fenceSc sc ∧ all = decide (sc = .die ∨ sc = .device ∨ sc = .system) ∧ ∀ u : State, done u =
            ((u.modIo fun io => { io with serialFence := io.serialFence + 1 }).acquire sc).retireCommit)
        ∨ (i = .bar sc b imm ∧ all = false ∧ ∀ u : State, done u = arrive u) →
      let u := s.releaseMoves n k sc all
      let ask (x : State) : State :=
        ((x.modMe fun t => { t with applyOut := 4 }).push
          ([0, 1, 2, 3].map fun d => .releaseApply d x.me.cr.owner n k)).block .applied 5
      (s.phase = 1 → exec i s = .next ((s.modMe fun t => { t with commit := .idle }).block .flipped 2))
      ∧ (s.phase = 2 ∨ s.phase = 3 →
        (sc = .thread ∨ sc = .core → u = s ∧ exec i s = .next (done s))
        ∧ (sc = .cluster → exec i s = .next (if u.stallGone n k then done u else u.block .stallEmpty 3))
        ∧ (sc = .die → exec i s = .next (if u.unitInRuns n k all then u.block .shedClear 3 else done u))
        ∧ (sc = .device ∨ sc = .system →
          exec i s = .next (if u.unitInRuns n k all then u.block .shedClear 3 else ask u))))

/-- R51, R91, R129, R143, R182, R270: `bar` after its release: it arrives at the point of its scope, with its monitors, and waits; a
cancelled task is aborted there. Once its generation has opened it acquires and goes on; of the late causes that are due,
CONSERVATION, MERGE_OP and GUARD in this order, the first is delivered and the others are held, or all are in a handler or where
the instruction ends its group. R269, R270: an arrival joins its generation or opens one, and waits for a place at a full point;
the generation opens with its N-th arrival, where N = 0 acts as 1, and its first N threads leave it with the monitors that fail; the
arrivals behind them are the next generation. R271: when a monitor fails. -/
def Obligations.Barriers : Prop :=
  (∀ (s : State) (sc : Scope) (b : XReg) (imm : BitVec 23),
      let n := s.cur.core
      let k := s.cur.slot
      let point : BarPoint := match sc with
        | .thread | .core => .core n
        | .cluster => .cluster (clusterOf n)
        | .die => .die (dieOf n)
        | .device | .system => .device
      let g := imm.toNat / 16
      let u := s.acquire sc
      let due : List TrapReq :=
        (s.me.consPend.map fun f => ⟨.conservation, true, f.setWidth 64, s.nextPc⟩).toList
        ++ (s.me.mergePend.map fun x => ⟨.mergeOp, true, BitVec.ofNat 64 x, s.nextPc⟩).toList
        ++ (if s.me.guard.pending then
            [⟨.guard, true, BitVec.ofNat 64 (s.me.guard.bank.toNat * 2 ^ 32 + s.me.guard.off.toNat), s.nextPc⟩] else [])
      let held (l : List TrapReq) : List Cause :=
        l.foldl (fun h r => if r.cause ∈ h then h else h ++ [r.cause]) s.me.heldLate
      (s.phase = 6 → ∃ v a, exec (.bar sc b imm) s = .next v ∧ OnlyMe s v s.myCore
        ∧ v.me = { s.me with barAt := some (point, g), wait := .barrier, blocked := some { s.cur.iss with phase := 7 } }
        ∧ a.core = n ∧ a.slot = k ∧ a.n = (s.x b).setWidth 32 ∧ a.mask = BitVec.ofNat 4 (imm.toNat % 16)
        ∧ a.mons = ([0, 1, 2, 3].map fun j => contribOf (look s.myCore.mon j Monitor.reset))
        ∧ v.agenda = s.agenda ++ [.barrierArrival point s.me.cr.ctx.toNat g a]
          ++ if s.me.cancelled then [.taskAbort n k .cancel] else [])
      ∧ (s.phase = 7 → due = [] → DoesOver (.bar sc b imm) s u (Effect.none u))
      ∧ (s.phase = 7 → ∀ r rest, due = r :: rest →
        ∃ v, OnlyMe u.retire v u.retire.myCore ∧ v.agenda = u.retire.agenda
          ∧ if s.me.intrap = true ∨ s.cur.iss.hdr.sw = true ∨ s.repeats = true then
              v.me = { u.retire.me with heldLate := held due } ∧ exec (.bar sc b imm) s = .next v
            else v.me = { u.retire.me with heldLate := held rest } ∧ exec (.bar sc b imm) s = .next (v.deliverLate n k r)))
  ∧
  (∀ (s : State) (p : BarPoint) (ctx g : Nat) (a : Arrival),
      let e := { s with ev := .barrierArrival p ctx g a }
      let l := s.barsAt p
      let mine (x : Gen) : Bool := x.ctx == ctx && x.g == g
      let room : Nat := match p with
        | .core _ => 16
        | .cluster _ => 64
        | .die _ => 256
        | .device => 1024
      let need (n : Nat) : Nat := if n = 0 then 1 else n
      let opens (b : Prop) [Decidable b] (l : List Ev) : List Ev := if b then .barrierGenerationOpen p ctx g :: l else l
      ((s.thr a.core a.slot).barAt ≠ some (p, g) → exec .barrierArrival e = .next e)
      ∧ ((s.thr a.core a.slot).barAt = some (p, g) →
        ∃ u, exec .barrierArrival e = .next u ∧ u.mem = s.mem ∧
          match l.find? mine with
          | some x => u.barsAt p = (l.map fun y => if mine y then { y with arrivals := y.arrivals ++ [a] } else y)
            ∧ u.agenda = opens (need x.n ≤ x.arrivals.length + 1) s.agenda
          | none =>
            if l.length < room then
              u.barsAt p = l ++ [⟨ctx, g, a.n.toNat, [a]⟩] ∧ u.agenda = opens (a.n.toNat ≤ 1) s.agenda
            else OnlyAt e u a.core a.slot (s.coreAt a.core) ∧ u.agenda = s.agenda
              ∧ u.thr a.core a.slot = { s.thr a.core a.slot with
                  wait := .barrierRoom, barAt := none
                  blocked := (s.thr a.core a.slot).blocked.map fun i => { i with phase := 6 } })
      ∧ ∀ x, l.find? mine = some x →
        let o := { s with ev := .barrierGenerationOpen p ctx g }
        let go := x.arrivals.take (need x.n)
        (x.arrivals.length < need x.n → exec .barrierGenerationOpen o = .next o)
        ∧ (need x.n ≤ x.arrivals.length → ∃ u, exec .barrierGenerationOpen o = .next u ∧ u.mem = s.mem
          ∧ (match x.arrivals.drop (need x.n) with
            | [] => u.barsAt p = l.filter (fun y => !mine y) ∧ u.agenda = s.agenda
            | c :: rest => u.barsAt p = (l.map fun y => if mine y then { y with n := c.n.toNat, arrivals := c :: rest } else y)
              ∧ u.agenda = opens (need c.n.toNat ≤ rest.length + 1) s.agenda)
          ∧ (∀ b ∈ go, u.thr b.core b.slot = { s.thr b.core b.slot with
              barAt := none
              consPend := if judge go = 0 then (s.thr b.core b.slot).consPend
                else some ((s.thr b.core b.slot).consPend.getD 0 ||| judge go) })
          ∧ ∀ m j, (∀ b ∈ go, (b.core, b.slot) ≠ (m, j)) → u.thr m j = s.thr m j))
  ∧
  (∀ (l : List Arrival) (i : Nat), i < 4 → (∀ a ∈ l, a.core < 2304) →
      -- the contributions to monitor `i`: of each core that of its last arrival, lowest core first, in units of 2 ^ -128
      let cs := (List.range 2304).filterMap fun c =>
        (l.reverse.find? fun a => a.core == c).bind fun a => if a.mask.getLsbD i then a.mons[i]? else none
      let weigh (v : Int) (mexp : BitVec 8) : Int := v * 2 ^ (mexp.toInt + 128).toNat
      let total := ((cs.filter (·.en)).map fun c => weigh c.sum.toInt c.mexp).sum
      ((judge l).getLsbD i = true ↔ ∃ m, cs.find? (·.en) = some m
        ∧ (weigh m.bound.toNat m.mexp < (total - weigh m.ref.toInt m.mexp).natAbs ∨ ∃ c ∈ cs, c.ovf = true)))

/-- R265: a drain of nothing, of thread or core scope, or one that has been answered, goes on. Otherwise the core's stall run
first moves the named chains that hold a committed entry; when none is left and the windows of a pair have been forwarded, a
drain of cluster scope is done, and a wider one asks the shed and waits. The shed moves its named chains; it answers a drain of die
scope, and asks the four yards for a wider one. A yard applies what stands ahead of the first tentative entry of the named keys and
answers; a chain that cannot move, or be applied, keeps the request waiting, and no tentative entry is touched. R90, R273,
R275: `hgive` makes another thread of the cluster the holder of a handle that its thread holds, once the thread's own writes are
performed. R51, R274: `htake` waits until an entry is valid and names its thread, and gives its size in bytes. R148, R268:
`fence.x` waits until its first class is complete and does nothing else; for the flue it waits for the pass that runs when it
issues. -/
def Obligations.DrainsHandlesEngineFences : Prop :=
  (∀ (s : State) (sc : Scope) (b c : XReg) (i : Instr) (apply : Bool),
      (i, apply) = (.drain sc b c, false) ∨ (i, apply) = (.drainApply sc b c, true) →
      let n := s.cur.core
      let k := s.cur.slot
      let cl := clusterOf n
      let ctx := s.me.cr.ctx
      let base := ((s.x b).setWidth 57).toNat
      let len := ((s.x c).setWidth 32).toNat
      let due (u : State) : List Word := (namedKeys ctx.toNat base len (u.coreAt n).stall).filter fun key =>
        (u.coreAt n).stall.any fun x => x.key == key && !x.tent
      if s.phase ≠ 0 ∨ len = 0 ∨ sc = .thread ∨ sc = .core then Does i s (Effect.none s)
      else if due s = [] ∧ s.me.window = [] then
        if s.me.closed ≠ [] then exec i s = .next (s.block .fenceTurn 0)
        else
          let full : List Ev := if 6144 ≤ (s.clusterAt cl).shed.length then [.shedFillMoveout cl] else []
          if sc = .cluster then Does i s { Effect.none s with events := full }
          else ∃ u, exec i s = .next u ∧ OnlyMe s u s.myCore ∧ u.ids = s.ids
            ∧ u.me = { s.me with drainOut := 1, wait := .drain, blocked := some { s.cur.iss with phase := 1 } }
            ∧ u.agenda = s.agenda ++ full ++ [.drainRequestArrival ⟨.shed cl, ctx, base, len, sc, apply, n, k⟩]
      else
        let u := ((if (s.clusterAt cl).shed.length + 128 ≤ 8192 then
          (due s).foldl (fun u key => (u.moveStallKey n key).1) s else s)).closeWindow n k
        if due u ≠ [] ∨ u.me.closed ≠ [] then exec i s = .next (u.block .fenceTurn 0) else exec i s = exec i u)
  ∧
  (∀ (s : State) (d : DrainReq),
      let e := { s with ev := .drainRequestArrival d }
      let answered (u : State) : State := u.modThr d.core d.slot fun t => { t with drainOut := t.drainOut - 1 }
      let names (x : Entry) : Bool := x.ctx == d.ctx.toNat && decide (d.base < x.va + 4 ∧ x.va < d.base + d.len)
      match d.at' with
      | .shed cl =>
        let due (u : State) : List Word := (namedKeys d.ctx.toNat d.base d.len (u.clusterAt cl).shed).filter fun key =>
          (u.clusterAt cl).shed.any fun x => x.key == key && !x.tent
        let u := (due e).foldl (fun u key => (u.moveShedKey cl key).1) e
        exec .drainRequestArrival e = .next
          (if due u ≠ [] then u.defer (.drainRequestArrival d)
          else if d.scope = .die then answered u
          else (u.modThr d.core d.slot fun t => { t with drainOut := t.drainOut + 3 }).push
            ([0, 1, 2, 3].map fun die => .drainRequestArrival { d with at' := .yard die }))
      | .yard die =>
        let held := s.dieAt die
        let all := held.blocks.flatten ++ held.yard
        (∃ u, exec .drainRequestArrival e = .next u
          ∧ (∀ x ∈ held.yard, x.tent = true → x ∈ (u.dieAt die).yard)
          ∧ (∀ x ∈ held.dset, x.tent = true ∨ names x = false ∨ x.op = .rowx ∨ d.apply = false → x ∈ (u.dieAt die).dset)
          ∧ ((u.later = s.later ∧ (∀ x ∈ (u.dieAt die).yard, names x = true → (u.dieAt die).applicable x.key = [])
                ∧ (u.thr d.core d.slot).drainOut = (s.thr d.core d.slot).drainOut - 1)
            ∨ (u.later = s.later ++ [.drainRequestArrival d] ∧ (u.thr d.core d.slot).drainOut = (s.thr d.core d.slot).drainOut)))
        ∧ ((∀ x ∈ all ++ held.dset, names x = false) →
          ∃ u l, exec .drainRequestArrival e = .next u ∧ OnlyAt e u d.core d.slot (s.coreAt d.core)
            ∧ u.thr d.core d.slot = { s.thr d.core d.slot with drainOut := (s.thr d.core d.slot).drainOut - 1 }
            ∧ u.agenda = s.agenda ++ l ∧ ∀ x ∈ l, ∃ cl key, x = .shedMoveRetry cl key)
        ∧ (∀ x v pa leaf at' lvl, held.yard = [x] → held.blocks = [] → held.dset = [] → held.waits = [] → names x = true →
          x.tent = false → x.op = .rep → x.w = false → x.psn = false → x.trp = false → s.loadsOut = [] → s.hbmErr = [] →
          let w := e.modDie die fun y => { y with yard := [] }
          w.xlate die x.ctx x.va .wr = (v, .ok pa leaf at' lvl) →
          ∃ u, exec .drainRequestArrival e = .next u ∧ (u.dieAt die).yard = []
            ∧ u.readLeaf leaf pa 4 = leBytes 4 (x.val.toNat % 2 ^ 32)
            ∧ (u.thr d.core d.slot).drainOut = (s.thr d.core d.slot).drainOut - 1))
  ∧
  (∀ (s : State) (a b c : XReg),
      let n := s.cur.core
      let k := s.cur.slot
      let h : Word := ((s.x b).setWidth 16).setWidth 64
      let i := h.toNat % 512
      let cl := clusterOf n
      let now := look (s.clusterAt cl).htab i 0
      let before := match find? (s.clusterAt cl).gave i with
        | some (cycle, old) => if cycle = s.now then old else now
        | none => now
      let mine (v : BitVec 64) : Bool := v.toNat / 2 ^ 21 % 2 ^ 9 == s.me.cr.ctx.toNat && v.toNat / 2 ^ 30 % 2 ^ 3 == posOf n
        && v.toNat / 2 ^ 33 % 2 ^ 4 == k
      let dest := (s.x c).toNat
      let waits (p : Nat) : State :=
        let u := s.block (.handle i) p
        if s.me.cancelled then u.push [.taskAbort n k .cancel] else u
      (if h.toNat < 512 ∧ s.handleOk cl before = true ∧ mine before = true ∧ dest < 128 then
        (s.me.lsDone = false → exec (.hgive b c) s = .next ((s.closeWindow n k).block .fenceTurn 0))
        ∧ (s.me.lsDone = true → ∃ v' : BitVec 64, v'.toNat / 2 ^ 30 % 2 ^ 3 = dest / 16 ∧ v'.toNat / 2 ^ 33 % 2 ^ 4 = dest % 16
          ∧ v'.toNat % 2 ^ 30 = now.toNat % 2 ^ 30 ∧ v'.toNat / 2 ^ 37 = now.toNat / 2 ^ 37
          ∧ (let u := s.modCluster cl fun x => { x with htab := put x.htab i v', gave := put x.gave i (s.now, now) }
            DoesOver (.hgive b c) s u (Effect.none u)))
        else Raises (.hgive b c) s .handle h)
      ∧ (if 512 ≤ h.toNat then Raises (.htake a b) s .handle h
        else if s.handleOk cl now = true then
          if mine now then Gives (.htake a b) s a (BitVec.ofNat 64 (64 * (now.toNat / 2 ^ 37 % 2 ^ 12)))
          else exec (.htake a b) s = .next (waits 1)
        else if s.phase = 1 then Raises (.htake a b) s .handle h
        else exec (.htake a b) s = .next (waits 0)))
  ∧
  (∀ (s : State) (ea eb : Engine),
      let n := s.cur.core
      let k := s.cur.slot
      let t := s.me
      let complete : Prop := match ea with
        | .co => t.loads = [] ∧ t.sosOut = 0 ∧ t.streamsDone = true ∧ t.lsDone = true
        | .cp => ∀ x ∈ s.myCore.chan, x.2.busy = true → x.2.st.toNat / 2 ^ 242 % 2 ^ 4 = k → x.2.unit ≠ t.unit
        | .mx => ∀ x ∈ t.copq ++ t.inflight, isMatrix x.instr = false
        | .gp => s.putsLeft n k = false ∧ (∀ m ∈ t.window ++ t.closed.flatten, m.out = none)
          ∧ ∀ g ∈ s.io.gets, (g.core, g.slot) ≠ (n, k) ∧ some (g.core, g.slot) ≠ t.mate
        | .cl => ∀ x, x = (n, k) ∨ s.mateAt n k = some x →
          ∀ y ∈ (s.coreAt x.1).colls, ¬ (y.slot = x.2 ∧ y.unit = (s.thr x.1 x.2).unit)
        | .fl => s.io.flue = none
      (s.phase ≠ 0 ∨ complete → Does (.fenceX ea eb) s (Effect.none s))
      ∧ (s.phase = 0 → ¬ complete → exec (.fenceX ea eb) s = .next (match ea with
        | .fl => s.block (.flue (s.io.flueDone + 1)) 1
        | e => s.block (.engine e) 0)))

/-- R109, R117, R124, R131, R139, R167: a yard that a release asks applies the unit's committed entries and answers; it
keeps the request while one of them could be applied, or is parked for its page. A strongly ordered update is acknowledged to the
unit that made it, and to its pair's other copy, and a refusal of it ends the unit. R44, R46, R51, R97, R123, R177, R272: an
abort discards the task's tentative entries in every run, overflow block and deferred set, at a yard's input and where they are
parked, zeroes its sums, withdraws its arrival at a barrier and frees the slot, a pair's other copy with it; the resume record of the
task's start waits for the page, is inserted again, ends its unit, or goes, as the reason says. An abort of a free slot, or the
notice of a task that runs no more, is nothing. In the cores' turns of a cycle the abort of a thread whose arrival or contribution
stands waits for their end (log 43). -/
def Obligations.AcknowledgementsAndAborts : Prop :=
  ((∀ (s : State) (die unit n k : Nat),
      let e := { s with ev := .releaseApply die unit n k }
      let d := s.dieAt die
      let mine (x : Entry) : Prop := x.tent = false ∧ x.op.isFx = false ∧ unit ∈ x.units
      (∃ u, exec .releaseApply e = .next u
        ∧ (∀ x ∈ d.yard, x.tent = true → ∃ y ∈ (u.dieAt die).yard, y = { x with mark := y.mark })
        ∧ ((u.later = s.later ∧ (u.thr n k).applyOut = (s.thr n k).applyOut - 1
            ∧ ∀ x ∈ (u.dieAt die).yard, mine x → x.mark = true ∧ ¬ ∃ y ∈ (u.dieAt die).applicable x.key, mine y)
          ∨ (u.later = s.later ++ [.releaseApply die unit n k] ∧ (u.thr n k).applyOut = (s.thr n k).applyOut)))
      ∧ ((∀ x ∈ d.yard ++ d.blocks.flatten, ¬ mine x) → (∀ w ∈ d.waits, ∀ x a b, .entry x a b ∈ w.items → ¬ mine x) →
        ∃ u l, exec .releaseApply e = .next u ∧ u.thr n k = { s.thr n k with applyOut := (s.thr n k).applyOut - 1 }
          ∧ (∀ m, m ≠ n → u.coreAt m = s.coreAt m) ∧ u.mem = s.mem ∧ u.later = s.later ∧ u.agenda = s.agenda ++ l
          ∧ ∀ x ∈ l, ∃ cl key, x = .shedMoveRetry cl key)
      ∧ ∀ x v pa leaf at' lvl, d.yard = [x] → d.blocks = [] → d.waits = [] → mine x → x.op = .rep → x.w = false → x.psn = false →
        x.trp = false → s.loadsOut = [] → s.hbmErr = [] →
        (e.modDie die fun y => { y with yard := [] }).xlate die x.ctx x.va .wr = (v, .ok pa leaf at' lvl) →
        ∃ u, exec .releaseApply e = .next u ∧ (u.dieAt die).yard = [] ∧ u.readLeaf leaf pa 4 = leBytes 4 (x.val.toNat % 2 ^ 32)
          ∧ (u.thr n k).applyOut = (s.thr n k).applyOut - 1)
    ∧ ∀ (s : State) (n k unit : Nat) (good : Bool),
      let e := { s with ev := .sosAcknowledge n k unit good }
      let t := s.thr n k
      if t.status = .free ∨ t.cr.owner ≠ unit then exec .sosAcknowledge e = .next e
      else ∃ u, exec .sosAcknowledge e = .next u ∧ u.ids = s.ids ∧ u.mem = s.mem
        ∧ u.agenda = s.agenda ++ (if good then [] else [.taskAbort n k .refused])
        ∧ match s.mateAt n k with
          | none => OnlyAt e u n k (s.coreAt n) ∧ u.thr n k = { t with sosOut := t.sosOut - 1 }
          | some (m, j) => (m, j) ≠ (n, k) → u.thr n k = { t with sosOut := t.sosOut - 1 }
            ∧ u.thr m j = { s.thr m j with sosOut := (s.thr m j).sosOut - 1 })
  ∧
  ((∀ (s : State) (n k : Nat) (why : AbortWhy),
      let e := { s with ev := .taskAbort n k why }
      let t := s.thr n k
      let its (x : Entry) : Prop := x.tent = true ∧ x.task = s.token n k
      let kept (l : List Entry) : List Entry := l.filter fun x => !(x.tent && x.task == s.token n k)
      let u := (e.abortTask n k).1
      let r := (e.abortTask n k).2
      -- in the cores' turns of a cycle an arrival or contribution still stands for the last one of that cycle
      let later : Prop := s.turn ≠ 0 ∧ (t.barAt ≠ none ∨ (s.coreAt n).xpend = some k)
      (t.status = .free → exec .taskAbort e = .next e)
      ∧ (t.status ≠ .free → later → exec .taskAbort e = .next { e with later := e.later ++ [.taskAbort n k why] })
      ∧ (t.status ≠ .free → ¬ later → t.mate = none → exec .taskAbort e = .next (match why with
        | .teardown | .pairing => u
        | .page die ctx va => u.recordWait die ctx va r
        | .migration die ctx va => u.moveWait die ctx va [.record r]
        | .keyErase | .vacate => u.insertHeld r
        | .refused => u.unitEnd r (.ended false)
        | .cancel => u.unitEnd r (.ended true)
        | .kill => u.launchFaults r.ctx r.launch 1
        | .double => e.abortEnd n k .double))
      ∧ (∀ m j, t.status ≠ .free → ¬ later → t.mate = some (m, j) → ((e.abortEnd n k why).thr m j).mate = some (n, k) →
        exec .taskAbort e = .next ((e.abortEnd n k why).abortTask m j).1)
      ∧ u.thr n k = Thread.reset ∧ r = (if t.sosOut = 0 then t.resume else { t.resume with owner := 0 })
      ∧ (∀ m, (u.coreAt m).stall = kept (s.coreAt m).stall) ∧ (∀ i x, find? (u.coreAt n).mon i = some x → find? x.tsum k = none)
      ∧ (∀ p g, t.barAt = some (p, g) → ∀ x ∈ u.barsAt p, ∀ a ∈ x.arrivals, ¬ (a.core = n ∧ a.slot = k))
      ∧ (∀ d, ∀ x ∈ (u.dieAt d).all ++ (u.dieAt d).outside, ¬ its x)
      ∧ ((∀ x ∈ s.dies, ∀ y ∈ x.2.blocks.flatten ++ x.2.yard, y.mark = false ∨ y.op.isFx = true) →
        (∀ m, (u.clusterAt m).shed = kept (s.clusterAt m).shed) ∧ u.mem = s.mem
        ∧ ∀ d, (u.dieAt d).yard = kept (s.dieAt d).yard ∧ (u.dieAt d).dset = kept (s.dieAt d).dset))
    ∧ ∀ (s : State) (task : BitVec 40) (why : AbortWhy),
      let e := { s with ev := .abortNoticeArrival task why }
      let n := task.toNat / 2 ^ 28
      let k := task.toNat / 2 ^ 24 % 16
      exec .abortNoticeArrival e = .next (if (s.thr n k).status ≠ .free ∧ s.token n k = task then e.abort n k why else e))

/-- R73, R76, R82, R319: a coprocessor instruction enters its thread's queue of eight with its operands as they stand at
the group's start and its snapshot destinations reserved, and the thread goes on; behind a full queue it waits. -/
def Obligations.CoprocessorInstructionsEnter : Prop :=
  ∀ (i : Instr) (s : State), (isMatrix i = true ∨ isVector i = true) → s.cur.iss.instr = i → s.cur.iss.pipe = false →
    if 8 ≤ s.me.copq.length then exec i s = .next (s.block .copqRoom 0)
    else ∃ (dests : List Dest) (q : Issue),
      Does i s { Effect.none s with
        thread := { s.me with copq := s.me.copq ++ [q] }, writes := dests.map fun d => (d, none) }
      ∧ q = { s.cur.iss with
          pipe := true, pipeNo := if isMatrix i then 2 else if s.me.mode then 1 else 0, phase := 0, entered := s.now
          xs := i.xregs.map fun r => (r, s.x r), vs := q.vs, tags := (List.range dests.length).map (s.ids + ·) }
      ∧ ∀ n : BitVec 5, .v n ∈ i.vregs → (.v n, (s.me.readV n.toNat).setWidth 2048) ∈ q.vs

/-- R73, R82, R83: the dispatch takes, of the heads that may go, the one that entered first, gives it the next sequence number and
an entry of the coprocessor ring, and starts it in its pipe in the same step; an instruction that is held and can go on is taken
up again instead, and with nothing to take up, nothing happens. R76, R82, R83, R84, R205, R249: an instruction completes: its
results reach the writes reserved for them, its flags are ORed in and count for the cycle, and its entry has ST 1; a fault sets
ST 2, cancels the later instructions of the thread in the same pipe, and pends with the lowest sequence number. -/
def Obligations.CoprocessorRuns : Prop :=
  (∀ (s : State) (n k : Nat) (i : Issue),
      let e := { s with ev := .coprocessorDispatch n }
      let t := s.thr n k
      (s.copGo n = none → exec .coprocessorDispatch e = .next e)
      ∧ (s.copGo n = some (k, i, true) → (k, i) ∈ s.heads n ∧ ∀ j q, (j, q) ∈ s.heads n → i.entered ≤ q.entered)
      ∧ (∀ j q, (j, q) ∈ s.heads n → ∃ x, (j, x) ∈ (s.coreAt n).threads ∧ x.copq.head? = some q ∧ x.inflight.length < 64
        ∧ (∀ y ∈ x.inflight, y.phase = 0) ∧ (q.pipeNo ∉ x.faultPipes ∨ x.queueStops = true))
      ∧ (s.copGo n = some (k, i, false) → t.inflight.any (·.seq == i.seq) = true →
        ∃ u, exec .coprocessorDispatch e = .next u ∧ u.issue = some i ∧ u.cur = ⟨n, k, i⟩ ∧ u.mem = s.mem ∧ u.agenda = s.agenda
          ∧ u.thr n k = { t with
            mmtStop := none, inflight := t.inflight.map fun x => if x.seq == i.seq then { x with phase := 0 } else x })
      ∧ (s.copGo n = some (k, i, true) → t.faultPipes = [] →
        ∃ u q, exec .coprocessorDispatch e = .next u ∧ u.issue = some q ∧ u.cur = ⟨n, k, q⟩
          ∧ q = { i with seq := t.seq.toNat } ∧ u.mem = s.mem ∧ u.agenda = s.agenda
          ∧ (∀ m, m ≠ n → u.coreAt m = s.coreAt m)
          ∧ u.thr n k = { t with
            copq := t.copq.drop 1, seq := t.seq + 1, cringh := BitVec.ofNat 6 t.seq.toNat, inflight := t.inflight ++ [q]
            cring := put t.cring (t.seq.toNat % 64) (cringEntry q t.ix 0) })
      ∧ ∀ (ix : BitVec 16) (st : Nat), st < 4 → i.pipeNo < 4 →
        let r := cringEntry i ix st
        r.toNat / 2 ^ 92 % 4 = st ∧ r.toNat / 2 ^ 94 % 4 = i.pipeNo ∧ r.toNat / 2 ^ 96 % 2 ^ 32 = i.seq % 2 ^ 32
        ∧ r.toNat % 2 ^ 57 = i.pc.toNat / 4 * 4)
  ∧
  (∀ (s : State) (n k : Nat) (q : BitVec 32) (sw : Bool),
      let t := s.thr n k
      let c := { s with ev := .coprocessorComplete n k q }
      let d := { s with ev := .copFaultDetect n k q sw }
      (∀ seq f, (t.results.find? fun r => r.1 == q.toNat) = some (seq, [], f) → t.shortDue = false →
        ∃ u, exec .coprocessorComplete c = .next u ∧ OnlyAt c u n k (s.coreAt n) ∧ u.agenda = s.agenda
          ∧ u.thr n k = { t.cringSt seq 1 with
            inflight := t.inflight.filter fun i => i.seq != seq, results := t.results.filter fun r => r.1 != seq
            flags := t.flags ||| f, cycFlags := if t.cycAt = s.now then t.cycFlags ||| f else f, cycAt := s.now })
      ∧ (∀ seq f tag v, (t.results.find? fun r => r.1 == q.toNat) = some (seq, [(tag, v)], f) → t.shortDue = false →
        (∀ w ∈ t.pend ++ t.gwb, ∀ r, w.dest ≠ .w r) →
        ∃ u, exec .coprocessorComplete c = .next u ∧ OnlyAt c u n k (s.coreAt n) ∧ u.thr n k = { t.cringSt seq 1 with
            inflight := t.inflight.filter fun i => i.seq != seq, results := t.results.filter fun r => r.1 != seq
            flags := t.flags ||| f, cycFlags := if t.cycAt = s.now then t.cycFlags ||| f else f, cycAt := s.now
            pend := t.pend.map fun w => if w.tag == tag then { w with val := some v } else w
            gwb := t.gwb.map fun w => if w.tag == tag then { w with val := some v } else w })
      ∧ (t.results.find? (fun r => r.1 == q.toNat) = none → exec .coprocessorComplete c = .next c)
      ∧ (∀ i, (t.inflight.find? fun x => x.seq == q.toNat) = some i → t.shortDue = false →
        ∃ u, exec .copFaultDetect d = .next u
          ∧ (u.thr n k).inflight = (t.inflight.filter fun x => !(x.pipeNo == i.pipeNo && i.seq ≤ x.seq))
          ∧ (u.thr n k).copFault = some (match t.copFault with
            | some (m, b) => if i.seq < m then (i.seq, sw) else (m, b)
            | none => (i.seq, sw))
          ∧ i.pipeNo ∈ (u.thr n k).faultPipes
          ∧ (u.thr n k).pend = t.pend.filter fun w =>
              !((t.inflight.filter fun x => x.pipeNo == i.pipeNo && i.seq ≤ x.seq).flatMap Issue.tags).contains w.tag)
      ∧ (t.inflight.find? (fun x => x.seq == q.toNat) = none → exec .copFaultDetect d = .next d))

/-- R206, R276, R277, R279, R280: floating lanes: exact results rounded once by the instruction's mode. R282 (the
functions' method is the model's, log 23): the special functions of the lanes, rounded by the mode. -/
def Obligations.VectorFloatingPoint : Prop :=
  (∀ (ty : Ty) (rm : Rm) (a b c d : VReg) (s : State),
      let k := ty.bytes
      let x (j : Nat) : Machine.Num := valOf ty (laneAt k (s.vec b) j)
      let y (j : Nat) : Machine.Num := valOf ty (laneAt k (s.vec c) j)
      let z (j : Nat) : Machine.Num := valOf ty (laneAt k (s.vec d) j)
      let sum (u v : Machine.Num) : Machine.Num × Flags := sumNum (rm == .rdn) [u, v]
      let fma (p : Machine.Num × Flags) (neg : Bool) (w : Machine.Num) : Nat × Flags :=
        let r := sum (if neg then p.1.negate else p.1) w
        rounded ty rm (r.1, p.2 ||| r.2)
      LaneWise (.vaddF ty rm a b c) s a k (fun j => rounded ty rm (sum (x j) (y j)))
      ∧ LaneWise (.vsubF ty rm a b c) s a k (fun j => rounded ty rm (sum (x j) (y j).negate))
      ∧ LaneWise (.vmulF ty rm a b c) s a k (fun j => rounded ty rm (mulNum (x j) (y j)))
      ∧ LaneWise (.vdiv ty rm a b c) s a k (fun j => rounded ty rm (divNum (x j) (y j)))
      ∧ LaneWise (.vsqrt ty rm a b) s a k (fun j => rounded ty rm (sqrtNum (x j)))
      ∧ LaneWise (.vfma ty rm a b c d) s a k (fun j => fma (mulNum (x j) (y j)) false (z j))
      ∧ LaneWise (.vfms ty rm a b c d) s a k (fun j => fma (mulNum (x j) (y j)) false (z j).negate)
      ∧ LaneWise (.vfnma ty rm a b c d) s a k (fun j => fma (mulNum (x j) (y j)) true (z j)))
  ∧
  (∀ (ty : Ty) (rm : Rm) (a b : VReg) (s : State),
      let k := ty.bytes
      let x (j : Nat) : Machine.Num := valOf ty (laneAt k (s.vec b) j)
      LaneWise (.vexp ty rm a b) s a k (fun j => rounded ty rm (expNum (x j)))
      ∧ LaneWise (.vlog ty rm a b) s a k (fun j => rounded ty rm (logNum (x j)))
      ∧ LaneWise (.vrcp ty rm a b) s a k (fun j => rounded ty rm (divNum (.fin 1 0) (x j)))
      ∧ LaneWise (.vrsqrt ty rm a b) s a k (fun j => rounded ty rm (rsqrtNum (x j)))
      ∧ LaneWise (.vtanh ty rm a b) s a k (fun j => rounded ty rm (tanhNum (x j)))
      ∧ LaneWise (.vsig ty rm a b) s a k (fun j => rounded ty rm (sigNum (x j))))

/-- R114, R279, R283: minima, maxima, signs and compares of lanes. A compare gives all ones or zero; a NaN makes only
`.ne` true; a signalling NaN sets NV. R281: integer lanes, wrapped or saturated, bitwise and shifted by the amount
modulo the width. -/
def Obligations.VectorMinimaComparesIntegers : Prop :=
  (∀ (ty : Ty) (a b c : VReg) (s : State),
      let k := ty.bytes
      let bx (j : Nat) : Nat := laneAt k (s.vec b) j
      let by' (j : Nat) : Nat := laneAt k (s.vec c) j
      let x (j : Nat) : Machine.Num := valOf ty (bx j)
      let y (j : Nat) : Machine.Num := valOf ty (by' j)
      let nan (j : Nat) : Bool := (x j).isNan || (y j).isNan
      let cmp (other : Bool) (p : Ordering → Bool) (j : Nat) : Nat × Flags :=
        (if (if nan j then other else p (cmpNum (x j) (y j))) then 2 ^ ty.width - 1 else 0, snan [x j, y j])
      let canonical : Nat := (roundTy ty .rne (.nan false)).1
      LaneWise (.vminF ty a b c) s a k (fun j => minmaxTy ty false (bx j) (by' j))
      ∧ LaneWise (.vmaxF ty a b c) s a k (fun j => minmaxTy ty true (bx j) (by' j))
      ∧ LaneWise (.vabsF ty a b) s a k (fun j =>
          if (x j).isNan then (canonical, snan [x j]) else (bx j % 2 ^ (ty.width - 1), 0))
      ∧ LaneWise (.vneg ty a b) s a k (fun j =>
          if (x j).isNan then (canonical, snan [x j]) else (bx j ^^^ 2 ^ (ty.width - 1), 0))
      ∧ LaneWise (.vcmpEq ty a b c) s a k (cmp false (· == .eq)) ∧ LaneWise (.vcmpNe ty a b c) s a k (cmp true (· != .eq))
      ∧ LaneWise (.vcmpLt ty a b c) s a k (cmp false (· == .lt)) ∧ LaneWise (.vcmpLe ty a b c) s a k (cmp false (· != .gt))
      ∧ LaneWise (.vcmpGt ty a b c) s a k (cmp false (· == .gt)) ∧ LaneWise (.vcmpGe ty a b c) s a k (cmp false (· != .lt)))
  ∧
  (∀ (ty : Ty) (a b c : VReg) (s : State),
      let k := ty.bytes
      let w := ty.width
      let bx (j : Nat) : Nat := laneAt k (s.vec b) j
      let by' (j : Nat) : Nat := laneAt k (s.vec c) j
      let int (v : Nat) : Int := if ty.isSigned && 2 ^ (w - 1) ≤ v then (v : Int) - 2 ^ w else v
      let x (j : Nat) : Int := int (bx j)
      let y (j : Nat) : Int := int (by' j)
      let low : Int := if ty.isSigned then -(2 ^ (w - 1)) else 0
      let high : Int := if ty.isSigned then 2 ^ (w - 1) - 1 else 2 ^ w - 1
      let wrap (v : Int) : Nat × Flags := ((v % 2 ^ w).toNat, 0)
      let sat (v : Int) : Nat × Flags := wrap (if v < low then low else if high < v then high else v)
      LaneWise (.vaddI ty a b c) s a k (fun j => wrap (x j + y j)) ∧ LaneWise (.vsubI ty a b c) s a k (fun j => wrap (x j - y j))
      ∧ LaneWise (.vmulI ty a b c) s a k (fun j => wrap (x j * y j))
      ∧ LaneWise (.vminI ty a b c) s a k (fun j => wrap (if x j ≤ y j then x j else y j))
      ∧ LaneWise (.vmaxI ty a b c) s a k (fun j => wrap (if x j ≤ y j then y j else x j))
      ∧ LaneWise (.vabsI ty a b) s a k (fun j => wrap (if x j < 0 then -x j else x j))
      ∧ LaneWise (.vadds ty a b c) s a k (fun j => sat (x j + y j)) ∧ LaneWise (.vsubs ty a b c) s a k (fun j => sat (x j - y j))
      ∧ LaneWise (.vand ty a b c) s a k (fun j => (bx j &&& by' j, 0)) ∧ LaneWise (.vor ty a b c) s a k (fun j => (bx j ||| by' j, 0))
      ∧ LaneWise (.vxor ty a b c) s a k (fun j => (bx j ^^^ by' j, 0))
      ∧ LaneWise (.vsll ty a b c) s a k (fun j => (bx j * 2 ^ (by' j % w), 0))
      ∧ LaneWise (.vsrl ty a b c) s a k (fun j => (bx j / 2 ^ (by' j % w), 0))
      ∧ LaneWise (.vsra ty a b c) s a k (fun j =>
          wrap ((if 2 ^ (w - 1) ≤ bx j then (bx j : Int) - 2 ^ w else bx j) / 2 ^ (by' j % w))))

/-- R51, R80, R278: the vector mode changes at the group's end: `vmode.short` frees the context then, `vmode.long` takes a
context that is granted to it, the lowest that is free, and waits in order where none is, where a cancelled task is aborted; the grant of a freed context
goes to the oldest request. R284, R285, R294, R296: selects by the top bit of each lane's mask, permutations (an index
beyond the lanes gives zero), broadcasts, rotations, hashes, moves and inserts. -/
def Obligations.VectorModesMovesAndHashes : Prop :=
  (∀ (s : State),
      let n := s.cur.core
      let k := s.cur.slot
      let cl := clusterOf n
      let t := s.me
      let c := s.clusterAt cl
      let put' (d : Dest) : Effect := { Effect.none s with writes := [(d, some 0)] }
      (t.mode = true → Does .vmodeShort s (put' .vshort) ∧ Does .vmodeLong s (put' .vlong))
      ∧ (t.mode = false → Does .vmodeShort s (Effect.none s))
      ∧ (t.mode = false → t.lgrant.isSome = true → Does .vmodeLong s (put' .vlong))
      ∧ (t.mode = false → t.lgrant = none → t.shortDue = true → exec .vmodeLong s = .next (s.block .shortDone 0))
      ∧ (t.mode = false → t.lgrant = none → t.shortDue = false → c.longQ = [] →
        ∀ i < 8, find? c.longOwner i = none → (∀ j < i, find? c.longOwner j ≠ none) →
          let u := s.modCluster cl fun c =>
            { c with longOwner := put c.longOwner i (n, k), w := c.w.filter fun x => x.1 / 16 != i }
          DoesOver .vmodeLong s u
            { Effect.none u with thread := { s.me with lgrant := some (BitVec.ofNat 3 i) }, writes := [(.vlong, some 0)] })
      ∧ (t.mode = false → t.lgrant = none → t.shortDue = false →
        (c.longQ ≠ [] ∨ ∀ i < 8, find? c.longOwner i ≠ none) →
          let u := (s.modCluster cl fun c =>
            { c with longQ := if (n, k) ∈ c.longQ then c.longQ else c.longQ ++ [(n, k)] }).block .longCtx 1
          exec .vmodeLong s = .next (if t.cancelled then u.push [.taskAbort n k .cancel] else u))
      ∧ ∀ m j rest i, i < 8 → c.longQ = (m, j) :: rest → find? c.longOwner i = none → (∀ h < i, find? c.longOwner h ≠ none) →
        let e := { s with ev := .longContextGrant cl }
        ∃ u, exec .longContextGrant e = .next u ∧ u.thr m j = { s.thr m j with lgrant := some (BitVec.ofNat 3 i) }
          ∧ (u.clusterAt cl).longQ = rest ∧ find? (u.clusterAt cl).longOwner i = some (m, j) ∧ u.agenda = s.agenda
          ∧ ∀ r, look (u.clusterAt cl).w (16 * i + r % 16) 0 = 0)
  ∧
  (∀ (ty : Ty) (a b c d : VReg) (p q : XReg) (s : State),
      let k := ty.bytes
      let n := s.laneCount k
      let l (r : VReg) (j : Nat) : Nat := if j < n then laneAt k (s.vec r) j else 0
      let hash (v : Nat) : Nat :=
        if k = 8 then
          let f (v m : BitVec 64) (r : Nat) : BitVec 64 := (v ^^^ (v >>> r)) * m
          let h := f (f (BitVec.ofNat 64 v) 0xBF58476D1CE4E5B9 30) 0x94D049BB133111EB 27
          (h ^^^ (h >>> 31)).toNat
        else
          let f (v m : BitVec 32) (r : Nat) : BitVec 32 := (v ^^^ (v >>> r)) * m
          let h := f (f (BitVec.ofNat 32 v) 0x7FEB352D 16) 0x846CA68B 15
          (h ^^^ (h >>> 16)).toNat
      LaneWise (.vsel ty a b c d) s a k (fun j => (if (l b j).testBit (ty.width - 1) then l c j else l d j, 0))
      ∧ LaneWise (.vperm ty a b c) s a k (fun j => (l b (l c j), 0))
      ∧ LaneWise (.vshuf ty a b c d) s a k (fun j => (if l d j < n then l b (l d j) else l c (l d j - n), 0))
      ∧ LaneWise (.vbcast ty a p) s a k (fun _ => ((s.x p).toNat, 0))
      ∧ LaneWise (.vrot ty a b p) s a k (fun j => (l b ((j + (n - (s.x p).toNat % n)) % n), 0))
      ∧ (k = 4 ∨ k = 8 → LaneWise (.vhash ty a b p) s a k (fun j => (hash (l b j ^^^ ((s.x p).toNat % 2 ^ (8 * k))), 0)))
      ∧ LaneWise (.vins ty a p q) s a k (fun j => (if j = (s.x q).toNat then (s.x p).toNat else l a j, 0))
      ∧ (InPipe (.vmov a b) s → VectorGives (.vmov a b) s a (s.vec b) 0))

/-- R114, R206, R286, R295, R296: reductions of the lanes to a scalar, the compare of leading bytes, and the extract of a
lane, which is zero beyond the lanes. -/
def Obligations.VectorReductionsAndExtracts : Prop :=
  ∀ (ty : Ty) (rm : Rm) (a : XReg) (b c : VReg) (d : XReg) (s : State),
    let k := ty.bytes
    let n := s.laneCount k
    let l := (List.range n).map (laneAt k (s.vec b))
    let ext (v : Nat) : Word := if ty.isInt then ty.res (v : Int) else BitVec.ofNat 64 v
    let gives (i : Instr) (v : Word) (f : Flags) : Prop :=
      InPipe i s → PipeGives i s s s.me s.myCore [v.setWidth 2048] f
    let bytes := min (s.x d).toNat (s.laneCount 1)
    (ty.isInt = true → gives (.vredadd ty rm a b) (ty.res (l.foldl (fun t v => t + laneInt ty v) 0)) 0)
    ∧ (ty.isInt = false →
      let r := sumNum false (l.map (valOf ty))
      let v := roundTy ty rm r.1
      gives (.vredadd ty rm a b) (BitVec.ofNat 64 v.1) (v.2 ||| r.2))
    ∧ gives (.vredmax ty a b) (ext (reduceTy ty true l).1) (reduceTy ty true l).2
    ∧ gives (.vredmin ty a b) (ext (reduceTy ty false l).1) (reduceTy ty false l).2
    ∧ (∀ j < bytes, laneAt 1 (s.vec b) j ≠ laneAt 1 (s.vec c) j →
      (∀ i < j, laneAt 1 (s.vec b) i = laneAt 1 (s.vec c) i) →
        gives (.vbcmp a b c d) (if laneAt 1 (s.vec b) j < laneAt 1 (s.vec c) j then -(BitVec.ofNat 64 (j + 1))
          else BitVec.ofNat 64 (j + 1)) 0)
    ∧ ((∀ j < bytes, laneAt 1 (s.vec b) j = laneAt 1 (s.vec c) j) → gives (.vbcmp a b c d) 0 0)
    ∧ gives (.vext ty a b d)
      (let v := if (s.x d).toNat < n then laneAt k (s.vec b) (s.x d).toNat else 0
      if ty.isSigned then BitVec.ofInt 64 (toSigned (8 * k) v) else BitVec.ofNat 64 v) 0

/-- R202, R263, R287: conversions between lane formats by parts, and the unpacking of a quarter of narrow elements under a
block's scale code. R288, R289, R290: a conversion under a tensor's record of a narrow format: the lanes within the tensor are converted
under the scale code, or under the codes that `vquant` forms and appends for each block, and the others are zero; a poisoned
record, or one of another format, is a fault of the pipe, and so is for `vquant` a reserved GEOM and one of blocks longer than
the register. The amax update that a record may ask for first is another statement's. -/
def Obligations.VectorConversions : Prop :=
  (∀ (ty ty2 : Ty) (rm : Rm) (a b : VReg) (c : XReg) (s : State),
      let kd := ty.bytes
      let ks := ty2.bytes
      let x := (s.x c).toNat
      let m := s.laneCount (max kd ks)
      let part := x % (max kd ks / min kd ks)
      let conv (j : Nat) : Nat × Flags :=
        let v := valOf ty2 (laneAt ks (s.vec b) j)
        ((roundTy ty rm v).1, (roundTy ty rm v).2 ||| snan [v])
      let q := x / 2 ^ 8 % 4 % kd
      let n := s.laneCount kd
      (ks ≤ kd → InPipe (.cvt ty ty2 rm a b c) s → ∃ v f, VectorGives (.cvt ty ty2 rm a b c) s a v f
        ∧ ∀ j < m, laneAt kd v j = (conv (part * m + j)).1 % 2 ^ (8 * kd))
      ∧ (kd < ks → InPipe (.cvt ty ty2 rm a b c) s → ∃ v f, VectorGives (.cvt ty ty2 rm a b c) s a v f
        ∧ ∀ j < n, laneAt kd v j =
          if part * m ≤ j ∧ j < part * m + m then (conv (j - part * m)).1 % 2 ^ (8 * kd) else laneAt kd (s.vec a) j)
      ∧ LaneWise (.unpk ty ty2 rm a b c) s a kd (fun j =>
          rounded ty rm (decodeScaled ty2 (laneAt 1 (s.vec b) (q * n + j)) (x % 256))))
  ∧
  (∀ (ty2 : Ty) (rm : Rm) (a b : VReg) (c d : XReg) (s u : State) (image : Nat) (psn : Bool), ty2 = .f32 ∨ ty2 = .f16 ∨ ty2 = .bf16 →
      let k := ty2.bytes
      let n := s.laneCount k
      let t := Tnr.ofImage image psn
      let ctl := (s.x d).toNat
      let x (j : Nat) : Machine.Num := valOf ty2 (laneAt k (s.vec b) j)
      let inside (j : Nat) : Bool := decide (ctl / 2 ^ 40 % 2 = 0) && decide (ctl % 2 ^ 32 + j < t.cols)
      let cvtn : Instr := .cvtn ty2 rm a b c d
      let vquant : Instr := .vquant ty2 rm a b c d
      let fault (i : Instr) : Prop :=
        exec i s = .next (u.push [.copFaultDetect u.cur.core u.cur.slot (BitVec.ofNat 32 s.cur.iss.seq) false])
      s.control (s.x c).toNat = .ok (u, image, psn) → ∀ i, i = cvtn ∨ i = vquant → InPipe i s →
      if psn = true ∨ fmtNarrow t.fmt = false then fault i
      else ∀ nty, fmtTy t.fmt = some nty → t.ascope = 0 ∨ t.ascope = 7 →
        let conv (code j : Nat) : Nat × Flags :=
          if inside j then
            let r := convertCode nty t.bound (x j) code rm
            (r.1, r.2 ||| snan [x j])
          else (0, 0)
        -- the bytes of the lanes, then those of the blocks
        let gives (code : Nat → Nat) (extra : List (Nat × Flags)) : Prop := ∃ v : Val,
          (∀ j < n, laneAt 1 v j = (conv (code j) j).1 % 256) ∧ (∀ j, n ≤ j → laneAt 1 v j = (extra.getD (j - n) (0, 0)).1 % 256)
          ∧ let f := flagsOf n (fun j => conv (code j) j) ||| extra.foldl (fun f e => f ||| e.2) 0
            match a with
            | .v _ => PipeGives i s u u.me u.myCore [v] f
            | .w m => let w := u.writeW u.cur.core u.cur.slot m.toNat v
              PipeGives i s w w.me w.myCore [] f
            | .s _ => True
        if i = cvtn then gives (fun _ => ctl / 2 ^ 32 % 2 ^ 8) []
        else if t.geom = 4 then gives (fun _ => 127) []
        else match geomG t.geom with
          | none => fault i
          | some g =>
            if n < g then fault i
            else
              let block (h : Nat) : Nat × Flags := scaleCode nty
                ((List.range g).filterMap fun j => if inside (g * h + j) then some (x (g * h + j)) else none)
              gives (fun j => (block (j / g)).1) ((List.range (n / g)).map block))

/-- R318, R319, R321: streams are opened by their record, whose fields are checked, advanced, asked for their end and closed; a
bad record is a fault of the pipe that leaves the stream closed with ERR, a closed stream is a fault of the pipe for `sadv` and
ends at 0 for `stend`, and a dense one advanced by no multiple of its element is a fault that sets ERR. R277, R319: a vector instruction whose destination or source
is a closed stream is a fault of the pipe, and one whose sources are a dense stream of the local store reads the bytes
at its cursor once, zero beyond its length, and moves it on. -/
def Obligations.StreamsAndTheirOperands : Prop :=
  (∀ (ty : Ty) (a : SReg) (b : XReg) (p : PReg) (s : State), s.cur.iss.pipe = true →
      let x := s.stream a
      let c := (s.x b).toNat
      let set (x : Stream) : Thread := { s.me with s := put s.me.s a.toNat (streamBits x) }
      let pipeFault (u : State) : State :=
        u.push [.copFaultDetect u.cur.core u.cur.slot (BitVec.ofNat 32 s.cur.iss.seq) false]
      let one (i : Instr) (thread : Thread) : Prop := PipeDoes i s thread s.myCore 0
      one (.sclose a) { s.me with s := put s.me.s a.toNat 0 }
      ∧ PipeGives (.stend p a) s s s.me s.myCore [if x.mode ≠ 0 ∧ x.fin = true then 1 else 0] 0
      ∧ (x.mode = 0 ∨ x.err = true → PipeFaults (.sadv a b) s false)
      ∧ (x.mode ≠ 0 → x.err = false → x.mode ≠ 3 → c % x.k = 0 →
        one (.sadv a b) (set { x with cur := x.cur + c, fin := x.fin || decide (x.rowlen * x.nrows ≤ x.cur + c) }))
      ∧ (x.mode ≠ 0 → x.err = false → x.mode ≠ 3 → c % x.k ≠ 0 →
        exec (.sadv a b) s = .next (pipeFault (s.setStream a { x with err := true })))
      ∧ ∀ (fibre : Bool) (u : State) (record : Option Nat), s.streamRecord (s.x b) = .ok (u, record) →
        let w := record.getD 0
        let field (lo n : Nat) : Nat := w / 2 ^ lo % 2 ^ n
        let k := ty.bytes
        let base := field 0 57
        let rowlen := field 160 32
        let pitch := field 128 32
        let nrows := field 224 32
        let dir := field 222 2
        let len := if fibre then pitch else rowlen * nrows
        let i : Instr := if fibre then .fopen ty a b else .sopen ty a b
        let stores : Bool := match opOf (field 217 5) with
          | some op => storeOk ty op false
          | none => false
        if record = none ∨ 2 ≤ dir ∨ (fibre = true ∧ dir = 1) ∨ base % k ≠ 0 ∨ (fibre = false ∧ (rowlen % k ≠ 0 ∨ pitch % k ≠ 0))
            ∨ (fibre = false ∧ dir = 1 ∧ field 63 1 = 0 ∧ stores = false) then
          exec i s = .next (pipeFault (u.setStream a { streamOf 0 with err := true }))
        else PipeGives i s u
          { u.me with s := put u.me.s a.toNat (streamBits
            { mode := if fibre then 3 else 1 + dir, ls := field 63 1 == 1, fin := decide (len = 0), err := false, op := field 217 5
              ty := tyCodeOf ty, base := base, pbase := field 64 57, rowlen := rowlen, pitch := pitch, nrows := nrows
              cur := 0, nzi := 0 }) } u.myCore [] 0)
  ∧
  (∀ (ty : Ty) (a b : VReg) (r : SReg) (s : State), s.cur.iss.pipe = true →
      let x := s.stream r
      let rb := if s.cur.iss.pipeNo = 1 then 256 else 32
      let both : Instr := .vand ty a (.s r) (.s r)
      (s.cur.iss.phase = 0 → x.mode = 0 → PipeFaults (.vand ty (.s r) b b) s false)
      ∧ ((∀ q, a ≠ .s q) → x.mode = 0 → PipeFaults both s false)
      ∧ ∀ m, a = .v m → s.cur.iss.vs = [] → x.mode = 1 → x.err = false → x.ls = true → x.nrows = 1 →
        let n := min rb (x.rowlen - x.cur) / x.k
        0 < x.k → (∀ j < n, (x.base + x.cur + x.k * j) % x.k = 0) → x.cur + n * x.k ≤ x.rowlen →
        (∀ j < n, s.myCore.lsOk s.me.cr.ctx (x.base + x.cur + x.k * j) x.k false = true) →
        ∃ v, (∀ j < n, laneAt x.k v j = leNat (Memory.readN s.myCore.ls (x.base + x.cur + x.k * j) x.k))
          ∧ v.toNat < 2 ^ (8 * x.k * n)
          ∧ ∃ t, exec both s = .next t
            ∧ t.me.results = s.me.results ++ [(s.cur.iss.seq, s.cur.iss.tags.zip [v], 0)]
            ∧ t.me.s = put s.me.s r.toNat (streamBits
              { x with cur := x.cur + rb, fin := x.fin || decide (x.rowlen * x.nrows ≤ x.cur + rb) })
            ∧ t.mem = s.mem)

/-- R213, R214, R298, R301, R302, R303, R304: the dense and the sparse product of a panel of 16 rows and one of 16 columns
of the local store into a tile: each element takes its products in chunks of 16 along K, an element of a sparse row
as +0 where the mask of its group of 24 does not keep it, the mask computed or read; `topk` writes the computed masks. A
pair that the unit does not multiply, a panel or mask that may not be read, or a mask with another number of bits is a
fault. -/
def Obligations.MatrixProducts : Prop :=
  ∀ (ty ty2 : Ty) (a : AReg) (b c d e o : XReg) (imm : BitVec 18) (s : State),
    let ctl (x : XReg) (lo n : Nat) : Nat := (s.x x).toNat / 2 ^ lo % 2 ^ n
    let pitch (x : XReg) (lo : Nat) : Nat := 16 * if ctl x lo 8 = 0 then 256 else ctl x lo 8
    let last (x : XReg) : Nat := if ctl x 0 5 = 0 ∨ 16 < ctl x 0 5 then 16 else ctl x 0 5
    let depth (x : XReg) : Nat := if ctl x 8 8 = 0 then 0 else 16 * (ctl x 8 8 - 1) + last x
    let core := s.myCore
    let placeA (x : XReg) (i q : Nat) : Nat := (s.x b).toNat + pitch x 24 * i + ty2.bytes * q
    let readable (x : XReg) : Bool := (List.range 16).all fun i => (List.range (depth x)).all fun q =>
      s.lsMay (placeA x i q) ty2.bytes false
    let scale : Int := match ctl d 62 2 with
      | 1 => core.skr.toInt - 127
      | 2 => ((ctl d 40 8 : Nat) : Int) + (ctl d 32 8 : Nat) - 254
      | _ => 0
    let nan : Bool := ctl d 62 2 == 2 && (ctl d 40 8 == 255 || ctl d 32 8 == 255)
    let n := [4, 6, 8, 12].getD (imm.toNat % 4) 4
    let groups (x : XReg) : Nat := (depth x + 23) / 24
    let group (x : XReg) (i g : Nat) : List Machine.Num := (List.range 24).map fun j =>
      if 24 * g + j < depth x then core.elem ty2 (placeA x i (24 * g + j)) else .zero false
    let maskAt (i g : Nat) : Nat := (s.x e).toNat + 4 * (i * groups d + g)
    let mask (i g : Nat) : Nat :=
      if e = .dir 0 then selectMask n (group d i g) else leNat (Memory.readN core.ls (maskAt i g) 4) % 2 ^ 24
    let masksGood : Bool := e == .dir 0 || (List.range 16).all fun i => (List.range (groups d)).all fun g =>
      s.lsMay (maskAt i g) 4 false && ((List.range 24).filter fun j => (mask i g).testBit j).length == n
    let product (i : Instr) (acc : Ty) (keep : Nat → Nat → Bool) (good : Bool) : Prop := InPipe i s →
      match tyOf (ctl d 57 5) with
      | none => PipeFaults i s false
      | some tb =>
        let placeB (q j : Nat) : Nat := (s.x c).toNat + pitch d 16 * q + tb.bytes * j
        if pairOk acc ty2 tb = false then PipeFaults i s false
        else if ctl d 8 8 = 0 then PipeDoes i s s.me core 0
        else if readable d && ((List.range 16).all fun j => (List.range (depth d)).all fun q =>
            s.lsMay (placeB q j) tb.bytes false) && good then
          let row (i : Nat) : List (Option Machine.Num) := (List.range (depth d)).map fun q =>
            some (if nan then .nan false else if keep i q then core.elem ty2 (placeA d i q) else .zero false)
          let col (j : Nat) : List (Option Machine.Num) := (List.range (depth d)).map fun q => some (core.elem tb (placeB q j))
          let r (el : Nat) : Nat × Flags :=
            accRow (accFmt acc) ((s.me.tile acc a.toNat).getD el 0) (row (el / 16)) (col (el % 16)) scale
          ∃ t, TileSet s.me t acc a.toNat (fun el => (r el).1) ∧ PipeDoes i s t core (flagsOf 256 r)
        else PipeFaults i s false
    product (.mma ty ty2 a b c d) ty (fun _ _ => true) true
    ∧ product (.mmas ty2 a b c d e imm) .f32 (fun i q => (mask i (q / 24)).testBit (q % 24)) masksGood
    ∧ (let i : Instr := .topk ty2 o b c d
      let k := (s.x d).toNat
      let dest := (s.x o).toNat
      InPipe i s → Memory.wf core.ls = true →
        if (k = 4 ∨ k = 6 ∨ k = 8 ∨ k = 12) ∧ readable c = true ∧ s.lsMay dest (64 * groups c) true = true then
          ∃ u, StoreSet core u dest 4 (16 * groups c) (fun m => selectMask k (group c (m / groups c) (m % groups c)))
            ∧ PipeDoes i s s.me u 0
        else PipeFaults i s false)

/-- R81, R305, R306, R307, R308: `mmt` captures its two records and makes its checks when its pipe takes it up; it starts
at chunk 0, or where it stopped, and clears the tile first where the immediate says so at chunk 0. Each chunk adds 16
steps of K to the tile; the last one completes it; one that ends while a trap entry waits stops it there. -/
def Obligations.TileMacroInstruction : Prop :=
  ∀ (ty : Ty) (a : AReg) (b c d e f : XReg) (imm : BitVec 18) (s : State),
    let i : Instr := .mmt ty a b c d e f imm
    let n := s.cur.core
    let k := s.cur.slot
    let chunks := if imm.toNat % 256 = 0 then 256 else imm.toNat % 256
    let fault (u : State) (sw : Bool) : State := u.push [.copFaultDetect n k (BitVec.ofNat 32 s.cur.iss.seq) sw]
    (∀ (u w : State) (ip iq : Nat) (badP badQ : Bool), s.cur.iss.pipe = true →
      s.control (s.x b).toNat = .ok (u, ip, badP) → u.control (u.x c).toNat = .ok (w, iq, badQ) →
      let start := if w.me.mmta then w.me.mmtk else 0
      let v := w.modMe fun t => { t with mmtk := start, mmta := false }
      let p := w.mmtSide false ip badP d e imm
      let q := w.mmtSide true iq badQ d f imm
      (badP = true ∨ badQ = true → exec i s = .next (fault v false))
      ∧ (∀ sw, v.mmtCheck ty p q = some sw → exec i s = .next (fault v sw))
      ∧ (v.mmtCheck ty p q = none → ∃ t, exec i s = .next t ∧ t.agenda = w.agenda ++ [.mmtChunkComplete n k] ∧ t.mem = w.mem
        ∧ (let x : Thread := { w.me with mmtk := start, mmta := false, inflight := t.me.inflight }
          if imm.getLsbD 10 = true ∧ start = 0 then TileSet x t.me ty a.toNat (fun _ => 0) else t.me = x)))
    ∧ ∀ (iss : Issue) (m j : Nat), iss.instr = i →
      let ev := { s with ev := .mmtChunkComplete m j }
      let t := s.thr m j
      let x := { ev with cur := ⟨m, j, iss⟩ }
      let p := x.mmtSide false (mmtKept iss 0) false d e imm
      let q := x.mmtSide true (mmtKept iss 1) false d f imm
      let done := t.mmtk.toNat + 1
      t.mmtStop = none → (t.inflight.find? fun y => isMmt y.instr && y.phase == 0) = some iss →
      (x.mmtChunk ty a p q = none → ∃ u, exec .mmtChunkComplete ev = .next u
        ∧ u.agenda = s.agenda ++ [.copFaultDetect m j (BitVec.ofNat 32 iss.seq) false] ∧ u.thr m j = { t with mmtHalt := false })
      ∧ (∀ u fl, x.mmtChunk ty a p q = some (u, fl) →
        let all : Flags := fl ||| BitVec.ofNat 5 (mmtKept iss 2)
        (done = chunks → ∃ v, exec .mmtChunkComplete ev = .next v ∧ v.thr m j = { u.thr m j with
            mmtk := 0, mmta := false, mmtHalt := false, results := (u.thr m j).results ++ [(iss.seq, [], all)] }
          ∧ v.agenda = u.agenda ++ [.coprocessorComplete m j (BitVec.ofNat 32 iss.seq)])
        ∧ (done ≠ chunks → t.mmtHalt = false → ∃ v, exec .mmtChunkComplete ev = .next v
          ∧ (v.thr m j).mmtk = BitVec.ofNat 16 done ∧ (v.thr m j).a = (u.thr m j).a
          ∧ v.agenda = u.agenda ++ [.mmtChunkComplete m j])
        ∧ (done ≠ chunks → t.mmtHalt = true → ∃ v, exec .mmtChunkComplete ev = .next v
          ∧ (v.thr m j).mmtk = BitVec.ofNat 16 done ∧ (v.thr m j).mmta = true ∧ (v.thr m j).mmtStop.isSome = true
          ∧ v.agenda = u.agenda))
      ∧ ∀ (ta tb : Ty) (x1 x2 : State) (rows cols : List (List (Option (Machine.Num × Flags)))), p.ty = some ta → q.ty = some tb →
        x.bufChunk p ta true t.mmtk.toNat = some (x1, rows) → x1.bufChunk q tb false t.mmtk.toNat = some (x2, cols) →
        ∃ u fl, x.mmtChunk ty a p q = some (u, fl)
          ∧ TileSet x2.me u.me ty a.toNat (fun el => (accRow (accFmt ty) ((x2.me.tile ty a.toNat).getD el 0)
            ((rows.getD (el / 16) []).map fun y => y.map Prod.fst) ((cols.getD (el % 16) []).map fun y => y.map Prod.fst) 0).1)

/-- R200, R214, R311, R312: tiles are cleared, stored as 256 numbers of 5 bytes in row-major order, loaded, added with one
rounding, and read out in lanes with one rounding, or as bytes under a tensor's record, where a lane outside the tensor is zero;
a poisoned or unfit record, or bytes that may not be accessed, are a fault. An amax update that the record asks for first is
another statement's. -/
def Obligations.TilesAreMoved : Prop :=
  ∀ (ty acc : Ty) (rm : Rm) (a b c : AReg) (x y : XReg) (r : VReg) (pair : Bool) (s : State),
    let off := (s.x x).toNat
    let el (t : Ty) (n : AReg) (e : Nat) : Nat := (s.me.tile t n.toNat).getD e 0
    let num (t : Ty) (v : Nat) : Machine.Num := (if t = .f64 then fp64 else fp40).decode v
    let sum (e : Nat) : Nat × Flags :=
      let t := sumNum false [num acc (el acc b e), num acc (el acc c e)]
      let v := roundTo (if acc = .f64 then fp64 else fp40) rm t.1
      (v.1, t.2 ||| v.2 ||| if t.1.isNan then Flags.nv else 0)
    let from' : Ty := if pair then .f64 else .f32
    let n := (match r with
      | .w _ => 256
      | _ => 32) / ty.bytes
    let q := (s.x x).toNat % 256 % (256 / n)
    let out (j : Nat) : Nat × Flags :=
      let v := num from' (el from' a (q * n + j))
      rounded ty rm (v, snan [v])
    (InPipe (.azero a) s → ∃ t, TileSet s.me t .f32 a.toNat (fun _ => 0) ∧ PipeDoes (.azero a) s t s.myCore 0)
    ∧ (InPipe (.aspill x a) s → Memory.wf s.myCore.ls = true → if s.lsMay off 1280 true then
        ∃ u, StoreSet s.myCore u off 5 256 (el .f32 a) ∧ PipeDoes (.aspill x a) s s.me u 0
      else PipeFaults (.aspill x a) s false)
    ∧ (InPipe (.afill a x) s → if s.lsMay off 1280 false then
        ∃ t, TileSet s.me t .f32 a.toNat (fun e => leNat (Memory.readN s.myCore.ls (off + 5 * e) 5))
          ∧ PipeDoes (.afill a x) s t s.myCore 0
      else PipeFaults (.afill a x) s false)
    ∧ (InPipe (.aadd acc rm a b c) s → ∃ t, TileSet s.me t acc a.toNat (fun e => (sum e).1)
        ∧ PipeDoes (.aadd acc rm a b c) s t s.myCore (flagsOf 256 sum))
    ∧ (∀ i, i = .aread ty pair rm r a x y → InPipe i s → (∀ m, r ≠ .s m) →
      (ty ≠ .b8 → ty ≠ .b128 → ∃ v : Val, PipeGives i s s s.me s.myCore [v] (flagsOf n out)
        ∧ (∀ j < n, laneAt ty.bytes v j = (out j).1 % 2 ^ (8 * ty.bytes)) ∧ v.toNat < 2 ^ (8 * ty.bytes * n))
      ∧ (ty = .b8 → ∀ u image bad, s.control (s.x y).toNat = .ok (u, image, bad) →
        let t := Tnr.ofImage image bad
        (bad = true ∨ fmtNarrow t.fmt = false →
          exec i s = .next (u.push [.copFaultDetect s.cur.core s.cur.slot (BitVec.ofNat 32 s.cur.iss.seq) false]))
        ∧ (bad = false → ∀ nty, fmtTy t.fmt = some nty → fmtNarrow t.fmt = true → t.ascope = 0 ∨ t.ascope = 7 →
          let conv (j : Nat) : Nat × Flags :=
            let e := q * n + j
            let y := num from' (el from' a e)
            if (s.x x).getLsbD 16 = false ∧ (s.x x).toNat / 2 ^ 32 + e % 16 < t.cols then
              let r := convertCode nty t.bound y ((s.x x).toNat / 2 ^ 8 % 2 ^ 8) rm
              (r.1, r.2 ||| snan [y])
            else (0, 0)
          ∃ v : Val, PipeGives i s u u.me u.myCore [v] (flagsOf n conv) ∧ (∀ j < n, laneAt 1 v j = (conv j).1 % 256)
            ∧ v.toNat < 2 ^ (8 * n))))

/-- R46, R214, R309, R310: `mvh` multiplies 16 rows of the local store with a window of 16 columns that the near-bank units
read at home, where an element outside the tensor is zero, from a cleared tile where the immediate says so. A poisoned or unfit
record, a row that may not be read, and an element that is refused, poisoned or of another format are a fault that leaves the
tile; a page that is not resident aborts the task of a unit that is not pinned. -/
def Obligations.ProductAtHome : Prop :=
  ∀ (ty ty2 : Ty) (a : AReg) (b c d e : XReg) (imm : BitVec 18) (s u : State) (image : Nat) (bad : Bool),
    let i : Instr := .mvh ty ty2 a b c d e imm
    let n := s.cur.core
    let k := s.cur.slot
    let t := Tnr.ofImage image bad
    let depth := 16 * if imm.toNat % 256 = 0 then 256 else imm.toNat % 256
    let place (r q : Nat) : Nat := (s.x b).toNat + r * ((s.x e).toNat % 2 ^ 18) + ty2.bytes * q
    let may : Bool := (List.range 16).all fun r => (List.range depth).all fun q => s.lsMay (place r q) ty2.bytes false
    let wr := (s.x d).toNat / 2 ^ 32
    let wc := (s.x d).toNat % 2 ^ 32
    let fault (u : State) : Prop := exec i s = .next (u.push [.copFaultDetect n k (BitVec.ofNat 32 s.cur.iss.seq) false])
    InPipe i s → s.control (s.x c).toNat = .ok (u, image, bad) →
    match fmtTy t.fmt with
    | none => fault u
    | some tw =>
      if bad = true ∨ may = false then fault u
      else ∀ v r, u.nearCols ty ty2 t tw.bytes wr wc depth = (v, r) →
        match r with
        | .error (.miss m) => ∀ lvl leaf at', m.tr = .absent lvl leaf at' → m.held = false → v.waitRoom m.die m.ctx m.va = true →
          v.me.pin = false → ∃ w, exec i s = .next w ∧ .taskAbort n k (.page m.die m.ctx m.va) ∈ w.agenda
            ∧ w.me.a = s.me.a
        | .error _ => fault v ∧ v.me.a = s.me.a
        | .ok (cols, fl) =>
          let old (el : Nat) : Nat := if imm.getLsbD 8 then 0 else (s.me.tile ty a.toNat).getD el 0
          let row (r : Nat) : List (Option Machine.Num) := (List.range depth).map fun q => some (s.myCore.elem ty2 (place r q))
          let r (el : Nat) : Nat × Flags := accRow (accFmt ty) (old el) (row (el / 16)) (cols.getD (el % 16) []) 0
          (∀ j < 16, ∀ q < depth, (cols.getD j []).getD q none = none ↔ t.rows ≤ wr + q ∨ t.cols ≤ wc + j)
          ∧ ∃ x, TileSet v.me x ty a.toNat (fun el => (r el).1) ∧ PipeGives i s v x v.myCore [] (fl ||| flagsOf 256 r)

/-- R94, R96, R293, R313, R314, R316: a scale set is eA + eB − 127, counted, and sent by the keeper to the other cores of its
cluster, where it arrives when the cores have had their turns of the cycle (log 43); rows of statistics are stored with slot 7 as zero and loaded in slots 0 to 6; an update of no elements does
nothing, and the first element of an empty row starts it. -/
def Obligations.ScalesAndStatistics : Prop :=
  ∀ (a b c d : XReg) (r : VReg) (s : State),
    let n := s.cur.core
    let core := s.myCore
    let v : BitVec 10 := BitVec.ofInt 10 ((((s.x b).toNat % 256 : Nat) : Int) + ((s.x c).toNat % 256 : Nat) - 127)
    let off := (s.x b).toNat
    let rows := (List.range 16).filter fun i => (s.x c).getLsbD i
    let may (write : Bool) : Bool := rows.all fun i => s.lsMay (off + 32 * i) 32 write
    let row := (s.x c).toNat % 16
    let sent : List Ev := if posOf n = 0 then (List.range 7).map fun i => .scaleSetArrival (coreOf (clusterOf n) (i + 1)) v else []
    DoesOver (.skset b c) s { s with later := s.later ++ sent }
      { Effect.none s with core := { core with skr := v, skg := core.skg + 1 } }
    ∧ Gives (.skget a) s a ((core.skg ++ core.skr.signExtend 16).setWidth 64)
    ∧ (∀ m w, exec .scaleSetArrival { s with ev := .scaleSetArrival m w } = .next
      (({ s with ev := .scaleSetArrival m w } : State).modCore m fun x => { x with skr := w, skg := x.skg + 1 }))
    ∧ (InPipe (.sbst b c) s → Memory.wf core.ls = true → if may true then
        ∃ u : Core, PipeDoes (.sbst b c) s s.me u 0 ∧ u = { core with ls := u.ls }
          ∧ (∀ i ∈ rows, ∀ j < 8, leNat (Memory.readN u.ls (off + 32 * i + 4 * j) 4) =
            if j = 7 then 0 else (look core.stats (8 * i + j) 0).toNat)
          ∧ ∀ p, (∀ i ∈ rows, p < off + 32 * i ∨ off + 32 * i + 32 ≤ p) → Memory.read u.ls p = Memory.read core.ls p
      else PipeFaults (.sbst b c) s false)
    ∧ (InPipe (.sbld b c) s → if may false then
        ∃ u : Core, PipeDoes (.sbld b c) s s.me u 0 ∧ u = { core with stats := u.stats }
          ∧ ∀ k, look u.stats k 0 = if k / 8 ∈ rows ∧ k % 8 ≠ 7 then
              BitVec.ofNat 32 (leNat (Memory.readN core.ls (off + 32 * (k / 8) + 4 * (k % 8)) 4)) else look core.stats k 0
      else PipeFaults (.sbld b c) s false)
    ∧ (InPipe (.sbupd r c d) s → (∃ m, r = .v m) → s.cur.iss.pipeNo = 0 →
      (s.x d = 0 → PipeDoes (.sbupd r c d) s s.me core 0)
      ∧ (s.x d = 1 → look core.stats (8 * row) 0 = 0 →
        let x := BitVec.ofNat 32 (laneAt 4 (s.vec r) 0)
        ∃ u f, PipeDoes (.sbupd r c d) s s.me u f ∧ u = { core with stats := u.stats }
          ∧ look u.stats (8 * row) 0 = 1 ∧ look u.stats (8 * row + 1) 0 = x ∧ look u.stats (8 * row + 2) 0 = 0
          ∧ look u.stats (8 * row + 4) 0 = x ∧ look u.stats (8 * row + 5) 0 = 0x3F800000))

/-- R98, R343 to R348: what each polynomial instruction makes of its accumulator: the coefficients of a product or
quotient by a linear factor, of a product of two, or a single one, each rounded once; then the rescale, which divides
by a power of two where the greatest coefficient lies outside 2^−64 to 2^64 and counts it in SC. -/
def Obligations.Polynomials : Prop :=
  ∀ (rm : Rm) (a p q : HReg) (b c x : XReg) (s : State),
    let acc (r : HReg) : HAcc := look s.me.h r.toNat HAcc.reset
    let h := acc a
    let num (v : Word) : Machine.Num := fp64.decode v.toNat
    let put' (h : HAcc) : Thread := { s.me with h := put s.me.h a.toNat h }
    let clamp (v : Int) : Int := if v < -32768 then -32768 else if 32767 < v then 32767 else v
    let coefs (h : HAcc) (r : Nat → Nat) : Prop := ∀ k ≤ h.deg.toNat, look h.c k 0 = BitVec.ofNat 64 (r k)
    let writes (i : Instr) (deg : BitVec 6) (sc : BitVec 16) (r : Nat → Nat × Flags) (more : Flags) : Prop := InPipe i s →
      ∃ g : HAcc, g.deg = deg ∧ g.sc = sc ∧ coefs g (fun k => (r k).1)
        ∧ PipeDoes i s (put' g.rescale.1) s.myCore (more ||| flagsOf (deg.toNat + 1) r ||| g.rescale.2)
    let nan := (num (s.x b)).isNan || (num (s.x c)).isNan
    let zero (n : Machine.Num) : Bool := match n with
      | .zero _ => true
      | _ => false
    let bothZero := zero (num (s.x b)) && zero (num (s.x c))
    let forwards := !ltNum (num (s.x b)).abs (num (s.x c)).abs
    writes (.hset a b c) (BitVec.ofNat 6 (min (s.x b).toNat 63)) 0 (fun k => (if k = 0 then (s.x c).toNat else 0, 0)) 0
    ∧ (InPipe (.hscale a b) s →
      let v := h.sc.toInt + toSigned 16 (s.x b).toNat
      PipeDoes (.hscale a b) s (put' { h with sc := BitVec.ofInt 16 (clamp v) }) s.myCore
        (if clamp v = v then 0 else Flags.of))
    ∧ writes (.hdeg a b) (BitVec.ofNat 6 (min (s.x b).toNat 63)) h.sc
        (fun k => (if k ≤ h.deg.toNat then (look h.c k 0).toNat else 0, 0)) 0
    ∧ writes (.hmul rm a b c) h.deg h.sc
        (fun k => linear rm [(num (s.x b), h.coef k), (num (s.x c), if k = 0 then .zero false else h.coef (k - 1))]) 0
    ∧ (nan = true ∨ bothZero = true → writes (.hdiv rm a b c) h.deg h.sc (fun _ => (0x7FF8000000000000, 0))
        ((if bothZero then Flags.nv else 0) ||| snan [num (s.x b), num (s.x c)]))
    ∧ (nan = false → bothZero = false → forwards = true → ∃ r : Nat → Nat × Flags,
        (∀ k, r k = quotStep rm (h.coef k) (num (s.x c)) (if k = 0 then .zero false else fp64.decode (r (k - 1)).1)
          (num (s.x b)))
        ∧ writes (.hdiv rm a b c) h.deg h.sc r 0)
    ∧ (nan = false → bothZero = false → forwards = false → ∃ r : Nat → Nat × Flags,
        (∀ k ≥ h.deg.toNat, r k = (0, 0))
        ∧ (∀ k < h.deg.toNat, r k = quotStep rm (h.coef (k + 1)) (num (s.x b))
          (if k + 1 = h.deg.toNat then .zero false else fp64.decode (r (k + 1)).1) (num (s.x c)))
        ∧ writes (.hdiv rm a b c) h.deg h.sc r 0)
    ∧ (let dp := (acc p).deg.toNat
      let dq := (acc q).deg.toNat
      let v := (acc p).sc.toInt + (acc q).sc.toInt
      writes (.hprod rm a p q) (BitVec.ofNat 6 (min (dp + dq) 63)) (BitVec.ofInt 16 (clamp v)) (fun k =>
          let t := linear rm ((List.range (k + 1)).filterMap fun i =>
            if i ≤ dp ∧ k - i ≤ dq then some ((acc p).coef i, (acc q).coef (k - i)) else none)
          (t.1, t.2 ||| if (fp64.decode t.1).isNan then Flags.nv else 0))
        (if clamp v = v then 0 else Flags.of))
    ∧ (InPipe (.hrd rm x p c) s →
      let i := (s.x c).toNat
      let v := (acc p).coef i
      let t := roundTo fp64 rm (v.scale (acc p).sc.toInt)
      if (acc p).deg.toNat < i then PipeGives (.hrd rm x p c) s s s.me s.myCore [0] 0
      else PipeGives (.hrd rm x p c) s s s.me s.myCore [BitVec.ofNat 2048 t.1] (t.2 ||| snan [v]))
    ∧ (let i := (s.x b).toNat
      let v := num (s.x c)
      let t := roundTo fp64 rm (v.scale (-h.sc.toInt))
      (h.deg.toNat < i → InPipe (.hwr rm a b c) s → PipeDoes (.hwr rm a b c) s s.me s.myCore 0)
      ∧ (i ≤ h.deg.toNat → writes (.hwr rm a b c) h.deg h.sc
          (fun k => (if k = i then t.1 else (look h.c k 0).toNat, 0)) (t.2 ||| snan [v])))
    ∧ ∀ g : HAcc,
      match maxAbs ((List.range (g.deg.toNat + 1)).map g.coef) with
      | some (.fin m e) =>
        let k := log2Of m e
        if -64 ≤ k ∧ k ≤ 63 then g.rescale = (g, 0)
        else g.rescale.1.deg = g.deg ∧ g.rescale.1.sc = BitVec.ofInt 16 (clamp (g.sc.toInt + k))
          ∧ coefs g.rescale.1 (fun j => (roundTo fp64 .rne ((g.coef j).scale (-k))).1)
      | _ => g.rescale = (g, 0)

/-- R97, R252, R342: the monitor instructions: `mset` takes its image from the local store and keeps the sticky bits, or
raises ALIGN, or LS_PROT with the lowest offset that fails; `mref` and `mclr` set the reference and clear what was
counted; `mrd` reads by its selector. R94, R286, R292: `xmax` after its commit: it contributes the greatest of its lanes to
the exchange of its core's count, one contribution of the core at a time, waits, and takes the exchange's result. A
contribution joins its exchange, which completes once every core of the cluster that is neither vacated nor killed has
contributed, with the greatest of the contributions; a core that was vacated before this cycle or killed counts with the
least value of the type. -/
def Obligations.MonitorsAndClusterMaximum : Prop :=
  (∀ (a : MReg) (x b c : XReg) (s : State),
      let core := s.myCore
      let m := look core.mon a.toNat Monitor.reset
      let off := (s.x b).toNat
      let set (m : Monitor) : Effect := { Effect.none s with core := { core with mon := put core.mon a.toNat m } }
      let half (v : BitVec 128) (hi : Bool) : Word := if hi then (v >>> 64).setWidth 64 else v.setWidth 64
      let bit (i : Nat) : Word := if m.cfg.getLsbD i then 1 else 0
      (if off % 32 ≠ 0 then Raises (.mset a b) s .align (BitVec.ofNat 64 off)
        else if core.lsOk s.me.cr.ctx off 32 false then
          let image := BitVec.ofNat 256 (leNat (Memory.readN core.ls off 32))
          ∃ cfg : BitVec 256, Does (.mset a b) s (set { m with cfg := cfg })
            ∧ ∀ i < 256, cfg.getLsbD i =
              if i ≤ 64 ∨ (120 ≤ i ∧ i < 249) then image.getLsbD i else if i < 68 then m.cfg.getLsbD i else false
        else ∃ bad < 32, Raises (.mset a b) s .lsProt (BitVec.ofNat 64 (off + bad))
          ∧ (∀ j < bad, core.lsOk s.me.cr.ctx (off + j) 1 false = true)
          ∧ (core.lsOk s.me.cr.ctx (off + bad) 1 false = false
            ∨ bad = 0 ∧ ∀ j < 32, core.lsOk s.me.cr.ctx (off + j) 1 false = true))
      ∧ Does (.mref a b c) s (set { m with ref := (s.x c) ++ (s.x b) })
      ∧ (∃ cfg : BitVec 256, Does (.mclr a) s (set { m with sum := 0, tsum := [], cfg := cfg })
        ∧ ∀ i < 256, cfg.getLsbD i = if 65 ≤ i ∧ i ≤ 67 then false else m.cfg.getLsbD i)
      ∧ Gives (.mrd x a c) s x (match (s.x c).toNat % 8 with
        | 0 => half m.sum false
        | 1 => half m.sum true
        | 2 => half m.ref false
        | 3 => half m.ref true
        | 4 => half (look m.tsum s.cur.slot 0) false
        | 5 => half (look m.tsum s.cur.slot 0) true
        | 6 => bit 64 + 2 * bit 65 + 4 * bit 66 + 8 * bit 67
        | _ => m.cfg.setWidth 64))
  ∧
  (∀ (ty : Ty) (a : XReg) (b : VReg) (s : State),
      let n := s.cur.core
      let k := s.cur.slot
      let cl := clusterOf n
      let i : Instr := .xmax ty a b
      let lanesOf : List Nat := (List.range (s.me.rb / ty.bytes)).map (laneAt ty.bytes (s.vec b))
      let best := reduceTy ty true lanesOf
      let c : Contribution := ⟨s.myCore.xcount, n, k, ty, BitVec.ofNat 64 best.1⟩
      let cancel : List Ev := if s.me.cancelled then [.taskAbort n k .cancel] else []
      (s.phase = 1 ∨ s.phase = 2 →
        let st : CommitSt := if s.phase = 1 then .idle else s.me.commit
        ∃ u, exec i s = .next u ∧ u.ids = s.ids
          ∧ (s.myCore.xpend = none → OnlyMe s u { s.myCore with xpend := some k }
            ∧ u.me = { s.me with
              commit := st, reply := none, flags := s.me.flags ||| best.2, wait := .exchange
              blocked := some { s.cur.iss with phase := 3 } }
            ∧ u.agenda = s.agenda ++ [.xmaxContributionArrival cl c] ++ cancel)
          ∧ (s.myCore.xpend ≠ none → OnlyMe s u s.myCore ∧ u.agenda = s.agenda ++ cancel
            ∧ u.me = { s.me with commit := st, wait := .exchangeTurn, blocked := some { s.cur.iss with phase := 2 } }))
      ∧ (2 < s.phase → Does i s { Effect.none s with
          thread := { s.me with reply := none }
          writes := [(s.destX a, some ((resTy ty (s.me.reply.getD 0).toNat).setWidth 2048))] })
      ∧ (∀ (x : Contribution) (d : Nat), d < 288 →
        let e := { s with ev := .xmaxContributionArrival d x }
        let l := (s.clusterAt d).exch
        let its (y : Exch) : Bool := y.n == x.exch
        let all (y : Exch) : Bool := (List.range 8).all fun p =>
          y.parts.any (fun z => z.1 == p) || s.vacated (coreOf d p) || s.killed (coreOf d p)
        let part := (posOf x.core, x)
        (s.killed x.core = true ∨ (s.coreAt x.core).xpend ≠ some x.slot → exec .xmaxContributionArrival e = .next e)
        ∧ (s.killed x.core = false → (s.coreAt x.core).xpend = some x.slot →
          ∃ u, exec .xmaxContributionArrival e = .next u ∧ u.cores = s.cores ∧ u.mem = s.mem
            ∧ (u.clusterAt d).exch = (if l.any its then l.map fun y => if its y then { y with parts := y.parts ++ [part] } else y
              else l ++ [⟨x.exch, [part]⟩])
            ∧ u.agenda = (if (u.clusterAt d).exch.any fun y => its y && all y then [.xmaxExchangeComplete d x.exch] else [])
              ++ s.agenda))
      ∧ ∀ (d m : Nat) (x : Exch), ((s.clusterAt d).exch.find? fun y => y.n == m) = some x →
        let e := { s with ev := .xmaxExchangeComplete d m }
        ∀ first, ((List.range 8).findSome? fun p => x.parts.find? fun z => z.1 == p) = some first →
          let gone (p : Nat) : Bool := s.killed (coreOf d p)
            || s.io.vacates.any fun v => decide (v.since < s.now) && inRect v.word0.toNat (coreOf d p)
          let value (p : Nat) : Nat := match x.parts.find? fun z => z.1 == p with
            | some z => if gone p then leastOf first.2.ty else z.2.value.toNat % 2 ^ first.2.ty.width
            | none => leastOf first.2.ty
          ∃ u, exec .xmaxExchangeComplete e = .next u ∧ u.mem = s.mem ∧ u.agenda = s.agenda
            ∧ (u.clusterAt d).exch = (s.clusterAt d).exch.filter (fun y => y.n != m)
            ∧ (∀ p < 8, (u.coreAt (coreOf d p)).xcount = m + 1 ∧ (u.coreAt (coreOf d p)).xpend = none)
            ∧ ∀ z ∈ x.parts, (u.thr z.2.core z.2.slot).reply = some (BitVec.ofNat 64
                (reduceTy first.2.ty true ((List.range 8).map value)).1))

/-- R92, R93, R322, R323, R324: a start of a channel that is not busy writes the channel's whole state; one of a busy
channel waits; operands that are not aligned raise ALIGN, own bytes that the protection unit refuses and a mirror word
outside the plain part LS_PROT. `cpwp` and `cpwait` read what was delivered, `dpat` takes effect at the group's end. A block
of a channel, of 64 bytes or a shorter last one: it is read from the local store, or as the owner's load, and
written there, or sent out as updates, or dealt under the pattern; then WP counts it and the mirror word follows. Bytes
that may not be read or written and a killed core stop the channel with ERR, a vacated core leaves the block pending. -/
def Obligations.CopyChannels : Prop :=
  ∀ (ty : Ty) (op : MOp) (trp : Bool) (a : CReg) (x b c d e : XReg) (imm : BitVec 18) (s : State),
    let n := s.cur.core
    let core := s.myCore
    let old := look core.chan a.toNat Chan.reset
    let len := (s.x d).toNat % 2 ^ 32
    let mirror : Option Word := if imm.getLsbD 0 then some (s.x e) else none
    let wpaddr := match mirror with
      | some v => v.toNat % 2 ^ 18
      | none => 2 ^ 18 - 1
    let mirrorOk (dest : Nat) : Prop := match mirror with
      | some v => v.toNat % 8 = 0 ∧ dest < 2304 ∧ v.toNat + 8 ≤ (s.coreAt dest).spbase.toNat
      | none => True
    let passes (at' k : Nat) (write : Bool) : Bool := core.lsOk s.me.cr.ctx at' k write
    let lowest (i : Instr) (at' : Nat) (write : Bool) : Prop := ∃ bad < len, Raises i s .lsProt (BitVec.ofNat 64 (at' + bad))
      ∧ (∀ j < bad, passes (at' + j) 1 write = true)
      ∧ (passes (at' + bad) 1 write = false ∨ bad = 0 ∧ ∀ j < len, passes (at' + j) 1 write = true)
    let starts (i : Instr) (own : List (Nat × Bool)) (dest kind code src dst : Nat) (wide t : Bool) : Prop :=
      let begun : Chan := { old with
        st := BitVec.ofNat 256 (kind * 2 ^ 253 + code * 2 ^ 246 + s.cur.slot * 2 ^ 242 + wpaddr * 2 ^ 224 + src * 2 ^ 128
          + dst * 2 ^ 64 + len * 2 ^ 32)
        run := old.dpat, unit := s.me.unit, ctx := s.me.cr.ctx, wide := wide, trp := t, launch := s.me.cr.launch, waits := none }
      (∀ p, (own.find? fun p => len != 0 && !passes p.1 len p.2) = some p → lowest i p.1 p.2)
      ∧ ((own.all fun p => len == 0 || passes p.1 len p.2) = true →
        (∀ v, mirror = some v → ¬ mirrorOk dest → Raises i s .lsProt v)
        ∧ (mirrorOk dest → old.busy = true → exec i s = .next (s.block (.channel a.toNat) 0))
        ∧ (mirrorOk dest → old.busy = false →
          Does i s { Effect.none s with core := { core with chan := put core.chan a.toNat begun } }))
    let odd (i : Instr) (k : Nat) (l : List Word) : Prop :=
      ∀ v, (l.find? fun v => v.toNat % k != 0) = some v → Raises i s .align v
    let even (k : Nat) (l : List Word) : Prop := ∀ v ∈ l, v.toNat % k = 0
    let l3 : List Word := [s.x c, s.x b, BitVec.ofNat 64 len]
    let coreIn (r : XReg) : Nat := (s.x r).toNat / 2 ^ 18 % 2 ^ 12
    let offIn (r : XReg) : Nat := (s.x r).toNat % 2 ^ 18
    let mine (r : XReg) (write : Bool) : List (Nat × Bool) := if coreIn r = n then [(offIn r, write)] else []
    odd (.cpyLl a b c d e imm) 4 l3 ∧ odd (.cpyGl a b c d e imm) 4 l3 ∧ odd (.cpyLg ty op trp a b c d e imm) ty.bytes l3
    ∧ odd (.cpyDist a c d e imm) 64 [s.x c, BitVec.ofNat 64 len]
    ∧ (even 4 l3 → starts (.cpyLl a b c d e imm) (mine c false ++ mine b true) (coreIn b) 1 0 ((s.x c).toNat % 2 ^ 30)
      ((s.x b).toNat % 2 ^ 30) false false)
    ∧ (even 4 l3 → starts (.cpyGl a b c d e imm) [((s.x b).toNat, true)] n 2 0 ((s.x c).toNat % 2 ^ 57) (n * 2 ^ 18 + offIn b)
      false false)
    ∧ (even ty.bytes l3 → starts (.cpyLg ty op trp a b c d e imm) [((s.x c).toNat, false)] n 3 op.code (n * 2 ^ 18 + offIn c)
      ((s.x b).toNat % 2 ^ 57) (ty.bytes == 8) trp)
    ∧ (even 64 [s.x c, BitVec.ofNat 64 len] → starts (.cpyDist a c d e imm) [] n 4 0 ((s.x c).toNat % 2 ^ 57) 0 false false)
    ∧ Gives (.cpwp x a) s x ((old.st.setWidth 32).setWidth 64)
    ∧ (old.busy = true → exec (.cpwait x a) s = .next (s.block (.channel a.toNat) 0))
    ∧ (old.busy = false → Gives (.cpwait x a) s x
        ((old.st.setWidth 32).setWidth 64 + if old.st.getLsbD 251 then 0x8000000000000000 else 0))
    ∧ (∃ v : Word, Does (.dpat a c) s { Effect.none s with writes := [(.dpat a.toNat, some (v.setWidth 2048))] }
        ∧ ∀ i < 64, v.getLsbD i = ((s.x c).getLsbD i && !decide (18 ≤ i ∧ i < 41)))
    ∧ ∀ (m j : Nat) (y : Chan), look (s.coreAt m).chan j Chan.reset = y →
      let ev := { s with ev := .copyBlockDelivery m j }
      let set (v : State) (f : Chan → Chan) : State := v.modChan m j f
      let bit (v : State) (k : Nat) : State := set v fun z => { z with st := z.st ||| BitVec.ofNat 256 (2 ^ k) }
      let start := set ev fun z => { z with waits := none }
      let coreOfWord (v : Nat) : Nat := v / 2 ^ 18 % 2 ^ 12
      let offOf (v : Nat) : Nat := v % 2 ^ 18
      let wp := y.wp
      let k := min 64 (y.len - wp)
      let passes (core at' k : Nat) (write : Bool) : Bool := (s.coreAt core).lsOk y.ctx at' k write
      let moved (v : State) (k : Nat) : State :=
        let v := set v fun z => { z with st := z.st + BitVec.ofNat 256 k }
        if y.wpaddr = 2 ^ 18 - 1 then v
        else v.chanWrite m y (if y.kind = 1 then coreOfWord y.dst else m) y.wpaddr (leBytes 8 (wp + k))
      let lands (v : State) (core at' : Nat) (bs : List Byte) : State :=
        if core ≠ m ∧ s.killed core = true then bit v 251
        else if core ≠ m ∧ s.vacated core = true then bit v 252
        else moved (v.chanWrite m y core at' bs) bs.length
      let answers (t : State) : Prop := exec .copyBlockDelivery ev = .next t
      let reads (place : State → List Byte → State) : Prop :=
        (∀ v bs, start.chanRead m j (y.src + wp) k = (v, some bs) → answers (place v bs))
        ∧ ∀ v, start.chanRead m j (y.src + wp) k = (v, none) → answers v
      (y.busy = false ∨ y.pendBit = true → exec .copyBlockDelivery ev = .next ev)
      ∧ (y.busy = true → y.pendBit = false →
        (y.kind = 1 →
          let p := coreOfWord y.src
          let q := coreOfWord y.dst
          if (p = m ∨ p < 2304 ∧ passes p (offOf y.src + wp) k false = true)
              ∧ (q = m ∨ q < 2304 ∧ passes q (offOf y.dst + wp) k true = true) then
            answers (lands start q (offOf y.dst + wp) (Memory.readN (s.coreAt p).ls (offOf y.src + wp) k))
          else answers (bit start 251))
        ∧ (y.kind = 2 → reads fun v bs => lands v m (offOf y.dst + wp) bs)
        ∧ (y.kind = 3 →
          let w := if y.wide then 8 else 4
          let l : List Elem := (List.range (k / w)).map fun i =>
            ((y.dst + wp + w * i) % 2 ^ 57, y.wide, leNat (Memory.readN (s.coreAt m).ls (offOf y.src + wp + w * i) w))
          (∀ v, start.emitChan m y l = some v → answers ((moved v k).stallFill m))
          ∧ (start.emitChan m y l = none → answers start))
        ∧ (y.kind = 4 →
          let field (lo n : Nat) : Nat := y.run.toNat / 2 ^ lo % 2 ^ n
          let size := 64 * if field 48 16 = 0 then 1 else field 48 16
          let cores := if field 44 4 = 0 ∨ 8 < field 44 4 then 8 else field 44 4
          let i := wp / size
          let q := coreOf (clusterOf m) ((field 41 3 + i % cores) % 8)
          let base := 64 * (field 0 18 / 64) + i / cores * size
          if passes q base (min size (y.len - i * size)) true = true then reads fun v bs => lands v q (base + wp % size) bs
          else answers (bit start 251)))
      ∧ (∀ va : Nat,
        let live := s.ownerLive m y
        let tasks := if live then s.tasksOf m y.oslot else []
        let token := if live then s.token m y.oslot else noTask
        let dws := ((List.range (k / 4)).map fun i => (va + 4 * i) % 2 ^ 57 / 8 * 8).eraseDups
        (∀ v ds, s.loadDwsOf m tasks y.ctx.toNat dws = (v, .ok ds) →
          let words := (List.range (k / 4)).map fun i => dwNum ds ((va + 4 * i) % 2 ^ 57) 4
          s.chanRead m j va k = if words.any Prod.snd then (bit v 251, none)
            else (v, some (words.flatMap fun g => leBytes 4 g.1)))
        ∧ (∀ v miss, s.loadDwsOf m tasks y.ctx.toNat dws = (v, .error miss) →
          (∀ cause lvl pte, miss.tr = .refused cause lvl pte → s.chanRead m j va k =
            (bit (v.postRefused cause 0 lvl miss.die token y.ctx.toNat miss.va pte) 251, none))
          ∧ (∀ lvl pte at', miss.tr = .absent lvl pte at' → s.chanRead m j va k =
            if miss.held = true ∨ v.waitRoom miss.die y.ctx.toNat miss.va = false then (v, none)
            else (set (v.waitOn miss.die y.ctx.toNat miss.va [.channel m j] (supWord 1 1 0 lvl miss.die token)
              (pte.toNat % 2 ^ 64)) fun z => { z with waits := some (miss.die, y.ctx.toNat, miss.va) }, none))))
      ∧ ∃ u, exec .copyPendResume { s with ev := .copyPendResume m j } = .next u ∧ u.agenda = s.agenda ∧ u.mem = s.mem
        ∧ ∃ z, look (u.coreAt m).chan j Chan.reset = { y with st := z }
          ∧ ∀ i < 256, z.getLsbD i = if i = 252 then false else y.st.getLsbD i

/-- R22, R142, R179, R325 to R328: a get or a put with a control word or a base that is no multiple raises ALIGN, one whose
local-store bytes the protection unit refuses LS_PROT with the lowest that fails. A get then notes each row it is owed and
asks for the rows in messages of at most 64 flits; a put starts its commit and, once that is prepared, sends each element
as one committed entry of no task, converted by its range entry for a faddx, which is awaited until it is
acknowledged. The messages of a paired unit join its window, those of another leave at once. -/
def Obligations.GetsAndPuts : Prop :=
  ∀ (ty : Ty) (op : MOp) (a b c d e : XReg) (s : State),
    let n := s.cur.core
    let k := s.cur.slot
    let ctl := (s.x d).toNat
    let part : BitVec 10 := BitVec.ofNat 10 (ctl / 2 ^ 54)
    let row := ctl / 2 ^ 16 % 2 ^ 16
    let count := ctl % 2 ^ 16
    let base := (s.x b).toNat % 2 ^ 57
    let ctx := s.me.cr.ctx
    let passes (at' k : Nat) (write : Bool) : Bool := s.myCore.lsOk ctx at' k write
    let lowest (i : Instr) (at' len : Nat) (write : Bool) : Prop :=
      ∃ bad < len, Raises i s .lsProt (BitVec.ofNat 64 (at' + bad))
        ∧ (∀ j < bad, passes (at' + j) 1 write = true)
        ∧ (passes (at' + bad) 1 write = false ∨ bad = 0 ∧ ∀ j < len, passes (at' + j) 1 write = true)
    let checks (i : Instr) (w : Nat) (write : Bool) (rest : Prop) : Prop :=
      if row < 4 ∨ 3584 < row ∨ row % w ≠ 0 then Raises i s .align (s.x d)
      else if (s.x b).toNat % w ≠ 0 then Raises i s .align (s.x b)
      else if count ≠ 0 ∧ passes (s.x a).toNat (count * row) write = false then lowest i (s.x a).toNat (count * row) write
      else if count ≠ 0 ∧ passes (s.x c).toNat (4 * count) false = false then lowest i (s.x c).toNat (4 * count) false
      else rest
    let index (i : Nat) : Nat := leNat (Memory.readN s.myCore.ls ((s.x c).toNat + 4 * i) 4)
    let ctr := min (s.x e).toNat (2 ^ 32 - 1)
    let ref (get : Bool) : Word := BitVec.ofNat 64 (get.toNat * 2 ^ 63 + ctx.toNat * 2 ^ 32 + ctr)
    let get' : Instr := .get a b c d e
    let put' : Instr := .put ty op a b c d e
    checks get' 4 true (
      let rows := (List.range count).map fun i => (index i, i)
      let u := (stretches 889 (count + 1) rows).foldl (fun (u : State) l =>
        let owed : List GetPend := l.map fun x =>
          ⟨part, n, k, (s.x a).toNat + x.2 * row, row, ref true, (base + x.1 * row) % 2 ^ 57⟩
        u.send n k (.outgoing ⟨part, 2, 1,
          getBody (ref true) ((s.x a).toNat + (l.headD (0, 0)).2 * row) row base (l.map Prod.fst), owed, [], none⟩) false) s
      DoesOver get' s u (Effect.none u))
    ∧ (s.phase = 0 → checks put' ty.bytes false (exec put' s = .next s.commitStart))
    ∧ (s.phase ≠ 0 →
      let w := ty.bytes
      let elems := (List.range count).flatMap fun i => (List.range (row / w)).map fun j =>
        ((base + index i * row + w * j) % 2 ^ 57, leNat (Memory.readN s.myCore.ls ((s.x a).toNat + i * row + w * j) w))
      let u := elems.foldl (fun (u : State) x =>
        let r := u.route ctx.toNat x.1
        let (val, psn, nx, cause) := if op.isFx then toWindow (w == 8) r.wexp x.2 else (BitVec.ofNat 128 x.2, false, false, 0)
        let entry : Entry :=
          { key := BitVec.ofNat 64 (ctx.toNat * 2 ^ 55 + x.1 / 4), op := op, w := decide (w = 8), tent := false, trp := false
            psn := psn, wexp := if op.isFx then r.wexp else 0, task := 0xFFFFFFFFFF, val := val, ord := BitVec.ofNat 2 r.ord
            units := [], age := u.now, mark := false }
        let u := if nx then u.orFlags Flags.nx else u
        let u := if cause = 0 then u else u.postMerge entry 0 cause 0 val s.me.cr.launch n
        let body := treeBytes entry ++ leBytes 8 (ref false).toNat ++ leBytes 16 0
        u.send n k (.outgoing ⟨part, 1, 1, body, [], [⟨part, n, k, s.me.cr.owner, body⟩], none⟩) false)
        (s.modMe fun t => { t with commit := .idle })
      DoesOver put' s u (Effect.none u))
    ∧ ∀ (u : State) (m : OutMsg), (u.thr n k).mate = none → m.spawn = none →
      u.send n k (.outgoing m) false =
        ({ u with io := { u.io with gets := u.io.gets ++ m.gets, puts := u.io.puts ++ m.puts } }).sendTo m.dest m.cls m.kind m.body

/-- R24, R114, R150, R178, R329, R330: `coll` with an aligned output that the protection unit allows reads its table as a
combining load, starts its collective, runs its steps up to the first message that has not come, and goes on; four
collectives of a core make it wait, a poisoned table raises POISON, and the partner of a pair leaves all to its primary. Steps
run in table order: one sends the bytes of the buffer, one combines or replaces them by a message that fits; a
reserved step, bytes that fail and a message of another length end the collective with bit 31. At its end the flag
word is written and the counter counts. A message is held in arrival order, its parts joined, and wakes the steps it
fits; one of a torn context is discarded, one for a killed core draws PADDOCK. -/
def Obligations.Collectives : Prop :=
  (∀ (ty : Ty) (op : MOp) (a b c d e f : XReg) (s : State),
    let i : Instr := .coll ty op a b c d e f
    let n := s.cur.core
    let out := (s.x f).toNat
    let passes (at' k : Nat) : Bool := s.myCore.lsOk s.me.cr.ctx at' k true
    let va := (s.x b).toNat % 2 ^ 57
    let table := s.collTable va
    let begun (steps : List (BitVec 128)) (u : State) : Coll :=
      { slot := s.cur.slot, unit := u.me.unit, ctx := u.me.cr.ctx, launch := u.me.cr.launch, id := (u.x e).setWidth 16, ty := ty
        op := op, buf := (u.x a).toNat, flag := (u.x c).setWidth 32
        ctr := min (u.x d).toNat (2 ^ 32 - 1), out := out, steps := steps }
    if out % 4 ≠ 0 then Raises i s .align (BitVec.ofNat 64 out)
    else if passes out 4 = false then
      ∃ bad < 4, Raises i s .lsProt (BitVec.ofNat 64 (out + bad)) ∧ (∀ j < bad, passes (out + j) 1 = true)
        ∧ (passes (out + bad) 1 = false ∨ bad = 0 ∧ ∀ j < 4, passes (out + j) 1 = true)
    else if 4 ≤ s.myCore.colls.length then exec i s = .next (s.block .collRoom 0)
    else
      (∀ u m, table = (u, .error m) → exec i s = .next (u.miss m))
      ∧ (∀ u steps bad, table = (u, .ok (steps, bad)) →
        match bad with
        | some bad => exec i s = .next (u.raise .poison (BitVec.ofNat 64 bad))
        | none =>
          if u.me.mate ≠ none ∧ u.me.primary = false then DoesOver i s u (Effect.none u)
          else
            let v := (u.modCore n fun x => { x with colls := x.colls ++ [begun steps u] }).collRun n s.cur.slot
            DoesOver i s v (Effect.none v))
      ∧ ∀ u hd, s.loadDws n s.cur.slot s.me.cr.ctx.toNat (dwsOf va 16 |>.map (· % 2 ^ 57)) = (u, .ok hd) →
        let rows := (List.range (dwNum hd va 2).1).map fun j => (va + 16 * (j + 1)) % 2 ^ 57
        ∀ v ds, u.loadDws n s.cur.slot s.me.cr.ctx.toNat (rows.flatMap fun r => dwsOf r 16 |>.map (· % 2 ^ 57)).eraseDups
            = (v, .ok ds) →
          (∀ j < 4, (dwNum hd (va + 4 * j) 4).2 = false) → (∀ r ∈ rows, ∀ j < 4, (dwNum ds (r + 4 * j) 4).2 = false) →
          table = (v, .ok (rows.map fun r => BitVec.ofNat 128 (dwNum ds r 16).1, none)))
  ∧ (∀ (m j : Nat) (x : Coll) (v : BitVec 128) (rest : List (BitVec 128)) (s : State),
      let core := s.coreAt m
      let field (lo n : Nat) : Nat := v.toNat / 2 ^ lo % 2 ^ n
      let peer := BitVec.ofNat 10 (field 118 10)
      let act := field 116 2
      let tag := BitVec.ofNat 16 (field 100 16)
      let off := x.buf + field 64 32
      let len := field 32 32
      let ok (write : Bool) : Bool := len == 0 || core.lsOk x.ctx off len write
      let old := Memory.readN core.ls off len
      let failed (u : State) (x : Coll) : CollRun := ⟨u, { x with steps := [], flag := x.flag ||| 0x80000000 }, false⟩
      let fits (y : CollMsg) : Bool := y.src == peer && y.ctx == x.ctx && y.id == x.id && y.tag == tag && y.whole
      let run := s.collSteps m x (v :: rest)
      let word (l : List Byte) (j : Nat) : Nat := leNat ((l.drop (x.ty.bytes * j)).take x.ty.bytes)
      (s.collSteps m x [] = ⟨s, { x with steps := [] }, false⟩)
      ∧ (act = 3 ∨ (act = 0 ∨ act = 1) ∧ ok false = false ∨ act ≠ 0 ∧ ok true = false → run = failed s x)
      ∧ (act = 0 → ok false = true → run = (s.collSend x v old).collSteps m x rest)
      ∧ (old.length ≤ 3568 → s.collSend x v old = s.sendTo peer 4 1 (leBytes 2 tag.toNat ++ leBytes 2 x.id.toNat
          ++ leBytes 4 x.flag.toNat ++ leBytes 2 x.ctx.toNat ++ [1, 0] ++ leBytes 4 old.length ++ old))
      ∧ (act = 1 ∧ ok false = true ∨ act = 2 → ok true = true →
        match s.io.collHeld.find? fits with
        | none => run = ⟨s, { x with steps := v :: rest }, true⟩
        | some y =>
          let u := { s with io := { s.io with collHeld := dropFirst fits s.io.collHeld } }
          let x' := { x with flag := x.flag ||| y.flag }
          let data := if act = 2 then y.data
            else (List.range (len / x.ty.bytes)).flatMap fun j =>
              leBytes x.ty.bytes (opValue x.op (x.ty.bytes == 8) (word old j) (word y.data j)).1
          if y.data.length = len then run = (u.bothLs m x.slot off data).collSteps m x' rest
          else run = failed u x')
      ∧ (core.colls = [x] → x.slot = j →
        let r := s.collSteps m x x.steps
        (r.st.coreAt m).colls = [x] → x.flag.getLsbD 31 = false →
        exec .collectiveReceiveStep { s with ev := .collectiveReceiveStep m j } =
            .next (({ s with ev := .collectiveReceiveStep m j } : State).collRun m j)
        ∧ s.collRun m j =
          if r.waits then r.st.modCore m fun z => { z with colls := [r.coll] }
          else ((r.st.modCore m fun z => { z with colls := [] }).bothLs m x.slot r.coll.out (leBytes 4 r.coll.flag.toNat)).push
            [.counterOperation ⟨r.coll.ctx, BitVec.ofNat 32 r.coll.ctr, .counted 1 (r.coll.flag.toNat / 2 ^ 31), noNode, 0⟩])
      ∧ ∀ (o : Nat) (bs : List Byte), let u := s.modCore m fun z => z.lsWrite o bs
        s.bothLs m j o bs = match (u.thr m j).mate with
          | some (q, l) => if (u.thr q l).mate = some (m, j) then u.modCore q fun z => z.lsWrite o bs else u
          | none => u)
  ∧ ∀ (s : State) (m : CollMsg),
    let e := { s with ev := .collectiveMessageArrival m }
    let same (y : CollMsg) : Bool := y.src == m.src && y.ctx == m.ctx && y.id == m.id && y.tag == m.tag
    let joins (y : CollMsg) : Bool := same y && !y.whole
    let dead := s.io.collDead.any (fun (n, c, i) => s.killed n && c == m.ctx && i == m.id)
      && !s.cores.any fun (_, c) => c.colls.any fun x => x.ctx == m.ctx && x.id == m.id
    if s.io.teardown.contains m.ctx.toNat = true then exec .collectiveMessageArrival e = .next e
    else if dead then
      exec .collectiveMessageArrival e = .next (e.sendTo m.src 3 4 (leBytes 8 (2 ^ 62 + m.ctx.toNat * 2 ^ 32 + m.id.toNat)
        ++ [0] ++ leBytes 2 s.io.partNo.toNat ++ leBytes 2 1))
    else
      let held := if s.io.collHeld.any joins then
          s.io.collHeld.map fun y => if joins y then
            { y with flag := y.flag ||| m.flag, whole := m.whole, data := y.data ++ m.data } else y
        else s.io.collHeld ++ [m]
      let wakes : List Ev := match held.reverse.find? same with
        | some y => s.cores.flatMap fun (n, c) => c.colls.filterMap fun x => match x.steps with
          | v :: _ => if y.src.toNat = v.toNat / 2 ^ 118 % 2 ^ 10 ∧ y.ctx = x.ctx ∧ y.id = x.id ∧ y.whole = true
              ∧ y.tag.toNat = v.toNat / 2 ^ 100 % 2 ^ 16 then some (.collectiveReceiveStep n x.slot) else none
          | [] => none
        | none => []
      exec .collectiveMessageArrival e = .next { e with io := { s.io with collHeld := held }, agenda := s.agenda ++ wakes }

/-- R23, R24, R63, R102, R128, R163, R166, R170, R178, R326 to R328: messages of other parts. A put update of an active context
enters its home yard and is acknowledged, one with a reserved field is recorded, that of another context draws CANCELLED. A
get request's rows are read as a window reads and sent in order; a refused or poisoned row draws its zeros, one whose
page is absent or held waits with the rest. A row that comes is written whole and counted, or draws PADDOCK. An
acknowledgement counts what was accepted; a message that failed counts one fault and what it carried, one that was
moved is sent again. A spawned record starts where its core can take it, is bounced or is cancelled, and its answer is the
result. -/
def Obligations.MessagesOfOtherParts : Prop :=
  ∀ (s : State) (src : BitVec 10),
    let at' (e : Ev) : State := { s with ev := e }
    let count (ref : Word) (n f : Nat) : Ev :=
      .counterOperation ⟨BitVec.ofNat 9 (ref.toNat / 2 ^ 32), BitVec.ofNat 32 ref.toNat, .counted n f, noNode, 0⟩
    let active (ctx : Nat) : Bool := (look s.io.ptbr ctx 0).getLsbD 63 && !s.io.teardown.contains ctx
    (∀ body : List Byte,
      let e := at' (.putUpdateReceive src body)
      let answers (t : State) : Prop := exec .putUpdateReceive e = .next t
      let num (lo n : Nat) : Nat := leNat ((body.drop lo).take n)
      let last := num 24 8
      let ref := BitVec.ofNat 64 (num 32 8)
      let ack (u : State) : State := u.sendTo src 3 2 (leBytes 8 ref.toNat ++ leBytes 4 1)
      if active (num 0 8 / 2 ^ 55) = false then
        answers (e.sendTo src 3 4 (leBytes 8 ref.toNat ++ [2] ++ leBytes 2 s.io.partNo.toNat ++ leBytes 2 1))
      else match opOf (last / 2 ^ 59 % 2 ^ 5) with
        | none => answers (ack (e.postReserved body))
        | some op =>
          if 2 ≤ last / 2 ^ 56 % 4 then answers (ack (e.postReserved body))
          else
            let r := s.route (num 0 8 / 2 ^ 55) (num 0 8 % 2 ^ 55 * 4)
            let x : Entry :=
              { key := BitVec.ofNat 64 (num 0 8), op := op, w := decide (last / 2 ^ 58 % 2 = 1), tent := false
                trp := decide (last / 2 ^ 55 % 2 = 1), psn := decide (last / 2 ^ 54 % 2 = 1), wexp := BitVec.ofNat 8 (last / 2 ^ 46)
                task := BitVec.ofNat 40 last, val := BitVec.ofNat 128 (num 8 16), ord := BitVec.ofNat 2 r.ord, units := []
                age := s.now, mark := false }
            answers (ack (e.push [.yardEntry r.home x 4])))
    ∧ (∀ (ref : Word) (off rowb base i : Nat) (rest : List Nat) (u : State),
      let serve (s : State) (l : List Nat) : State := s.serveRows src ref off rowb base l
      let ctx := ref.toNat / 2 ^ 32 % 2 ^ 9
      let va := (base + i * rowb) % 2 ^ 57
      let granules := (List.range (rowb / 4)).map fun j => (va + 4 * j) % 2 ^ 57
      let reads := s.windowDws ctx (granules.map fun a => a / 8 * 8).eraseDups .get
      let zeros (u : State) : State :=
        u.sendTo src 3 4 (leBytes 8 ref.toNat ++ [2] ++ leBytes 2 s.io.partNo.toNat ++ leBytes 2 0)
      let left := getBody ref off rowb base (i :: rest)
      (∀ body : List Byte,
        let e := at' (.getRequestServe src body)
        let num (lo n : Nat) : Nat := leNat ((body.drop lo).take n)
        match s.getWaits src with
        | some (die, w) => exec .getRequestServe e = .next (e.waitOn die w.ctx (w.page * 4096) [.get src body] 0 0)
        | none =>
          if s.getLater src then exec .getRequestServe e = .next { e with later := s.later ++ [.getRequestServe src body] }
          else exec .getRequestServe e = .next (e.serveRows src (BitVec.ofNat 64 (num 0 8)) (num 8 4) (num 12 2) (num 16 8)
            ((List.range (num 14 2)).map fun i => num (28 + num 24 4 * i) (num 24 4))))
      ∧ serve s [] = s
      ∧ (u.io.partNo = s.io.partNo →
        (∀ ds lost, reads = (u, .ok (ds, lost)) →
          serve s (i :: rest) = serve (if lost = true ∨ ∃ a ∈ granules, (dwNum ds a 4).2 = true then zeros u
            else u.sendTo src 3 1 (granules.flatMap fun a => leBytes 4 (dwNum ds a 4).1)) rest)
        ∧ ∀ m, reads = (u, .error m) →
          (∀ lvl pte at', m.tr = .absent lvl pte at' → serve s (i :: rest) =
            if m.held = true ∨ u.waitRoom m.die m.ctx m.va = false then
              { u with later := u.later ++ [.getRequestServe src left] }
            else u.waitOn m.die ctx m.va [.get src left] (supWord 1 1 3 lvl m.die noTask) (pte.toNat % 2 ^ 64))
          ∧ ∀ cause lvl pte, m.tr = .refused cause lvl pte →
            let v := u.postRefused cause 3 lvl m.die noTask ctx m.va pte
            v.io.partNo = s.io.partNo → serve s (i :: rest) = serve (zeros v) rest))
    ∧ (∀ g : GetRow,
      let e := at' (.getRowWrite g)
      let into (u : State) (n : Nat) : State := u.modCore n fun c =>
        { c with ls := Memory.writeN c.ls g.offset (g.data.take (2 ^ 18 - g.offset)) }
      exec .getRowWrite e = .next (
        if s.killed g.core then
          (e.sendTo g.part 3 4 (leBytes 8 g.ref.toNat ++ [0] ++ leBytes 2 s.io.partNo.toNat ++ leBytes 2 1)).push
            [count g.ref 1 1]
        else (match (into e g.core).mateAt g.core g.slot with
          | some (m, _) => into (into e g.core) m
          | none => into e g.core).push [count g.ref 1 g.refused.toNat]))
    ∧ (∀ (ref : Word) (n : BitVec 32), let e := at' (.putAckReceive src ref n)
      exec .putAckReceive e = .next { e with
        io := { s.io with puts := dropFirst (fun r => r.part == src && putRef r.body == ref) s.io.puts }
        agenda := s.agenda ++ [count ref n.toNat 0] })
    ∧ (∀ (ref : Word) (cause : NackCause),
      let e := at' (.negativeAckReceive src ref cause)
      let carried := ref.toNat / 2 ^ 48 % 2 ^ 12
      let plain : Word := ref &&& 0xF000FFFFFFFFFFFF
      let get : Bool := ref.getLsbD 63
      let mine (r : PutPend) : Bool := r.part == src && putRef r.body == plain
      let owed (g : GetPend) : Bool := g.part == src && g.ref == plain
      let answers (t : State) : Prop := exec .negativeAckReceive e = .next t
      (cause ≠ .moved →
        answers (if get then (if cause = .paddock then e else e.push [count plain carried 1])
          else { e with io := { s.io with puts := dropFirst mine s.io.puts }, agenda := s.agenda ++ [count plain 1 1] }))
      ∧ (cause = .moved → get = false → answers (match s.io.puts.find? mine with
        | some r => ({ e with io := { s.io with puts := dropFirst (fun x => x == r) s.io.puts ++ [r] } }).sendTo src 1 1 r.body
        | none => e))
      ∧ (cause = .moved → get = true → answers (e.resendRows src plain carried))
      ∧ e.resendRows src plain 0 = e
      ∧ ∀ k : Nat, e.resendRows src plain (k + 1) = match s.io.gets.find? owed with
        | some g => ((e.modIo fun io => { io with gets := dropFirst owed io.gets ++ [g] }).sendTo src 2 1
            (getBody g.ref g.off g.len g.va [0])).resendRows src plain k
        | none => e)
    ∧ (∀ m : SpawnMsg,
      let e := at' (.spawnArrival m)
      let r := m.record
      let answers (t : State) : Prop := exec .spawnArrival e = .next t
      let answer (u : State) (v : Nat) : State := u.sendTo m.src 3 3 (leBytes 8 v)
      let fits : Bool := s.placeable m.target && decide (8 ≤ r.xcount.toNat) && decide (r.xcount.toNat ≤ 64) && s.slotFor m.target r
      if s.turn ≠ 0 then answers { e with later := e.later ++ [.spawnArrival m] }
      else if active r.ctx.toNat = false then answers (answer e 2)
      else if fits = false then answers (answer e 1)
      else
        let reach := e.ctrReach r.ctx.toNat r.launch.toNat
        if reach.2 = false then answers { reach.1 with later := reach.1.later ++ [.spawnArrival m] }
        else
          let u := reach.1.counterOp ctrFuel ⟨r.ctx, r.launch, .target, noNode, 0⟩
          answers (answer (if u.cancelled r then
            (if u.io.teardown.contains r.ctx.toNat then u
              else u.push [.counterOperation ⟨r.ctx, r.launch, .ended true, r.node, r.queue⟩])
            else (u.grant m.target r).1) 0))
    ∧ ∀ (status : BitVec 64),
      let e := at' (.spawnAnswerReceive src status)
      match s.io.spawns.find? fun x => x.1 == src with
      | none => exec .spawnAnswerReceive e = .next e
      | some (_, n, k) =>
        let u := ({ e with io := { s.io with spawns := dropFirst (fun x => x.1 == src) s.io.spawns } }).answer n k status
        let cr := (s.thr n k).cr
        exec .spawnAnswerReceive e = .next (
          if status = 2 ∧ s.io.teardown.contains cr.ctx.toNat = false then
            u.push [.counterOperation ⟨cr.ctx, cr.launch, .cancels, noNode, 0⟩]
          else u)
        ∧ (s.mateAt n k = none → u.thr n k = { s.thr n k with reply := some status })

/-- R45, R50, R54, R62, R69, R72, R91, R129, R145, R336, R339: a suspension moves its unit's updates out, lets the yards apply
them and waits for both. Then a pending MERGE_OP, or else a pending GUARD, is delivered first, outside a trap handler. Otherwise
the slot is freed, or kept out of the rotation by `wfw` on a core that is not vacated, and the primary's resume record goes
where each says: counted as done, into its queue, or to its counter, or counted as ended where it is cancelled or its
queue does not take it. `lend` sets the mark and goes on. -/
def Obligations.Suspensions : Prop :=
  ∀ (b : XReg) (s : State),
    let n := s.cur.core
    let k := s.cur.slot
    let t := s.me
    let r := t.resume
    let counter := (s.x b).setWidth 32
    let left := s.freeSlot n k
    let kept := s.leaveSlot n k true
    let torn : Bool := s.io.teardown.contains r.ctx.toNat
    let counts (u : State) (act : CtrAct) : State :=
      if torn then u else u.push [.counterOperation ⟨r.ctx, r.launch, act, r.node, r.queue⟩]
    let q := r.queue.toNat
    let inCtx : Bool := (look s.io.queues q Queue.reset).v && (look s.io.queues q Queue.reset).ctx == r.ctx
    let yields (u : State) : State :=
      if torn then u
      else if !inCtx then counts u (.ended false)
      else if u.noRoom q then counts (u.dropInsert q) (.ended false)
      else u.poolPlace q r
    let ends (u : State) (whole : State → State) : State := if t.mate ≠ none ∧ t.primary = false then u else whole u
    let due : Option (Cause × Word × Thread) :=
      if t.intrap then none
      else match t.mergePend with
        | some x => some (.mergeOp, BitVec.ofNat 64 x, { t with mergePend := none, heldLate := t.heldLate.filter (· != .mergeOp) })
        | none =>
          if t.guard.pending then some (.guard, BitVec.ofNat 64 (t.guard.bank.toNat * 2 ^ 32 + t.guard.off.toNat),
            { t with guard := Guard.clear, heldLate := t.heldLate.filter (· != .guard) })
          else none
    let moved := s.releaseMoves n k .device true
    let all : List Instr := [.done, .yield, .wfw, .ctwait b]
    (s.phase = 1 → ∀ i ∈ all, exec i s = .next ((s.modMe fun t => { t with commit := .idle }).block .flipped 2))
    ∧ (s.phase = 2 ∨ s.phase = 3 → ∀ i ∈ all, exec i s = .next (
        if moved.unitInRuns n k true then moved.block .shedClear 3
        else ((moved.modMe fun t => { t with applyOut := 4 }).push
          ([0, 1, 2, 3].map fun d => .releaseApply d moved.me.cr.owner n k)).block .applied 5))
    ∧ (5 ≤ s.phase → match due with
      | some (cause, v, u) => ∀ i ∈ all, exec i s = .next ((s.modMe fun _ => u).takeTrap n k ⟨cause, true, v, t.pc⟩)
      | none =>
        exec .done s = .next (ends left fun u => counts u .done)
        ∧ exec .yield s = .next (ends left fun u => if t.cancelled then counts u (.ended true) else yields u)
        ∧ exec (.ctwait b) s = .next (ends left fun u =>
            if t.cancelled then counts u (.ended true)
            else if counter.toNat < (look s.io.ctabLen r.ctx.toNat 0).toNat then
              u.push [.counterOperation ⟨r.ctx, counter, .wait r, noNode, 0⟩]
            else yields u)
        ∧ exec .wfw s = .next (ends (if s.vacated n then left else kept) fun u => counts u .done))
    ∧ left.thr n k = Thread.reset ∧ left.mem = s.mem ∧ left.io = s.io ∧ (∀ j, j ≠ k → left.thr n j = s.thr n j)
    ∧ (s.vacated n = false → kept.mem = s.mem ∧ kept.io = s.io ∧
      let u := kept.thr n k
      u.status = .wfw ∧ u.wait = .none ∧ u.blocked = none ∧ u.pend = [] ∧ u.long = false ∧ u.s = [] ∧ u.mate = none
        ∧ u.xbase = t.xbase ∧ u.xcount = t.xcount ∧ u.cr = t.cr)
    ∧ Does .lend s { Effect.none s with thread := { t with lend := true } }

/-- R22, R50, R54, R63, R145, R179, R337, R338: `post` and `spawn` check their image, move the unit's updates out, let the
yards apply them, and then send the record to the I/O die or to its core and wait; a pair posts once, and a pair's spawn joins
its closing window. The answer is the result, and the resume record holds it. A post is decided in one step: 2 in a
teardown, 3 for a queue that refuses it, 4 for one without room, counted, and 0 with the record placed after TARGET + 1,
for which it waits while the counter's page is not there; it is decided when the cores have had their turns of the cycle
(R70, R351; log 43). -/
def Obligations.PostsAndSpawns : Prop :=
  ∀ (a b c : XReg) (s : State),
    let n := s.cur.core
    let k := s.cur.slot
    let t := s.me
    let off := (s.x b).toNat
    let image := recordOf (leNat (Memory.readN s.myCore.ls off 64))
    let passes (at' k : Nat) : Bool := s.myCore.lsOk t.cr.ctx at' k false
    let child : Record := { image with pin := false, ctx := t.cr.ctx }
    let waits (s : State) : State := (s.modMe fun t => { t with reply := none }).block .reply 9
    let part := BitVec.ofNat 10 ((s.x c).toNat / 2 ^ 12)
    let ans := t.reply.getD 0
    let moved := s.releaseMoves n k .device false
    let both : List Instr := [.post a b c, .spawn a b c]
    (s.phase = 0 → ∀ i ∈ both,
      if off % 64 ≠ 0 then Raises i s .align (BitVec.ofNat 64 off)
      else if passes off 64 then exec i s = .next s.commitStart
      else ∃ bad < 64, Raises i s .lsProt (BitVec.ofNat 64 (off + bad)) ∧ (∀ j < bad, passes (off + j) 1 = true)
        ∧ (passes (off + bad) 1 = false ∨ bad = 0 ∧ ∀ j < 64, passes (off + j) 1 = true))
    ∧ (s.phase = 1 → ∀ i ∈ both, exec i s = .next ((s.modMe fun t => { t with commit := .idle }).block .flipped 2))
    ∧ (s.phase = 2 ∨ s.phase = 3 → ∀ i ∈ both, exec i s = .next (
        if moved.unitInRuns n k false then moved.block .shedClear 3
        else ((moved.modMe fun t => { t with applyOut := 4 }).push
          ([0, 1, 2, 3].map fun d => .releaseApply d moved.me.cr.owner n k)).block .applied 5))
    ∧ (5 ≤ s.phase → s.phase < 9 →
      exec (.post a b c) s = .next (
        if t.mate ≠ none ∧ t.primary = false then waits s
        else if s.mateWaits t = false then s.block .fenceTurn s.phase
        else ((s.modMe fun t => { t with reply := none }).push
          [.postArrival n k ((s.x c).toNat % 2 ^ 12) { image with pin := false }]).block .reply 9)
      ∧ exec (.spawn a b c) s = .next (((waits s).send n k (.outgoing ⟨part, 2, 2,
          leBytes 64 (recordNum child) ++ leBytes 8 ((s.x c).toNat % 2 ^ 12), [], [], some (n, k)⟩) false).closeWindow n k)
      ∧ ∀ m : OutMsg, t.mate = none → m.spawn = some (n, k) → m.gets = [] → m.puts = [] →
        (waits s).send n k (.outgoing m) false = ({ waits s with
          io := { s.io with spawns := s.io.spawns ++ [(m.dest, n, k)] } }).sendTo m.dest m.cls m.kind m.body)
    ∧ (9 ≤ s.phase → ∀ i ∈ both,
      let r : Record := { t.cr with
        pc := s.nextPc
        arg1 := if s.destX a = .x 1 then ans else s.argNow n k 1
        arg2 := if s.destX a = .x 2 then ans else s.argNow n k 2
        arg3 := if s.destX a = .x 3 then ans else s.argNow n k 3
        arg4 := if s.destX a = .x 4 then ans else s.argNow n k 4
        arg5 := if s.destX a = .x 5 then ans else s.argNow n k 5 }
      (t.mergePend = none → Does i s { Effect.none s with
        thread := { t with reply := none, resume := r }, writes := [(s.destX a, some (ans.setWidth 2048))] })
      ∧ ∀ x, t.mergePend = some x → exec i s = .next
          ((s.takeAnswer a).retire.dueLate ⟨.mergeOp, true, BitVec.ofNat 64 x, s.nextPc⟩) ∧ (s.takeAnswer a).me.resume = r)
    ∧ ∀ (m j q : Nat) (r : Record),
      let e := { s with ev := .postArrival m j q r }
      let ctx := (s.thr m j).cr.ctx
      let qr := look s.io.queues q Queue.reset
      let answers (t : State) : Prop := exec .postArrival e = .next t
      if s.turn ≠ 0 then answers { e with later := e.later ++ [.postArrival m j q r] }
      else if s.io.teardown.contains ctx.toNat = true then answers (e.answer m j 2)
      else if qr.v = false ∨ qr.ctx ≠ ctx then answers (e.answer m j 3)
      else if s.noRoom q = true then
        answers (({ e with io := { s.io with
          queues := put s.io.queues q { qr with drops := BitVec.ofNat 16 (min (qr.drops.toNat + 1) 0xFFFF) } } }).answer m j 4)
      else
        let reach := e.ctrReach ctx.toNat r.launch.toNat
        if reach.2 = false then answers { reach.1 with later := reach.1.later ++ [.postArrival m j q r] }
        else answers (((reach.1.counterOp ctrFuel ⟨ctx, r.launch, .target, noNode, 0⟩).poolPlace q { r with ctx := ctx }).answer m j 0)

/-- R46, R48, R49, R50, R51, R63, R69, R139, R166, R170, R339: the counter instructions are strongly ordered: the commit,
complete, then, pinned, the operation, which a pair sends once and which is acknowledged, or the read, which gives all ones
beyond the table. An operation at its counter changes the entry as it says; where that makes COUNT equal TARGET, it counts in the
parent, completes its node and wakes the waits; then it evaluates the watches. A cancel is told to the clusters and the pool;
a wait whose counter is complete goes back to its queue. One of a context in teardown or of no counter does nothing, one
whose page is absent or frozen waits, a refused one is recorded. -/
def Obligations.CompletionCounters : Prop :=
  ∀ (a b c d : XReg) (s : State),
    let n := s.cur.core
    let k := s.cur.slot
    let ctx := s.me.cr.ctx
    let i := (s.x b).toNat % 2 ^ 32
    let pinned : Thread := { s.me with pin := true }
    let copy : Bool := s.me.mate.isSome && !s.me.primary
    let length (ctx : Nat) : Nat := (look s.io.ctabLen ctx 0).toNat
    let sends (act : CtrAct) : Effect := if copy then { Effect.none s with thread := pinned } else
      { Effect.none s with
        thread := { pinned with sosOut := s.me.sosOut + 1 }
        events := [.counterOperation ⟨ctx, (s.x b).setWidth 32, act, noNode, 0⟩, .sosAcknowledge n k s.me.cr.owner true] }
    (s.phase = 1 → ∀ j ∈ [Instr.ctadd b c d, .ctcancel b, .ctread a b c],
      exec j s = .next ((s.modMe fun t => { t with commit := .idle }).block .flipped 2))
    ∧ (1 < s.phase →
      Does (.ctadd b c d) s (sends (.add ((s.x c).setWidth 32) ((s.x d).setWidth 32))) ∧ Does (.ctcancel b) s (sends .cancel)
      ∧ (length ctx.toNat ≤ i → Does (.ctread a b c) s { Effect.none s with
          thread := pinned, writes := [(s.destX a, some ((BitVec.allOnes 64).setWidth 2048))] })
      ∧ (i < length ctx.toNat →
        let va := (look s.io.ctabBase ctx.toNat 0).toNat + 16 * i + if (s.x c).getLsbD 0 then 0 else 8
        let reads := (s.modMe fun t => { t with pin := true }).loadDws n k ctx.toNat ((dwsOf va 8).map fun x => x % 2 ^ 57)
        (∀ u m, reads = (u, .error m) → exec (.ctread a b c) s = .next (u.miss m))
        ∧ ∀ u ds, reads = (u, .ok ds) → DoesOver (.ctread a b c) s u { Effect.none u with
            writes := [(u.destX a, some (BitVec.ofNat 2048 ((dwNum ds (va % 2 ^ 57) 8).1 % 2 ^ 64)))] }))
    ∧ ∀ op : CtrOp,
      let e := { s with ev := .counterOperation op }
      let ctx := op.ctx.toNat
      let j := op.index.toNat
      let va := (look s.io.ctabBase ctx 0).toNat + 16 * j
      let die := (s.route ctx va).home
      let moved := e.xlate die ctx va .wr
      let u := moved.1
      let answers (t : State) : Prop := exec .counterOperation e = .next t
      let plus (n k cap : Nat) : Nat := min (n + k) cap
      let step (old : Ctr) : Ctr :=
        let add (count faults cancels : Nat) : Ctr := { old with
          count := old.count + BitVec.ofNat 32 count, faults := plus old.faults faults 0xFFFF
          cancels := plus old.cancels cancels 0x7FFF }
        match op.act with
        | .add x y => { old with count := old.count + x, target := old.target + y }
        | .done => add 1 0 0
        | .ended true => add 1 0 1
        | .ended false => add 1 1 0
        | .target => { old with target := old.target + 1 }
        | .faults n => add 0 n 0
        | .cancels => add 0 0 1
        | .counted n f => add n f 0
        | .cancel => { old with can := true }
        | .propagate f k => add 1 f k
        | .wait _ => old
        | .ready u => { old with count := 0, target := u, can := false, faults := 0, cancels := 0 }
      let old := u.readCtr ctx j
      let new := step old
      let image := new.target.toNat * 2 ^ 96 + new.count.toNat * 2 ^ 64 + new.can.toNat * 2 ^ 63 + new.cancels * 2 ^ 48
        + new.faults * 2 ^ 32 + new.parent
      let kept := if new = old then u else u.engStore ctx va image 4
      let acted := match op.act with
        | .wait r =>
          if old.count = old.target then (if kept.cancelled r then kept.unitEnd r (.ended true) else kept.insertHeld r)
          else { kept with io := { kept.io with waitRecs := kept.io.waitRecs ++ [(ctx, j, r)] } }
        | .ready v => kept.nodeReady op v.toNat
        | .cancel =>
          let told := kept.push (kept.cancelEvents ctx j)
          { told with io := { told.io with
            pool := told.io.pool.map fun p => if told.cancelled p.cr then { p with cancelSeen := true } else p } }
        | _ => kept
      let full :=
        let up := if new.parent = 0xFFFFFFFF then acted
          else State.counterOp (2 ^ 32 - 1) ⟨op.ctx, BitVec.ofNat 32 new.parent, .propagate new.faults new.cancels, noNode, 0⟩ acted
        let node := if op.node = noNode then up else up.nodeDone op
        (node.wakeWaits ctx j).closePhase ctx j
      if s.io.teardown.contains ctx = true then answers e
      else if length ctx ≤ j then answers (match op.act with
        | .ready v => e.nodeReady op v.toNat
        | _ => e)
      else if (u.dieAt die).isFrozen ctx va = true then answers { u with later := u.later ++ [.counterOperation op] }
      else match moved.2 with
        | .absent lvl pte _ => answers (
            if u.waitRoom die ctx va = false then { u with later := u.later ++ [.counterOperation op] }
            else u.waitOn die ctx va [.counter op] (supWord 1 1 1 lvl die noTask) (pte.toNat % 2 ^ 64))
        | .refused cause lvl pte => answers
            ((u.postRefused cause 1 lvl die noTask ctx va pte).postUnit (repGranule ctx va 0) 3 5 0 0)
        | .ok _ _ _ _ =>
          if op.act = .cancels ∧ old.parent < length ctx then
            answers (State.counterOp (2 ^ 32 - 1) { op with index := BitVec.ofNat 32 old.parent } u)
          else answers ((if (new.count ≠ old.count ∨ new.target ≠ old.target) ∧ new.count = new.target then full
            else acted).watchCtr ctx j)

/-- R44, R51, R95, R128, R139, R178, R179, R335, R340: `msend` after its commit's prepare leaves its message in the outbox and
sends it, then ends its commit once the router has it. `mrecv` takes the oldest message of the mailboxes it names, the
high one first, into the local store, and waits without one. A message is taken where there is room, refused by a full or
vacated core and sent again, and discarded for a killed core or none, with PADDOCK due; a full mailbox refuses it when the
cores have had their turns of the cycle (R351; log 43). `fqrd`, strongly ordered, takes one
record of the context's fault queue, or all ones from an empty one, and waits for the queue's pages. A pair does each
once, and both copies have the result. -/
def Obligations.MailboxesAndFaultQueue : Prop :=
  ∀ (a b c d : XReg) (s : State),
    let n := s.cur.core
    let k := s.cur.slot
    let core := s.myCore
    let off (r : XReg) : Nat := (s.x r).toNat
    let m : MailMsg :=
      { target := (s.x b).toNat % 2 ^ 12, low := (s.x d).getLsbD 0
        data := BitVec.ofNat 512 (leNat (Memory.readN core.ls (off c) 64)), core := n, slot := k, ctx := s.me.cr.ctx }
    let idle := s.modMe fun t => { t with commit := .idle }
    let copy : Bool := s.me.mate.isSome && !s.me.primary
    let leads (u : State) (act : State) : State :=
      if copy then (u.modMe fun t => { t with reply := none }).block .reply 9
      else if s.mateWaits s.me = false then u.block .fenceTurn s.phase
      else act
    (s.phase ≠ 0 → s.phase ≠ 2 → exec (.msend b c d) s = .next
      ((((idle.modMyCore fun x => { x with outbox := x.outbox ++ [m] }).block .mailSent 2).send n k (.event
        (leBytes 64 m.data.toNat ++ leBytes 2 m.target ++ leBytes 1 m.low.toNat) (.mailboxArrival m)) false).closeWindow n k))
    ∧ (∀ (u : State) (bytes : List Byte) (e : Ev), (u.thr n k).mate = none →
      u.send n k (.event bytes e) false = { u with agenda := u.agenda ++ [e] })
    ∧ (s.phase = 2 → exec (.msend b c d) s = .next s.commitLast.retire)
    ∧ (s.phase ≠ 0 → s.phase < 9 →
      let mask := if (s.x c).toNat % 4 = 0 then 3 else (s.x c).toNat % 4
      let hi := if mask % 2 = 1 then core.mboxHi else []
      let lo := if 2 ≤ mask then core.mboxLo else []
      exec (.mrecv a b c) s = .next (leads idle (match hi ++ lo with
        | [] =>
          let u := idle.block (.mailbox mask) 2
          if s.me.cancelled then u.push [.taskAbort n k .cancel] else u
        | x :: _ =>
          let word : Word := BitVec.ofNat 64 (x.low.toNat * 2 ^ 24 + x.ctx.toNat * 2 ^ 12 + x.core)
          let taken := idle.modMyCore fun y =>
            if x.low then { y with mboxLo := y.mboxLo.tail } else { y with mboxHi := y.mboxHi.tail }
          let u := (taken.bothLs n k (off b) (leBytes 64 x.data.toNat)).answer n k word
          ((u.wx a (u.me.reply.getD 0)).modMe fun t => { t with reply := none }).resumeResult.commitLast.retire)))
    ∧ (9 ≤ s.phase → exec (.mrecv a b c) s = .next
      ((s.wx a (s.me.reply.getD 0)).modMe fun t => { t with reply := none }).resumeResult.commitLast.retire)
    ∧ (∀ y : MailMsg,
      let e := { s with ev := .mailboxArrival y }
      let answers (t : State) : Prop := exec .mailboxArrival e = .next t
      let there : Bool := (s.coreAt y.core).outbox.any fun z => z.slot == y.slot
      let without (u : State) (n k : Nat) : State :=
        u.modCore n fun z => { z with outbox := dropFirst (fun w => w.slot == k) z.outbox }
      let gone := match s.mateAt y.core y.slot with
        | some (p, q) => without (without e y.core y.slot) p q
        | none => without e y.core y.slot
      let box := if y.low then (s.coreAt y.target).mboxLo else (s.coreAt y.target).mboxHi
      if there = false then answers e
      else if 2304 ≤ y.target ∨ s.killed y.target = true then
        answers (gone.modThr y.core y.slot fun t => { t with padPend := t.padPend.or (some y.target) })
      else if s.vacated y.target = false ∧ 32 ≤ box.length ∧ s.turn ≠ 0 then answers { e with later := e.later ++ [.mailboxArrival y] }
      else if s.vacated y.target = true ∨ 32 ≤ box.length then
        let held := e.modThr y.core y.slot fun t => { t with wait := if t.wait = .mailSent then .mailFull else t.wait }
        answers (if (s.thr y.core y.slot).cancelled then held.push [.taskAbort y.core y.slot .cancel] else held)
      else answers (gone.modCore y.target fun z =>
        if y.low then { z with mboxLo := z.mboxLo ++ [y] } else { z with mboxHi := z.mboxHi ++ [y] }))
    ∧ (∀ p q : Nat, let e := { s with ev := .mailboxRetry p q }
      exec .mailboxRetry e = .next (match (s.coreAt p).outbox.find? fun z => z.slot == q with
        | some y => e.push [.mailboxArrival y]
        | none => e))
    ∧ (s.phase = 1 → exec (.fqrd a b) s = .next (idle.block .flipped 2))
    ∧ (1 < s.phase → s.phase < 9 →
      let ctx := s.me.cr.ctx.toNat
      let p := s.modMe fun t => { t with pin := true }
      let gives (u : State) (v : Word) : State :=
        (((u.answer n k v).wx a v).modMe fun t => { t with reply := none }).retire
      ∀ u at', p.fqStep ctx = (u, at') → exec (.fqrd a b) s = .next (leads p (match at' with
        | .miss m => u.miss m
        | .empty => gives u (BitVec.allOnes 64)
        | .record head place =>
          let word (j : Nat) : Nat := u.engNum ctx (place + 8 * j) 8
          gives ((u.bothLs n k (off b) ((List.range 8).flatMap fun j => leBytes 8 (word j))).engStore ctx
            (look u.io.fqBase ctx 0).toNat ((head + 1) % 2 ^ 64) 2) (BitVec.ofNat 64 (word 7)))))
    ∧ (9 ≤ s.phase → Does (.fqrd a b) s { Effect.none s with
        thread := { s.me with reply := none }, writes := [(s.destX a, some ((s.me.reply.getD 0).setWidth 2048))] })
    ∧ ∀ ctx : Nat, let base := (look s.io.fqBase ctx 0).toNat
      (base = 0 → s.fqStep ctx = (s, .empty))
      ∧ (base ≠ 0 → (∀ m u, s.fqReach ctx base = (u, some m) → s.fqStep ctx = (u, .miss m))
        ∧ ∀ u, s.fqReach ctx base = (u, none) →
          let head := u.engNum ctx base 8
          let tail := u.engNum ctx (base + 8) 8
          let len := u.engNum ctx (base + 16) 8
          let place := base + 64 + 64 * (head % len)
          if len < 16 ∨ 2 ^ 20 < len ∨ 2 ^ len.log2 ≠ len ∨ tail = head then s.fqStep ctx = (u, .empty)
          else s.fqStep ctx = match u.fqReach ctx place with
            | (v, some m) => (v, .miss m)
            | (v, none) => (v, .record head place))

/-- R44, R52, R53, R57, R69, R88, R89, R91, R103, R110, R116, R128, R129, R142, R157, R161 to R167, R170, R171, R176, R177, R349,
R350: each of the 26 supervisor operations is a release of device scope, with the commit, the moves and the yards' application
waited for in turn. Then it takes effect, once for a pair, and goes on: it writes what its row names, of fields that are not
reserved, or starts what its row starts. A pending MERGE_OP is delivered after it, with TEPC at the next instruction. -/
def Obligations.SupervisorOperations : Prop :=
  ∀ (b c d : XReg) (s : State),
    let n := s.cur.core
    let k := s.cur.slot
    let img := ((s.cur.iss.vs.head?.map Prod.snd).getD 0).toNat
    let xb := (s.x b).toNat
    let xc := (s.x c).toNat
    let xd := (s.x d).toNat
    let ctx := xb % 2 ^ 9
    let q := xb % 2 ^ 12
    let page := xc % 2 ^ 57
    let all : List Instr :=
      [.svCtab b c d, .svQrec b c, .svQprio b c, .svGstart b c, .svTeardown b, .svRht b c, .svDph b c, .svPtbr b c, .svPtw b c,
        .svTinv b c, .svPres b c, .svPref b c, .svMigr b c d, .svHint b c d, .svFq b c d, .svSfq b c, .svFlue c, .svVac c d,
        .svVrel b, .svPdk b c, .svKill b, .svPrel b, .svLspr b c d, .svSpb b c, .svHtab b c d, .svYov b c d]
    let moved := s.releaseMoves n k .device false
    (s.phase = 1 → ∀ i ∈ all, exec i s = .next ((s.modMe fun t => { t with commit := .idle }).block .flipped 2))
    ∧ (s.phase = 2 ∨ s.phase = 3 → ∀ i ∈ all, exec i s = .next (
        if moved.unitInRuns n k false then moved.block .shedClear 3
        else ((moved.modMe fun t => { t with applyOut := 4 }).push
          ([0, 1, 2, 3].map fun d => .releaseApply d moved.me.cr.owner n k)).block .applied 5))
    ∧ (5 ≤ s.phase →
    let copy : Bool := s.me.mate.isSome && !s.me.primary
    let ends (i : Instr) (v : State) : Prop :=
      (v.me.mergePend = none → DoesOver i s v (Effect.none v))
      ∧ ∀ x, v.me.mergePend = some x → exec i s = .next (v.retire.dueLate ⟨.mergeOp, true, BitVec.ofNat 64 x, v.nextPc⟩)
    let does (i : Instr) (u : State) : Prop := ends i (if copy then s else u)
    let io (i : Instr) (f : Io → Io) : Prop := does i (s.modIo f)
    let queue (i : Instr) (f : Queue → Queue) (go : State → State) : Prop :=
      does i (go (s.modIo fun io => { io with queues := put io.queues q (f (look io.queues q Queue.reset)) }))
    let keep (v lo n : Nat) : Nat := v / 2 ^ lo % 2 ^ n * 2 ^ lo
    let gone (x : Nat × Kept) : Bool := x.1 / 2 ^ 45 == ctx
    io (.svCtab b c d) (fun io => { io with
      ctabBase := put io.ctabBase ctx (BitVec.ofNat 64 (keep xc 4 53)), ctabLen := put io.ctabLen ctx (s.x d) })
    ∧ queue (.svQrec b c) (fun x => { x with
        ntab := BitVec.ofNat 52 (img / 2 ^ 196 % 2 ^ 48 * 16), ptab := BitVec.ofNat 52 (img / 2 ^ 129 % 2 ^ 51 * 2)
        dmax := BitVec.ofNat 16 (img / 2 ^ 96), plog := BitVec.ofNat 5 (img / 2 ^ 64), v := decide (img / 2 ^ 63 % 2 = 1)
        en := decide (img / 2 ^ 62 % 2 = 1), pair := decide (img / 2 ^ 61 % 2 = 1), ctx := BitVec.ofNat 9 (img / 2 ^ 52)
        prio := BitVec.ofNat 8 (img / 2 ^ 44) })
      (fun u => if s.io.held.any (fun x => x.queue == q) then u.push [.heldInsertEntry q] else u)
    ∧ queue (.svQprio b c) (fun x => { x with prio := BitVec.ofNat 8 xc })
        (fun u => u.modIo fun io =>
          let keyed := io.pool.map fun e =>
            if e.cr.queue.toNat = q then
              { e with
                key := BitVec.ofNat 64 (xc % 2 ^ 8 * 2 ^ 56 + e.key.toNat % 2 ^ 56), cr := { e.cr with prio := BitVec.ofNat 8 xc } }
            else e
          { io with pool := keyed.foldl (fun l e => poolInsert e l) [] })
    ∧ does (.svGstart b c) ((List.range (min xc (2 ^ 20))).foldl (fun u j =>
        let qr := look s.io.queues q Queue.reset
        let e := qr.ntab.toNat + 32 * j
        let v := u.needPhys e 32
        if v.phys (e + 4) 4 ≠ 0 then v
        else v.push [.counterOperation ⟨qr.ctx, BitVec.ofNat 32 (v.phys (e + 24) 4), .ready (BitVec.ofNat 32 (v.phys (e + 28) 4)),
          BitVec.ofNat 20 j, BitVec.ofNat 12 q⟩]) s)
    ∧ does (.svTeardown b) (s.teardownStart ctx)
    ∧ (let e := xb / 2 ^ 16 % 2 ^ 5
      io (.svRht b c) fun io =>
        if 16 < e then io else { io with rht := put io.rht (17 * ctx + e) (BitVec.ofNat 128 (img / 2 ^ 25 * 2 ^ 25)) })
    ∧ io (.svDph b c) (fun io => { io with dph := put io.dph ctx (BitVec.ofNat 64 (keep xc 63 1 + keep xc 0 32)) })
    ∧ does (.svPtbr b c) { s with
        io := { s.io with
          ptbr := put s.io.ptbr ctx (BitVec.ofNat 64 (keep xc 63 1 + keep xc 13 39)), tcache := s.io.tcache.filter fun x => !gone x
          teardown := if (s.x c).getLsbD 63 ∧ (look s.io.ptbr ctx 0).getLsbD 63 = false then s.io.teardown.filter (· ≠ ctx)
            else s.io.teardown }
        dies := s.dies.map fun x => (x.1, { x.2 with
          tcache := x.2.tcache.filter (fun y => !gone y), replicas := x.2.replicas.filter fun r => r.ctx != ctx }) }
    ∧ does (.svPtw b c) (if xb % 16 = 0 ∧ physOk xb 16 = true then s.writePhysNum xb 16 img else s)
    ∧ (let drops (x : Nat × Kept) : Bool :=
        gone x && x.1 % 2 ^ 45 / 2 ^ (9 * x.2.lvl) == page / 4096 / 2 ^ (9 * x.2.lvl)
      ∃ u, does (.svTinv b c) u ∧ u = { s with io := { s.io with tcache := s.io.tcache.filter fun x => !drops x }, dies := u.dies }
        ∧ ∀ j, ∃ l, (∀ r ∈ l, r ∈ (s.dieAt j).replicas ∧ (r.ctx, r.page) ≠ (ctx, page / 4096))
          ∧ u.dieAt j = { s.dieAt j with tcache := (s.dieAt j).tcache.filter (fun x => !drops x), replicas := l })
    ∧ does (.svPres b c) ((s.applyMarked ctx page).releasePage ctx page)
    ∧ (let on (l : WaitList) : Bool := l.ctx == ctx && l.page == page / 4096
      let items := ([0, 1, 2, 3].flatMap fun die => (s.dieAt die).waits.filter on).flatMap WaitList.items
      let off (u : State) (die : Nat) : State := u.modDie die fun d => { d with waits := d.waits.filter fun l => !on l }
      does (.svPref b c) (items.foldl (fun u w => u.refuseItem ctx page w)
        (off (off (off (off (s.modIo fun io => { io with refused := io.refused ++ [(ctx, page / 4096)] }) 0) 1) 2) 3)))
    ∧ (let fails := s.push [.counterOperation ⟨BitVec.ofNat 9 ctx, BitVec.ofNat 32 (xd / 2 ^ 32), .faults 1, noNode, 0⟩]
      does (.svMigr b c d) (match s.walk ctx page .none with
        | .ok _ _ _ lvl =>
          let size := 2 ^ (12 + 9 * lvl)
          let base := page / size * size
          let old := (s.route ctx page).home
          if old ≠ xd % 4 ∧ s.migrSlot ctx base (size / 4096) = none then fails
          else s.modIo fun io => { io with migr := io.migr ++ [⟨ctx, base, size, old, xd % 4, xd / 2 ^ 32 % 2 ^ 32, false⟩] }
        | _ => fails))
    ∧ io (.svHint b c d) (fun io => { io with
      hintBase := put io.hintBase ctx (s.x c), hintCount := put io.hintCount ctx (min xd 256) })
    ∧ io (.svFq b c d) (fun io => { io with
      fqBase := put io.fqBase ctx (s.x c), tha := put io.tha ctx (BitVec.ofNat 57 (keep xd 2 55))
      thaWas := put io.thaWas ctx (s.now, look io.tha ctx 0) })
    ∧ io (.svSfq b c) (fun io => { io with sfqCtx := BitVec.ofNat 9 xb, sfqBase := s.x c })
    ∧ (let f : Flue := ⟨img % 2 ^ 9, img / 2 ^ 76 % 2 ^ 45, img / 2 ^ 128 % 2 ^ 64, img / 2 ^ 198 % 2 ^ 58 * 64,
        img / 2 ^ 288 % 2 ^ 32, img / 2 ^ 256 % 2 ^ 32⟩
      io (.svFlue c) fun io => if io.flue = none then { io with flue := some f } else { io with flueQ := io.flueQ ++ [f] })
    ∧ does (.svVac c d) (s.vacateStart img xd) ∧ does (.svVrel b) (s.vacateEnd (xb % 2 ^ 24))
    ∧ (let p := xb % 2 ^ 6
      let old := look s.io.paddock p 0
      let mine (cl : Nat) : Bool := [0, 1, 2, 3, 4, 5, 6, 7].any fun j => s.paddockOf (coreOf cl j) == some p
      io (.svPdk b c) (fun io => { io with
        paddock := put io.paddock p (BitVec.ofNat 64 (keep xc 63 1 + keep xc 0 24 + keep old.toNat 62 1)) })
      ∧ does (.svKill b) (s.push [.paddockKill p])
      ∧ ∃ v : BitVec 64, io (.svPrel b) (fun io => { io with
          paddock := put io.paddock p v, fenced := io.fenced.filter fun cl => !mine cl })
        ∧ ∀ i < 64, v.getLsbD i = (old.getLsbD i && i != 62))
    ∧ (let core (i : Instr) (f : Core → Core) : Prop := does i (if q < 2304 then s.modCore q f else s)
      core (.svLspr b c d) (fun x => { x with lspr := put x.lspr (xc % 8) (BitVec.ofNat 64 (keep xd 28 36)) })
      ∧ core (.svSpb b c) (fun x => { x with spbase := BitVec.ofNat 18 (keep xc 12 6) }))
    ∧ does (.svHtab b c d) (if ctx < 288 then s.modCluster ctx fun x => { x with
        htab := put x.htab (xc % 2 ^ 9) (BitVec.ofNat 64 (keep xd 16 48)), gave := del x.gave (xc % 2 ^ 9) } else s)
    ∧ does (.svYov b c d) (s.modDie (xb % 4) fun x =>
        { x with yovb := BitVec.ofNat 64 (keep xc 17 35), yovl := BitVec.ofNat 16 xd }))

/-- R12, R13, R32 to R35, R39 to R41: power takes every register and memory of the package, and not what lies outside it.
From off the boot starts at step 1 and sets its READY bits step by step. It checks its images, measures those that pass, and
halts at the first that fails; what fails to come up is counted. Throttling begins and ends, is counted, and is followed by the
sensors. Once step 4 is complete Dolzia answers the management port, and signs and writes the lifetime record; it has continued
the counts of the last record, or kept one aside whose signature fails. The order of an image's checks, the room that it has,
the keys and the sensors' readings are the model's (logs 7, 12, 92). -/
def Obligations.PowerAndBoot : Prop :=
  ∀ s : State,
    let io := s.io
    let b := io.bootIn
    let step := io.bootStep
    let image (j : Nat) : Image := b.images.getD j Image.empty
    let body (j : Nat) : List Byte := (image j).body.take (image j).length
    let bad (j : Nat) : Nat :=
      let x := image j
      let key := leBytes 32 x.rootKey.toNat
      if x.readable = false then 4
      else if Config.imageRoom j < x.length then 5
      else if Sha.sha512 key ≠ leBytes 64 b.rootDigest.toNat
        ∨ Crypto.verifyEd key (leBytes 64 x.digest.toNat) (leBytes 64 x.sig.toNat) = false then 1
      else if Sha.sha512 (body j) ≠ leBytes 64 x.digest.toNat then 2
      else if x.version < b.minVersion then 3
      else 0
    let hottest := io.temps.foldl max 0
    let heated (t : Nat) : List Nat := if t ≤ hottest then io.temps else io.temps.set 0 t
    let outside : Io :=
      { Io.reset with
        bootIn := b, temps := io.temps, lifeStored := io.lifeStored, lifeAside := io.lifeAside, bootKeyId := io.bootKeyId
        replies := io.replies, msixSent := io.msixSent, sent := io.sent, redfishOut := io.redfishOut }
    let off (i : Io) : State := { State.reset with io := i, hostMem := s.hostMem, fresh := s.fresh, ids := s.ids }
    let booting : Io := { outside with
      bootStep := 1, bootKeyId := io.bootKeyId + 1, temps := [0, 1, 2, 3, 4].map (Config.junction io.bootKeyId)
      volts := [0, 1, 2, 3].map (Config.supply io.bootKeyId) }
    let counted (u : State) (item : Nat) : State := u.modIo fun io => { io with
      life := put io.life item (BitVec.ofNat 64 (min ((look io.life item 0).toNat + 1) (2 ^ 64 - 1))) }
    let up : Bool := s.power && !io.halted && decide (5 ≤ step.toNat)
    let sign (l : List Byte) : List Byte := Crypto.signEd (leBytes 32 Config.identitySeed.toNat) (Sha.sha512 l)
    (State.reset.power = false ∧ State.reset.mem = [] ∧ State.reset.cores = [] ∧ State.reset.clusters = [] ∧ State.reset.dies = []
      ∧ State.reset.agenda = [] ∧ Io.reset.ready = 0 ∧ Io.reset.halted = false ∧ Io.reset.bootDone = false
      ∧ Io.reset.throttled = false ∧ Io.reset.mreg = [])
    ∧ (s.power = false → exec .powerOff s = .next s ∧ exec .overtempPowerOff s = .next s
      ∧ exec .powerOn s = .next { off booting with power := true, agenda := s.agenda })
    ∧ (s.power = true → exec .powerOn s = .next s ∧ exec .powerOff s = .next (off outside)
      ∧ exec .overtempPowerOff s = .next (off { outside with temps := heated 105 }))
    ∧ exec .issueThrottlingEntry s = .next (if s.power = false ∨ io.throttled = true then s
      else counted { s with io := { io with throttled := true, temps := heated 95 } } (10 * 2 ^ 16))
    ∧ exec .issueThrottlingExit s = .next (if s.power = false ∨ io.throttled = false then s
      else counted { s with io := { io with throttled := false, temps := io.temps.map (min 94) } } (10 * 2 ^ 16 + 1))
    ∧ s.thermal = (if 105 ≤ hottest then some .overtempPowerOff
      else if 95 ≤ hottest then (if io.throttled = true then none else some .issueThrottlingEntry)
      else if io.throttled = true then some .issueThrottlingExit else none)
    ∧ ((s.power = false ∨ io.halted = true ∨ io.bootDone = true) → exec .bootStepComplete s = .next s)
    ∧ (s.power = true → io.halted = false → io.bootDone = false →
      let ends (u : State) : Prop := exec .bootStepComplete s = .next u
      let goes (bits : Nat) (u : State) : State :=
        u.modIo fun io => { io with ready := io.ready ||| BitVec.ofNat 32 bits, bootStep := io.bootStep + 1 }
      let halts (code : Nat) (u : State) : State :=
        counted (u.modIo fun io => { io with halted := true, bootErr := BitVec.ofNat 4 code }) (13 * 2 ^ 16 + code)
      let measured (m j : Nat) (u : State) : State := u.modIo fun io => { io with
        mreg := put io.mreg m (BitVec.ofNat 512 (leNat (Sha.sha512
          (leBytes 64 (look io.mreg m 0).toNat ++ leBytes 64 (image j).digest.toNat)))) }
      (step = 1 → ends (goes (2 ^ 30) s))
      ∧ (step = 2 → ends (if bad 0 = 0 then goes 0 (measured 0 0 s) else if bad 1 = 0 then goes 0 (measured 0 1 s)
        else halts (bad 1) s))
      ∧ (step = 3 → ∃ l, ends (goes (b.stackUp.toNat * 2 ^ 18 + ([0, 1, 2, 3].map fun d =>
            if b.dies.getLsbD d && b.stackUp.getLsbD (2 * d) && b.stackUp.getLsbD (2 * d + 1) then 2 ^ (26 + d) else 0).sum)
            { s with io := { io with life := l } })
          ∧ ∀ x : Nat, look l x 0 =
            if (∃ j < 8, b.stackUp.getLsbD j = false ∧ x = 14 * 2 ^ 16 + 16 + j)
              ∨ (∃ d < 4, b.dies.getLsbD d = false ∧ x = 14 * 2 ^ 16 + 32 + d) then
              BitVec.ofNat 64 (min ((look io.life x 0).toNat + 1) (2 ^ 64 - 1))
            else look io.life x 0)
      ∧ (step = 4 → ends (
        let u := (measured 1 2 s).lifeStart
        let v := (measured 2 3 u).modIo fun io => { io with
          route := (List.range (min 1024 ((body 3).length / 2))).map fun n =>
            (n, BitVec.ofNat 16 (leNat (((body 3).drop (2 * n)).take 2)) &&& 0xC0FF) }
        let w := (measured 3 4 v).modIo fun io => { io with partNo := BitVec.ofNat 10 (leNat ((body 4).take 2)) }
        if bad 2 ≠ 0 then halts (bad 2) s
        else if bad 3 ≠ 0 then halts (bad 3) u
        else if bad 4 ≠ 0 then halts (bad 4) v
        else (goes 0 w).hcmdStart))
      ∧ (step = 5 → ∃ ports, ends { s with io := { io with
            ports := ports, ready := io.ready ||| BitVec.ofNat 32 (2 ^ 31 + b.ports.toNat * 4), bootDone := true } }
          ∧ ∀ p, look ports p Port.reset = if p < 16 ∧ b.ports.getLsbD p = true then { Port.reset with up := true, ackAt := s.now }
            else look io.ports p Port.reset)
      ∧ (step = 0 ∨ 5 < step.toNat → ends s))
    ∧ (let v := s.lifeStart
      let good : Bool := match io.lifeStored with
        | none => true
        | some r => Crypto.verifyEd (Crypto.publicEd (leBytes 32 Config.identitySeed.toNat)) (Sha.sha512 (Config.lifeRecord r.counts))
            r.sig
      let last : List (Nat × BitVec 64) := match io.lifeStored with
        | none => []
        | some r => if good then r.counts else []
      v = { s with io := { io with
          life := v.io.life, lifeAside := io.lifeAside ++ (if good then [] else io.lifeStored.toList) } }
      ∧ ∀ x : Nat, (look v.io.life x 0).toNat = min ((look io.life x 0).toNat
        + ((last.filter fun y => y.1 == x).map fun y => y.2.toNat).sum
        + (if x = 14 * 2 ^ 16 ∧ good = false ∨ x = 12 * 2 ^ 16 then 1 else 0)) (2 ^ 64 - 1))
    ∧ (let binOf (t : Nat) : Nat := min (max t 20) 125
      let written (l : List (Nat × BitVec 64)) : Io := { io with
        life := l, lifeStored := some ⟨l, sign (Config.lifeRecord l)⟩, lifeDue := s.now + 2 ^ 36, lifeBusy := true }
      let sensed (l : List (Nat × BitVec 64)) : Prop := ∀ x : Nat, (look l x 0).toNat = min ((look io.life x 0).toNat
        + (io.temps.zipIdx.filter fun y => x == 11 * 2 ^ 16 + 256 * y.2 + binOf y.1).length
        + (io.volts.zipIdx.filter fun y => x == (16 + y.2) * 2 ^ 16 + y.1 / 5 % 2 ^ 16).length) (2 ^ 64 - 1)
      (up = false → exec .lifetimeRecordWrite s = .next s)
      ∧ (up = true → ∃ l, exec .lifetimeRecordWrite s = .next { s with io := written l } ∧ sensed l)
      ∧ ∀ q,
        let e := { s with ev := .redfishRequest q }
        let ends (l : List Byte) (f : Io → Io) : Prop :=
          exec .redfishRequest e = .next { e with io := f { io with redfishOut := io.redfishOut ++ [l] } }
        (up = false → exec .redfishRequest e = .next e)
        ∧ (up = true → match q with
          | .power => ends [1] id
          | .ready => ends (leBytes 8 io.ready.toNat) id
          | .bootst => ends (leBytes 8 (step.toNat * 2 ^ 8 + io.bootErr.toNat * 2 ^ 4 + io.bootDone.toNat)) id
          | .temperature => ends ((io.temps ++ io.volts).flatMap (leBytes 8)) id
          | .lifeRead n => ends (Config.lifeSection n io.life) fun io => { io with redfishSection := some n }
          | .orderlyOff => ∃ l, sensed l ∧ exec .redfishRequest e = .next (off { outside with
              lifeStored := (written l).lifeStored, redfishOut := io.redfishOut ++ [[]] })))

/-- R4, R19, R21, R26 to R31, R35, R54: an access to the pool window that passes the tests of R29, in their order, is keyed and
placed; any other is recorded and discarded. A write to the memory window enters committed `rep` updates at the home, one for
each element; a read gives home memory with the home yard's committed entries; what refuses them or is not there is told to the
supervisor. Arming a watch evaluates it. A register keeps the fields that a write of it names, and a read gives them. R36 to R38:
a command that the mailbox holds runs once Dolzia is there, leaves its result in the buffer and its STATUS in the command word,
and clears BUSY; it runs not while the lifetime record is written, and one that no table lists is a bad one. What the identity
key, a certificate, a fresh key or a section is, is free (logs 7, 9), and this holds for every one; what the spec leaves open of
the mailbox and the table of vectors is the model's choice (logs 13, 42). -/
def Obligations.HostAndHearth : Prop :=
  (∀ s : State,
      let io := s.io
      let linked : Bool := s.power && io.ready.getLsbD 30
      let busy : Bool := s.later.any fun
        | .memoryWindowRead _ | .memoryWindowWrite _ => true
        | _ => false
      let gives (u : State) (l : List Byte) (psn ca : Bool) : State :=
        { u with io := { u.io with replies := u.io.replies ++ [(l, psn, ca)] } }
      let sends (u : State) (v : Nat) : State := u.modIo fun io =>
        if (look io.msix v (BitVec.ofNat 128 (2 ^ 96))).getLsbD 96 then { io with pba := io.pba ||| BitVec.ofNat 2048 (2 ^ v) }
        else { io with msixSent := io.msixSent ++ [v] }
      let fires (u : State) (n : Nat) (can : Bool) : State :=
        let w := (look u.io.watch n 0).toNat
        if w / 2 ^ 63 % 2 = 0 then u
        else sends (u.modIo fun io => { io with watch := put io.watch n (BitVec.ofNat 128
          (w / 2 ^ 64 % 2 ^ 11 * 2 ^ 64 + 2 ^ 62 + can.toNat * 2 ^ 61 + w / 2 ^ 32 % 2 ^ 9 * 2 ^ 32 + w % 2 ^ 32)) })
          (w / 2 ^ 64 % 2 ^ 11)
      -- the low word of watch `n` is written: a firing of this cycle comes before EN = 1, and is withheld by EN = 0
      let arms (u : State) (n : Nat) (en : Bool) (f : BitVec 128 → BitVec 128) : State :=
        let v := u.modIo fun io => { io with watchDue := del io.watchDue n }
        let v := match find? io.watchDue n with
          | some can => if en then fires v n can else v
          | none => v
        let w := f (look v.io.watch n 0)
        let ctx := w.toNat / 2 ^ 32 % 2 ^ 9
        let k := w.toNat % 2 ^ 32
        let v := v.modIo fun io => { io with watch := put io.watch n w }
        let c := v.readCtr ctx k
        if en = false then v
        else match v.engTr ctx ((look io.ctabBase ctx 0).toNat + 16 * k) with
          | .absent _ _ _ => v.push [.counterOperation ⟨BitVec.ofNat 9 ctx, BitVec.ofNat 32 k, .counted 0 0, noNode, 0⟩]
          | _ => if k < (look io.ctabLen ctx 0).toNat ∧ v.ctrSeen ctx k = true ∧ (c.count = c.target ∨ c.can = true) then
              fires v n c.can
            else v
      let slotOf (p : BitVec 20) : Option Nat := (List.range 512).find? fun n =>
        (look io.ctxb n 0).getLsbD 63 && (look io.ctxb n 0).toNat / 2 ^ 42 % 2 ^ 20 == p.toNat
      let slot (a : HostAccess) : Option Nat :=
        (match a.pasid with
          | some p => slotOf p
          | none => if io.mwdef = 0 then none else some io.mwdef.toNat).filter fun n =>
            (look io.ctxb n 0).getLsbD 63 && (look io.ctxb n 0).getLsbD 62 && (n != 0 || a.priv)
      let reach (ctx : Nat) (a : HostAccess) : Nat := ((look io.ctxb ctx 0).toNat / 2 ^ 24 % 2 ^ 18 * 2 ^ 39 + a.offset) % 2 ^ 57
      (∀ a : HostAccess,
        let e := { s with ev := .poolWindowAccess a }
        let ends (t : State) : Prop := exec .poolWindowAccess e = .next t
        let q := a.offset / 4096 % 4096
        let qr := look io.queues q Queue.reset
        let mine := a.pasid.bind slotOf
        let cause : Option Nat :=
          if a.read then some 5
          else if a.size ≠ 64 ∨ a.data.length ≠ 64 then some 1
          else if a.offset % 64 ≠ 0 then some 2
          else if qr.v = false then some 4
          else if mine = some 0 ∧ a.priv = false then some 7
          else if mine ≠ some qr.ctx.toNat ∨ io.teardown.contains qr.ctx.toNat = true then some 3
          else if max qr.dmax.toNat 1 ≤ qr.depth ∨ 262144 ≤ io.pool.length then some 6
          else none
        if linked = false then ends e
        else if io.halted = true then ends (if a.read then gives e [] false true else e)
        else match cause with
          | some c =>
            let drops := { qr with drops := BitVec.ofNat 16 (min (qr.drops.toNat + 1) 0xFFFF) }
            let u := { e with io := { io with
              suberrCount := BitVec.ofNat 16 (min (io.suberrCount.toNat + 1) 0xFFFF), suberrCause := BitVec.ofNat 4 c
              suberrQueue := BitVec.ofNat 12 q, queues := if c = 6 then put io.queues q drops else io.queues } }
            ends (if a.read then gives u (List.replicate a.size 0xFF) false false else u)
          | none =>
            let round := min (max (qr.last + 1) (look io.curRound qr.prio.toNat 0)) 0xFFFF
            ends { e with io := { io with
              queues := put io.queues q { qr with last := round, nseq := qr.nseq + 1, depth := qr.depth + 1 }
              pool := poolInsert ⟨BitVec.ofNat 64 (qr.prio.toNat * 2 ^ 56 + round * 2 ^ 40 + q * 2 ^ 28 + qr.nseq.toNat),
                { recordOf (leNat a.data) with ctx := qr.ctx, prio := qr.prio, queue := BitVec.ofNat 12 q }, io.arrivals, false,
                none⟩ io.pool
              arrivals := io.arrivals + 1 } })
      ∧ (∀ a : HostAccess,
        let e := { s with ev := .memoryWindowWrite a }
        let ends (t : State) : Prop := exec .memoryWindowWrite e = .next t
        let held (u : State) : State := { u with later := u.later ++ [.memoryWindowWrite a] }
        if linked = false ∨ io.halted = true then ends e
        else if a.offset % 4 ≠ 0 ∨ a.data.length % 4 ≠ 0 then ends { e with io := { io with
          suberrCount := BitVec.ofNat 16 (min (io.suberrCount.toNat + 1) 0xFFFF), suberrCause := 1, suberrQueue := 0 } }
        else match slot a with
        | none => ends e
        | some ctx =>
          let va := reach ctx a
          let home := (s.route ctx va).home
          let moved := e.xlate home ctx va .wr
          let u := moved.1
          if busy then ends (held e)
          else match moved.2 with
          | .absent lvl pte _ => ends (
              if u.waitRoom home ctx va = false then held u
              else u.waitOn home ctx va [] (supWord 1 1 5 lvl home noTask) (pte.toNat % 2 ^ 64))
          | .refused c lvl pte => ends (u.postRefused c 5 lvl home noTask ctx va pte)
          | .ok _ leaf _ _ => ∃ l : List (Nat × List Byte), l.flatMap Prod.snd = a.data
            ∧ (∀ j x, l[j]? = some x →
              let at' := va + ((l.take j).flatMap Prod.snd).length
              x.1 = at' ∧ x.2.length = if at' % 8 = 0 ∧ at' + 8 ≤ va + a.data.length then 8 else 4)
            ∧ ends (l.foldl (fun t x => t.yardTake home
              { key := BitVec.ofNat 64 (ctx * 2 ^ 55 + x.1 % 2 ^ 57 / 4), op := .rep, w := x.2.length == 8, tent := false
                trp := false, psn := false, wexp := 0, task := noTask, val := BitVec.ofNat 128 (leNat x.2)
                ord := BitVec.ofNat 2 (leafOrd leaf), units := [], age := 0, mark := false } 5) u))
      ∧ (∀ a : HostAccess,
        let e := { s with ev := .memoryWindowRead a }
        let ends (t : State) : Prop := exec .memoryWindowRead e = .next t
        let held (u : State) : State := { u with later := u.later ++ [.memoryWindowRead a] }
        let away (u : State) : State := if a.read then gives u [] false true else u
        if linked = false then ends e
        else if io.halted = true then ends (away e)
        else match slot a with
        | none => ends (away e)
        | some ctx =>
          let va := reach ctx a
          let read := e.windowDws ctx ((List.range a.size).map fun i => (va + i) / 8 * 8).eraseDups .window
          let u := read.1
          if busy then ends (held e)
          else match read.2 with
          | .error m => ends (match m.tr with
            | .absent lvl pte _ =>
              if m.held = true ∨ u.waitRoom m.die m.ctx m.va = false then held u
              else away (u.waitOn m.die m.ctx m.va [] (supWord 1 1 5 lvl m.die noTask) (pte.toNat % 2 ^ 64))
            | .refused c lvl pte => away (u.postRefused c 5 lvl m.die noTask m.ctx m.va pte)
            | .ok _ _ _ _ => away u)
          | .ok (ds, bad) => ends (gives u ((List.range a.size).map fun i => BitVec.ofNat 8 (dwNum ds (va + i) 1).1)
              (bad || (List.range a.size).any fun i => (dwNum ds ((va + i) / 4 * 4) 4).2) false))
      ∧ (∀ n, let e := { s with ev := .watchArm n }
        exec .watchArm e = .next (if linked = true ∧ n < 256 then arms e n true fun w => w ||| BitVec.ofNat 128 (2 ^ 63) else e))
      ∧ (∀ (r : HostReg) (v : Word),
        let e := { s with ev := .registerWrite r v }
        let ends (t : State) : Prop := exec .registerWrite e = .next t
        let dest (i : Io) : Prop := ends { e with io := i }
        let some1 (lo n : Nat) : Bool := v.toNat / 2 ^ lo % 2 ^ n != 0
        let vector (n : Nat) (w : BitVec 128) : State :=
          let u := e.modIo fun io => { io with msix := put io.msix n w }
          if w.getLsbD 96 = false ∧ io.pba.getLsbD n = true then
            sends (u.modIo fun io => { io with pba := io.pba &&& ~~~(BitVec.ofNat 2048 (2 ^ n)) }) n
          else u
        (∀ n, r = .route n → dest (if s.power = true ∧ n < 1024 then
            { io with route := put io.route n (v.setWidth 16 &&& 0xC0FF) } else io))
        ∧ (∀ n, r = .lnkst n →
          let p := look io.ports n Port.reset
          let new := { p with replays := if some1 16 8 then 0 else p.replays, errs := if some1 0 16 then 0 else p.errs }
          dest (if s.power = true ∧ n < 16 then { io with ports := put io.ports n new } else io))
        ∧ ∀ off, r = .bar0 off →
          let table : Bool := off / 0x1000 == 1 || off / 0x1000 == 2 || (0x4100 ≤ off && off < 0x5000) || off / 0x8000 == 2
            || off == 0x18 || off == 0x20 || off == 0x4000
          (linked = false ∨ off % 8 ≠ 0 ∨ table = false → ends e)
          ∧ (linked = true →
            (off = 0x18 → dest { io with mwdef := v.setWidth 9 })
            ∧ (off = 0x20 → dest { io with suberrCount := if some1 48 16 then 0 else io.suberrCount })
            ∧ (∀ n < 512, off = 0x1000 + 8 * n → dest { io with ctxb := put io.ctxb n (v &&& 0xFFFFFFFFFF000000) })
            ∧ (∀ n < 256, off = 0x2000 + 16 * n → ends (arms e n (v.getLsbD 63) fun old => BitVec.ofNat 128
                (old.toNat / 2 ^ 64 % 2 ^ 11 * 2 ^ 64 + v.toNat / 2 ^ 63 * 2 ^ 63
                  + (if v.getLsbD 62 then 0 else old.toNat / 2 ^ 62 % 2) * 2 ^ 62 + old.toNat / 2 ^ 61 % 2 * 2 ^ 61
                  + v.toNat / 2 ^ 32 % 2 ^ 9 * 2 ^ 32 + v.toNat % 2 ^ 32)))
            ∧ (∀ n < 256, off = 0x2008 + 16 * n → dest { io with
                watch := put io.watch n (BitVec.ofNat 128 (v.toNat % 2 ^ 11 * 2 ^ 64 + (look io.watch n 0).toNat % 2 ^ 64)) })
            ∧ (∀ n < 480, off = 0x4100 + 8 * n → dest { io with hcmdBuf := Memory.writeN io.hcmdBuf (8 * n) (leBytes 8 v.toNat) })
            ∧ (∀ n < 2048, let old := (look io.msix n (BitVec.ofNat 128 (2 ^ 96))).toNat
              (off = 0x10000 + 16 * n → ends (vector n (BitVec.ofNat 128 (old / 2 ^ 64 * 2 ^ 64 + v.toNat))))
              ∧ (off = 0x10008 + 16 * n → ends (vector n (BitVec.ofNat 128 (v.toNat * 2 ^ 64 + old % 2 ^ 64)))))
            ∧ (off = 0x4000 →
              let cmd := v.toNat % 2 ^ 12
              let word (busy status : Nat) : Io := { io with hcmd := BitVec.ofNat 64 (busy * 2 ^ 63 + status * 2 ^ 32 + cmd) }
              let known : List (Nat × Ev) := [(0x001, .quote), (0x002, .idcert), (0x010, .keyxch), (0x011, .keyimport),
                (0x012, .keygen), (0x013, .keyerase), (0x020, .liferead)]
              if io.hcmd.getLsbD 63 = true then ends e
              else if s.power = false ∨ io.halted = true ∨ io.bootStep.toNat < 5 then dest (word 1 0)
              else match known.find? fun x => x.1 == cmd with
                | none => dest (word 0 1)
                | some x => if io.lifeBusy then dest (word 0 4) else ends ({ e with io := word 1 0 }.push [x.2]))))
      ∧ (let half (v : BitVec 128) (j : Nat) : Word := BitVec.ofNat 64 (v.toNat / 2 ^ (64 * j) % 2 ^ 64)
        s.controlRead 0 = Config.ident ∧ s.controlRead 0x08 = io.ready.setWidth 64
        ∧ s.controlRead 0x10
          = BitVec.ofNat 64 (io.bootStep.toNat * 2 ^ 8 + io.bootErr.toNat * 2 ^ 4 + io.bootDone.toNat)
        ∧ s.controlRead 0x18 = io.mwdef.setWidth 64
        ∧ s.controlRead 0x20
          = BitVec.ofNat 64 (io.suberrCount.toNat * 2 ^ 48 + io.suberrCause.toNat * 2 ^ 44 + io.suberrQueue.toNat * 2 ^ 32)
        ∧ (∀ n < 512, s.controlRead (0x1000 + 8 * n) = look io.ctxb n 0)
        ∧ (∀ n < 256, ∀ j < 2, s.controlRead (0x2000 + 16 * n + 8 * j) = half (look io.watch n 0) j)
        ∧ s.controlRead 0x4000 = io.hcmd
        ∧ (∀ n < 480, s.controlRead (0x4100 + 8 * n) = BitVec.ofNat 64 (leNat (Memory.readN io.hcmdBuf (8 * n) 8)))
        ∧ (∀ n < 2048, ∀ j < 2, s.controlRead (0x10000 + 16 * n + 8 * j) = half (look io.msix n (BitVec.ofNat 128 (2 ^ 96))) j)
        ∧ (∀ n < 32, s.controlRead (0x18000 + 8 * n) = BitVec.ofNat 64 (io.pba.toNat / 2 ^ (64 * n) % 2 ^ 64))
        ∧ ∀ off, off % 8 ≠ 0 ∨ (0x28 ≤ off ∧ off < 0x1000) ∨ (0x3000 ≤ off ∧ off < 0x4000) ∨ (0x4008 ≤ off ∧ off < 0x4100)
          ∨ (0x5000 ≤ off ∧ off < 0x10000) ∨ 0x18100 ≤ off → s.controlRead off = 0))
  ∧
  (∀ s : State,
      let io := s.io
      let held (c : Nat) : Prop := s.power = true ∧ io.halted = false ∧ 5 ≤ io.bootStep.toNat ∧ io.hcmd.getLsbD 63 = true
        ∧ io.hcmd.toNat % 2 ^ 12 = c
      let hcmd (c status : Nat) : BitVec 64 := BitVec.ofNat 64 (status * 2 ^ 32 + c)
      let ends (i : Instr) (c status : Nat) : Prop := exec i s = .next { s with io := { io with hcmd := hcmd c status } }
      let pay (off n : Nat) : List Byte := Memory.readN io.hcmdBuf off n
      let answers (i : Instr) (c : Nat) (f : Io → Io) (l : List Byte) : Prop := exec i s = .next { s with io :=
        { f io with hcmdBuf := Memory.writeN io.hcmdBuf 0 (l.take 0xF00), hcmd := hcmd c 0 } }
      let sign := Crypto.signEd (leBytes 32 Config.identitySeed.toNat)
      let boot := (leBytes 64 (Config.hearthBytes (2 * io.bootKeyId)).toNat).take 32
      let n := leNat (pay 0 8)
      let full (m : Nat) : Bool := (find? io.keySlots m).isSome
      let keeps (key : BitVec 512) (t : State) : State := { t with io := { io with keySlots := put io.keySlots n key } }
      (∀ x ∈ [(Instr.quote, 0x001), (.idcert, 0x002), (.keyxch, 0x010), (.keyimport, 0x011), (.keygen, 0x012), (.keyerase, 0x013),
          (.liferead, 0x020)], ¬ held x.2 → exec x.1 s = .next s)
      ∧ (held 0x001 →
        let items := pay 0 32 ++ ((List.range 8).flatMap fun m => leBytes 64 (look io.mreg m 0).toNat) ++ leBytes 2 io.partNo.toNat
          ++ leBytes 8 Config.ident.toNat
        answers .quote 0x001 id (sign (Sha.sha512 items) ++ items))
      ∧ (held 0x002 → answers .idcert 0x002 id (Config.certificate 0))
      ∧ (held 0x010 →
        let own := Crypto.x25519 boot (leBytes 32 9)
        answers .keyxch 0x010 (fun io => { io with transport := some (BitVec.ofNat 256 (leNat (Crypto.x25519 boot (pay 0 32)))) })
          (own ++ sign own))
      ∧ (∀ x ∈ [(Instr.keyimport, 0x011), (.keygen, 0x012)], held x.2 → (n = 0 ∨ n < 4096 ∧ full n = true → ends x.1 x.2 3)
        ∧ (4096 ≤ n → ends x.1 x.2 2))
      ∧ (0 < n → n < 4096 → full n = false →
        (held 0x011 → match io.transport.bind fun k => Crypto.unwrap (leBytes 32 k.toNat) (pay 8 72) with
          | none => ends .keyimport 0x011 2
          | some key => exec .keyimport s = .next ((keeps (BitVec.ofNat 512 (leNat key)) s).modIo fun io =>
              { io with hcmd := hcmd 0x011 0 }))
        ∧ (held 0x012 → exec .keygen s = .next ((keeps (Config.hearthBytes (2 * s.fresh + 1)) { s with fresh := s.fresh + 1 }).modIo
            fun io => { io with hcmd := hcmd 0x012 0 })))
      ∧ (held 0x013 → (n = 0 → ends .keyerase 0x013 3) ∧ (4096 ≤ n → ends .keyerase 0x013 2)
        ∧ (0 < n → n < 4096 →
          let u := s.eraseAborts n
          let named (u : State) (e : Entry) : Bool := u.namesSlot n e.key
          let left := [0, 1, 2, 3].any fun d =>
            (u.dieAt d).all.any fun e => named u e && (e.tent || u.yardMarked e.key)
          if left then exec .keyerase s = .next { u with later := u.later ++ [.keyerase] }
          else ∃ t, exec .keyerase s = .next t ∧ t.io.keySlots = del io.keySlots n ∧ t.io.hcmd = hcmd 0x013 0
            ∧ (s.dies = [] → s.clusters = [] → io.migr = [] →
              t = { s with io := { io with keySlots := del io.keySlots n, hcmd := hcmd 0x013 0 } })))
      ∧ (held 0x020 → (io.redfishSection = some n → ends .liferead 0x020 4)
        ∧ (io.redfishSection ≠ some n → answers .liferead 0x020 id (Config.lifeSection n io.life))))

/-- R12, R14 to R21, R24, R33, R35: a flit whose CRC fails draws a NAK for the flit expected; one in sequence is acknowledged, and
with its last flit its message is delivered or forwarded, or it is discarded with the rest of its message. An ACK releases what
was kept; a NAK replays it in order with the present STOP flags, and the eighth failure in a row of one flit takes the port
down, as a missing ACK does after 65,536 cycles. A STOP flag sets at 192 flits, clears at 96 and lets messages wait. What was lost
with its port goes out on the alternate one, in order and before any newer message of its class and part, or fails; a
message without a route fails. A port comes up with its link anew. What the spec leaves open of CTL flits is log 91's. -/
def Obligations.Links : Prop :=
  ∀ (s : State) (p : Nat),
    let io := s.io
    let x := look io.ports p Port.reset
    let at' (e : Ev) : State := { s with ev := e }
    let port (e : State) (q : Nat) (f : Port → Port) : State :=
      e.modIo fun io => { io with ports := put io.ports q (f (look io.ports q Port.reset)) }
    let err (u : State) : State := port u p fun x => { x with errs := BitVec.ofNat 16 (min (x.errs.toNat + 1) 0xFFFF) }
    let retry (u : State) (q : Nat) : State :=
      (look u.io.ports q Port.reset).waiting.foldl (fun u w => u.portSend q w.1 w.2) (port u q fun x => { x with waiting := [] })
    let ctl (u : State) (kind : Nat) (seq : BitVec 8) : State :=
      let y := look u.io.ports p Port.reset
      u.modIo fun io => { io with
        sent := io.sent ++ [(p, flitOf ⟨0, kind, y.stopOut.toNat, 0, io.partNo, y.txSeq, 0, 0⟩ seq.toNat)] }
    (∀ f : BitVec 512,
      let e := at' (.flitReceive p f)
      let ends (t : State) : Prop := exec .flitReceive e = .next t
      let h := headOf f
      let flags := BitVec.ofNat 4 h.stop
      let seq := BitVec.ofNat 8 (f.toNat / 2 ^ 48)
      let told := port e p fun x => { x with stopIn := flags }
      let told := if x.stopIn &&& ~~~flags ≠ 0 then retry told p else told
      let took := ctl (port told p fun x => { x with rxSeq := x.rxSeq + 1 }) 1 h.seq
      let all := port took p fun x => { x with rx := put x.rx h.cls (look x.rx h.cls [] ++ [f]) }
      let whole := all.gathered p h.cls h.src h.dest
      if s.power = false ∨ 16 ≤ p then ends e
      else if flitCrc (f.toNat % 2 ^ 496) ≠ f.toNat / 2 ^ 496 then ends (ctl (err e) 2 x.rxSeq)
      else if h.cls = 0 then ends (
        if h.kind = 0 then told else if h.kind = 1 then told.push [.ackReceive p seq]
        else if h.kind = 2 then told.push [.nakReceive p seq] else err told)
      else if h.seq ≠ x.rxSeq then ends (err told)
      else if kindKnown h.cls h.kind = false ∨ x.skip.contains (h.cls, h.src, h.dest) = true then ends (took.dropMessage p h)
      else if h.dest ≠ io.partNo ∧ h.hops = 7 then ends ((err took).lifeAdd (7 * 2 ^ 16 + p) 1)
      else if h.nfl ≠ 0 then ends (all.stopFlag p h.cls)
      else if h.dest = io.partNo then ends (whole.1.msgIn h.src h.cls h.kind (whole.2.flatMap payloadOf))
      else ends (whole.1.forward whole.2))
    -- what a message leaves behind: its flits are gone from every port's buffer of its class, in the order of their coming
    ∧ (∀ (cls : Nat) (src dest : BitVec 10),
      let mine (f : BitVec 512) : Bool := (headOf f).src == src && (headOf f).dest == dest
      let buf (u : State) (q c : Nat) : List (BitVec 512) := look (look u.io.ports q Port.reset).rx c []
      let others := (List.range 16).filter (· != p)
      (s.gathered p cls src dest).2 = (others.flatMap fun q => (buf s q cls).filter mine) ++ (buf s p cls).filter mine
      ∧ (∀ q < 16, buf (s.gathered p cls src dest).1 q cls = (buf s q cls).filter fun f => !mine f)
      ∧ (∀ q c, c ≠ cls → buf (s.gathered p cls src dest).1 q c = buf s q c)
      ∧ ∀ h : Head,
        let y := look (s.dropMessage p h).io.ports p Port.reset
        let name := (h.cls, h.src, h.dest)
        (p < 16 → look y.rx h.cls [] = (buf s p h.cls).filter fun f => !((headOf f).src == h.src && (headOf f).dest == h.dest))
        ∧ y.errs = BitVec.ofNat 16 (min (x.errs.toNat + 1) 0xFFFF)
        ∧ y.skip = x.skip.filter (fun n => n != name) ++ if h.nfl = 0 then [] else [name])
    ∧ (∀ l : List (BitVec 512),
      let own (f : BitVec 512) : BitVec 32 := (s.cores.flatMap fun c => c.2.colls).foldl (fun w y =>
        if y.ctx.toNat = f.toNat / 2 ^ (48 + 64) % 2 ^ 16 ∧ y.id.toNat = f.toNat / 2 ^ (48 + 16) % 2 ^ 16 then w ||| y.flag
        else w) 0
      s.forward l = s.routeOut (l.zipIdx.map fun (f, j) =>
        let h := headOf f
        let n := f.toNat / 2 ^ 48 % 2 ^ 448
        flitOf { h with hops := h.hops + 1 } (if j = 0 ∧ h.cls = 4 then n ||| (own f).toNat * 2 ^ 32 else n)))
    ∧ (∀ cls : Nat, 1 ≤ cls → cls ≤ 4 →
      let n := (look x.rx cls []).length
      let e := at' (.stopFlagClear p (BitVec.ofNat 3 cls))
      let bit := BitVec.ofNat 4 (2 ^ (cls - 1))
      let isSet : Bool := x.stopOut.getLsbD (cls - 1)
      s.stopFlag p cls = (if 192 ≤ n then port s p fun x => { x with stopOut := x.stopOut ||| bit }
        else if n ≤ 96 ∧ isSet = true then s.push [.stopFlagClear p (BitVec.ofNat 3 cls)] else s)
      ∧ exec .stopFlagClear e = .next (if n ≤ 96 ∧ isSet = true then
          ctl (port e p fun x => { x with stopOut := x.stopOut &&& ~~~bit }) 0 0 else e))
    ∧ (∀ (cls : Nat) (l : List (BitVec 512)), (∀ f ∈ l, (headOf f).cls = cls) → 1 ≤ cls →
      let told := l.zipIdx.map fun (f, j) =>
        flitOf { headOf f with seq := x.txSeq + BitVec.ofNat 8 j, stop := x.stopOut.toNat } (f.toNat / 2 ^ 48 % 2 ^ 448)
      s.portSend p cls l =
        if x.stopIn.getLsbD (cls - 1) = true ∨ 128 < x.kept.length + l.length ∨ x.waiting.any (fun w => w.1 == cls) = true then
          port s p fun x => { x with waiting := x.waiting ++ [(cls, l)] }
        else if l = [] then s
        else (port s p fun x => { x with
          txSeq := x.txSeq + BitVec.ofNat 8 l.length, kept := x.kept ++ told
          ackAt := if x.kept = [] then s.now else x.ackAt }).modIo fun io => { io with sent := io.sent ++ told.map fun f => (p, f) })
    ∧ (∀ dest : BitVec 10,
      let r := (look io.route dest.toNat 0)
      let pri := r.toNat % 2 ^ 4
      let alt := r.toNat / 2 ^ 4 % 2 ^ 4
      s.outPort dest = if r.getLsbD 15 = true ∧ (look io.ports pri Port.reset).up = true then some pri
        else if r.getLsbD 14 = true ∧ (look io.ports alt Port.reset).up = true then some alt else none)
    ∧ (∀ (f : BitVec 512) (l : List (BitVec 512)),
      let h := headOf f
      let name (m : List (BitVec 512) × List (BitVec 512)) : Option (Nat × BitVec 10) :=
        (m.1 ++ m.2).head?.map fun g => ((headOf g).cls, (headOf g).dest)
      let held (q : Nat) : Bool := (look io.ports q Port.reset).lost.any fun m => name m == some (h.cls, h.dest)
      s.routeOut (f :: l) = match (List.range 16).find? held with
        | some q => port s q fun x => { x with waiting := x.waiting ++ [(h.cls, f :: l)] }
        | none => match s.outPort h.dest with
          | some q => s.portSend q h.cls (f :: l)
          | none => s.undeliverable h ((f :: l).flatMap payloadOf))
    ∧ (∀ seq : BitVec 8,
      let e := at' (.ackReceive p seq)
      let tail (l : List (BitVec 512)) : List (BitVec 512) := ((l.reverse.takeWhile fun f => (headOf f).nfl != 0)).reverse
      exec .ackReceive e = .next (match x.kept.findIdx? fun f => (headOf f).seq == seq with
        | none => e
        | some j => retry (port e p fun x => { x with
            kept := x.kept.drop (j + 1), begun := tail (x.begun ++ x.kept.take (j + 1)), fails := 0, ackAt := s.now }) p))
    ∧ (∀ seq : BitVec 8,
      let e := at' (.nakReceive p seq)
      let fails := if x.failSeq = seq then x.fails else 0
      exec .nakReceive e = .next (match x.kept.findIdx? fun f => (headOf f).seq == seq with
        | none => e
        | some j =>
          if 8 ≤ fails then e.portDown p
          else (port (e.lifeAdd (8 * 2 ^ 16 + p) 1) p fun x => { x with
            fails := fails + 1, failSeq := seq, replays := BitVec.ofNat 8 (min (x.replays.toNat + 1) 0xFF) }).modIo fun io =>
              { io with sent := io.sent ++ (x.kept.drop j).map fun f =>
                (p, flitOf { headOf f with stop := x.stopOut.toNat } (f.toNat / 2 ^ 48 % 2 ^ 448)) }))
    ∧ (let e := at' (.ackTimeout p)
      exec .ackTimeout e = .next (if x.up = true ∧ x.kept ≠ [] ∧ 65536 ≤ s.now - x.ackAt then e.portDown p else e))
    ∧ (let lost := x.lost ++ lostMsgs x.begun x.kept
      let first := ((s.lifeAdd (9 * 2 ^ 16 + p) 1).modIo fun io =>
        { io with ready := io.ready &&& ~~~(BitVec.ofNat 32 (2 ^ (2 + p))) })
      let classes := [1, 2, 3, 4].filter fun c => lost.any fun m => (m.2.head?.map fun f => (headOf f).cls) == some c
      s.portDown p = x.waiting.foldl (fun u w => u.routeOut w.2) ((port first p fun x => { x with
        up := false, lost := lost, kept := [], begun := [], waiting := [], fails := 0 }).push
          (classes.map fun c => .alternateResend p (BitVec.ofNat 3 c))))
    -- the flits that are kept are those of whole messages, but for what is acknowledged of the first
    ∧ (∀ begun kept : List (BitVec 512), (lostMsgs begun kept).flatMap Prod.snd = kept
      ∧ (kept ≠ [] → ((lostMsgs begun kept).head?.map Prod.fst) = some begun)
      ∧ (∀ m ∈ (lostMsgs begun kept).tail, m.1 = [])
      ∧ ∀ m ∈ lostMsgs begun kept, m.2 ≠ [] ∧ ∀ f ∈ m.2.dropLast, (headOf f).nfl ≠ 0)
    ∧ (∀ cls : Nat, 1 ≤ cls → cls ≤ 4 →
      let e := at' (.alternateResend p (BitVec.ofNat 3 cls))
      let of (m : List (BitVec 512) × List (BitVec 512)) : Bool := (m.2.head?.map fun f => (headOf f).cls) == some cls
      let waits (q : Nat) : List (List (BitVec 512)) :=
        ((look io.ports q Port.reset).waiting.filter fun w => w.1 == cls).map Prod.snd
      let left := ((List.range 16).filter fun q => waits q ≠ []).foldl (fun u q =>
        port u q fun x => { x with waiting := x.waiting.filter fun w => w.1 != cls })
        (port e p fun x => { x with lost := x.lost.filter fun m => !of m })
      let resent (u : State) (m : List (BitVec 512) × List (BitVec 512)) : State := match m.1 ++ m.2 with
        | [] => u
        | f :: _ =>
          let h := headOf f
          let r := look u.io.route h.dest.toNat 0
          let alt := r.toNat / 2 ^ 4 % 2 ^ 4
          if r.getLsbD 14 = true ∧ alt ≠ p ∧ (look u.io.ports alt Port.reset).up = true then u.portSend alt h.cls m.2
          else u.undeliverable h ((m.1 ++ m.2).flatMap payloadOf)
      (∀ m ∈ x.lost, m.2 ≠ []) →
      exec .alternateResend e = .next ((List.range 16).foldl (fun u q => (waits q).foldl (fun u l =>
        if (look u.io.ports q Port.reset).up then u.portSend q cls l else u.routeOut l) u)
        ((x.lost.filter of).foldl resent left)))
    ∧ (let e := at' (.portUp p)
      exec .portUp e = .next (if s.power = false ∨ io.halted = true ∨ io.bootDone = false ∨ 16 ≤ p then e
        else (port e p fun x => { Port.reset with
          up := true, replays := x.replays, errs := x.errs, ackAt := s.now, lost := x.lost, waiting := x.waiting }).modIo fun io =>
            { io with ready := io.ready ||| BitVec.ofNat 32 (2 ^ (2 + p)) }))

/-- R43, R50 to R52, R54, R55, R58 to R62, R64 to R69, R330: in a cycle the dispatcher rebases, takes the first of the 64 records
at the front that can be placed, to the free placement with the lowest core number or to a pair, and removes one that is
cancelled and one that is invalid. A record starts a unit with the registers of R43, or goes to a thread in `wfw`. A held insert and
a node's next copy enter once there is room. A record that arrives is granted its slot, goes back to the pool with its key,
or is discarded. A vacate and a teardown begin; a unit that its grace overtakes is aborted, or saved exactly and
restored; a rectangle that is empty, and a torn context without units, are reported. -/
def Obligations.Dispatcher : Prop :=
  ∀ s : State,
    let io := s.io
    let at' (e : Ev) : State := { s with ev := e }
    let qr (u : State) (q : Nat) : Queue := look u.io.queues q Queue.reset
    let ended (u : State) (r : Record) (cancelled : Bool) : State := if u.io.teardown.contains r.ctx.toNat then u
      else u.push [.counterOperation ⟨r.ctx, r.launch, .ended cancelled, r.node, r.queue⟩]
    let room (u : State) (q : Nat) : Bool :=
      decide ((qr u q).depth < max (qr u q).dmax.toNat 1) && decide (u.io.pool.length < 262144)
    let next (u : State) (q : Nat) : State :=
      if u.io.held.any (fun h => h.queue == q) && room u q then u.push [.heldInsertEntry q] else u
    let counter (r : Record) : Bool := decide (r.launch.toNat < (look io.ctabLen r.ctx.toNat 0).toNat)
    let sized (r : Record) : Bool := decide (8 ≤ r.xcount.toNat ∧ r.xcount.toNat ≤ 64)
    let less (n : Nat) : Nat := n - 0x8000
    let rebased (u : State) (p : Nat) : State := u.modIo fun io =>
      let pool := (io.pool.map fun e =>
        let k := e.key.toNat
        if k / 2 ^ 56 = p then
          { e with key := BitVec.ofNat 64 (k / 2 ^ 56 * 2 ^ 56 + less (k / 2 ^ 40 % 2 ^ 16) * 2 ^ 40 + k % 2 ^ 40) }
        else e)
      { io with
        pool := pool.foldl (fun l e => poolInsert e l) [], curRound := put io.curRound p (less (look io.curRound p 0))
        queues := io.queues.map fun x => (x.1, if x.2.prio.toNat = p then { x.2 with last := less x.2.last } else x.2) }
    let front (u : State) : List PoolEntry :=
      (u.io.pool.filter (fun e => e.again.isSome) ++ u.io.pool.filter fun e => e.again.isNone).take 64
    let unpool (u : State) (e : PoolEntry) : State :=
      let v := u.modIo fun io => { io with pool := dropFirst (· == e) io.pool }
      v.modQueue e.cr.queue.toNat fun q => { q with depth := q.depth - 1 }
    let sends (u : State) (e : PoolEntry) (cores : List Nat) : State := cores.zipIdx.foldl (fun u (n, i) =>
      let m : MangerRec := ⟨e.key, e.cr, n, false, if cores.length = 2 then some (i == 0) else none, e.again.isSome⟩
      (u.modCluster (clusterOf n) fun c => { c with manger := c.manger ++ [m] }).push
        [.recordArrivalAtManger (clusterOf n) e.key]) u
    let took (u : State) : State :=
      match (front u).find? fun e =>
        (qr u e.cr.queue.toNat).en && !u.cancelled e.cr && counter e.cr && sized e.cr && (u.placeOf e).isSome with
      | none => u
      | some e =>
        let p := e.cr.prio.toNat
        let v := (unpool u e).modIo fun io =>
          { io with curRound := put io.curRound p (max (look io.curRound p 0) (e.key.toNat / 2 ^ 40 % 2 ^ 16)) }
        next (sends v e ((u.placeOf e).getD [])) e.cr.queue.toNat
    let gone (u : State) (e : PoolEntry) : State :=
      let v := if e.cr.pin then u.dropSaved fun x => x.area == e.cr.arg1.toNat else u
      next (unpool v e) e.cr.queue.toNat
    (let r := ((io.curRound.filter fun x => 0x8000 ≤ x.2).map Prod.fst).foldl rebased s
      let t := took r
      let u := match (front r).find? fun e => t.io.pool.contains e && t.cancelled e.cr with
        | some e => ended (gone t e) e.cr true
        | none => t
      exec .dispatcherCycle s = .next (match (front r).find? fun e => u.io.pool.contains e && !(counter e.cr && sized e.cr) with
        | some e => if counter e.cr then ended (gone u e) e.cr false else gone u e
        | none => u))
    ∧ (∀ (r : Record) (n : Nat), s.freePlace n r = true ↔ n < 2304 ∧ io.ready.getLsbD (26 + dieOf n) = true ∧ s.vacated n = false
        ∧ s.killed n = false ∧ s.slotFor n r = true ∧ (s.clusterAt (clusterOf n)).manger.length < 16)
    ∧ (∀ e : PoolEntry,
      let r := e.cr
      let free (n : Nat) : Bool := s.freePlace n r
      let partner (n : Nat) : Nat := coreOf ((clusterOf n + 144) % 288) (posOf n)
      let both (n : Nat) : Option (List Nat) := if free n && free (partner n) then some [n, partner n] else none
      let c := (s.candidates (s.placeEntry r).1 (s.placeEntry r).2).filter free
      (∀ n, e.again = some n → s.placeOf e = both n)
      ∧ (e.again = none → r.pin = true → s.placeOf e = if free r.arg2.toNat then some [r.arg2.toNat] else none)
      ∧ (e.again = none → r.pin = false → c = [] → s.placeOf e = none)
      ∧ (e.again = none → r.pin = false → ∀ n ∈ c, (∀ m ∈ c, n ≤ m) →
        s.placeOf e = if (qr s r.queue.toNat).pair then both n else some [n]))
    ∧ (let subst (v : Vacate) (cl : Nat) : Option Nat := (some (s.phys (v.subst + 2 * cl) 2)).filter fun n => decide (n < 288)
      let cores (cl : Nat) : List Nat := [0, 1, 2, 3, 4, 5, 6, 7].map (coreOf cl)
      let whole (v : Vacate) (cl : Nat) : Bool := (cores cl).all fun n => inRect v.word0.toNat n
      (∀ r : Record, let q := qr s r.queue.toNat
        let w := s.phys (q.ptab.toNat + 2 * (r.vui.toNat % 2 ^ min q.plog.toNat 16)) 2
        s.placeEntry r = (w / 2 ^ 14 % 2 ^ 2, w % 2 ^ 12))
      ∧ (∀ n, 2304 ≤ n → s.candidates 0 n = [])
      ∧ (∀ n < 2304, s.candidates 0 n = match io.vacates.find? fun v => inRect v.word0.toNat n with
        | none => [n]
        | some v => match subst v (clusterOf n) with
          | none => []
          | some cl => if inRect v.word0.toNat (coreOf cl (posOf n)) then [] else [coreOf cl (posOf n)])
      ∧ (∀ cl, 288 ≤ cl → s.candidates 1 cl = [])
      ∧ (∀ cl < 288, s.candidates 1 cl = match io.vacates.find? fun v => whole v cl with
        | none => cores cl
        | some v => match subst v cl with
          | none => []
          | some x => if whole v x then [] else cores x)
      ∧ (∀ d, s.candidates 2 d = if 4 ≤ d then [] else (List.range 576).map fun i => 576 * d + i)
      ∧ ∀ n, s.candidates 3 n = List.range 2304)
    ∧ (∀ (n k b : Nat) (r : Record), (s.coreAt n).wfwSlot r = none → (s.coreAt n).freeSlot = some k →
      (s.coreAt n).freeWindow r.xcount.toNat = some b → 8 ≤ r.xcount.toNat → r.xcount.toNat ≤ 64 →
      ∃ u, s.grant n r = (u, some k) ∧ (u.thr n k).status = .running ∧ (u.thr n k).wait = .none ∧ (u.thr n k).pc = r.pc
        ∧ (u.thr n k).xbase.toNat = b ∧ (u.thr n k).xcount = r.xcount ∧ (u.thr n k).p = 0 ∧ (u.thr n k).intrap = false
        ∧ (u.thr n k).v = [] ∧ (u.thr n k).s = [] ∧ (u.thr n k).ix = 0 ∧ ((u.thr n k).sup = true ↔ r.ctx = 0)
        ∧ ((List.range 8).map fun j => (u.coreAt n).readX (u.thr n k) j) = [0, r.arg1, r.arg2, r.arg3, r.arg4, r.arg5,
            r.vui.setWidth 64, BitVec.ofNat 64 (r.ctx.toNat * 2 ^ 32 + r.launch.toNat)]
        ∧ (∀ j, 8 ≤ j → j < r.xcount.toNat → (u.coreAt n).readX (u.thr n k) j = 0) ∧ (∀ m, m ≠ n → u.coreAt m = s.coreAt m)
        ∧ u.mem = s.mem)
    ∧ (∀ (n k : Nat) (r : Record), (s.coreAt n).wfwSlot r = some k → 8 ≤ (s.thr n k).xcount.toNat →
      let t := s.thr n k
      ∃ u, s.grant n r = (u, some k) ∧ (u.thr n k).status = .running ∧ (u.thr n k).wait = .none ∧ (u.thr n k).pc = r.pc
        ∧ (u.thr n k).xbase = t.xbase ∧ (u.thr n k).xcount = r.xcount ∧ (u.thr n k).p = t.p ∧ (u.thr n k).v = t.v
        ∧ (u.thr n k).ix = t.ix
        ∧ ((List.range 8).map fun j => (u.coreAt n).readX (u.thr n k) j) = [0, r.arg1, r.arg2, r.arg3, r.arg4, r.arg5,
            r.vui.setWidth 64, BitVec.ofNat 64 (r.ctx.toNat * 2 ^ 32 + r.launch.toNat)]
        ∧ (∀ m, m ≠ n → u.coreAt m = s.coreAt m) ∧ u.mem = s.mem)
    ∧ (∀ q,
      let e := at' (.heldInsertEntry q)
      let left := { e with io := { io with held := dropFirst (fun h => h.queue == q) io.held } }
      exec .heldInsertEntry e = .next (match io.held.find? fun h => h.queue == q with
        | none => e
        | some h =>
          if (qr s q).v = false ∨ (qr s q).ctx ≠ h.cr.ctx then
            let u := ended left h.cr false
            if u.io.held.any fun h => h.queue == q then u.push [.heldInsertEntry q] else u
          else if room s q = false then e
          else match h.key with
            | none =>
              let x := qr s q
              let round := min (max (x.last + 1) (look io.curRound x.prio.toNat 0)) 0xFFFF
              let p : PoolEntry := ⟨BitVec.ofNat 64 (x.prio.toNat * 2 ^ 56 + round * 2 ^ 40 + q * 2 ^ 28 + x.nseq.toNat),
                { h.cr with ctx := x.ctx, prio := x.prio, queue := BitVec.ofNat 12 q }, io.arrivals, false, h.again⟩
              next ((left.modQueue q fun x => { x with last := round, nseq := x.nseq + 1, depth := x.depth + 1 }).modIo fun io =>
                { io with pool := poolInsert p io.pool, arrivals := io.arrivals + 1 }) q
            | some key => next ((left.modQueue q fun x => { x with depth := x.depth + 1 }).modIo fun io =>
                { io with pool := poolInsert ⟨key, h.cr, io.arrivals, false, h.again⟩ io.pool, arrivals := io.arrivals + 1 }) q))
    ∧ (let ok (q : Nat) (r : Record) : Bool := (qr s q).v && (qr s q).ctx == r.ctx
      exec .nodeReadyInsert s = .next (match io.nodeReady.find? fun (q, r, _, left) =>
          left == 0 || !ok q r || (room s q && !io.held.any fun h => h.queue == q) with
        | none => s
        | some (q, r, j, left) =>
          let same (x : Nat × Record × Nat × Nat) : Bool := x == (q, r, j, left)
          let rest := if left ≤ 1 then dropFirst same io.nodeReady
            else mapIf same (fun _ => (q, r, j + 1, left - 1)) io.nodeReady
          let u := s.modIo fun io => { io with nodeReady := rest }
          let r := { r with vui := BitVec.ofNat 32 j }
          if left = 0 then u else if ok q r then u.poolPlace q r else ended u r false))
    ∧ (∀ cl key,
      let e := at' (.recordArrivalAtManger cl key)
      let ends (t : State) : Prop := exec .recordArrivalAtManger e = .next t
      let l := s.heldOf key
      let lost (m : MangerRec) : Bool := s.vacated m.core || s.killed m.core
      let left (u : State) : State := { u with clusters := u.clusters.map fun x =>
        (x.1, { x.2 with manger := x.2.manger.filter fun m => m.key != key }) }
      match l.find? fun m => clusterOf m.core == cl with
      | none => ends e
      | some m =>
        if l.any lost then ends (e.mangerReturn fun n => l.any fun m => m.core == n && lost m)
        else if s.cancelled m.cr = true then
          ends (ended (left (if m.cr.pin then e.dropSaved fun u => u.area == m.cr.arg1.toNat else e)) m.cr true)
        else
          let u := e.modCluster cl fun c => { c with
            manger := mapIf (fun x => x.key == key && x.core == m.core) (fun x => { x with arrived := true }) c.manger }
          match m.pair with
          | none => ends (if m.cr.pin then (left u).grantPin m.core m.cr else ((left u).grant m.core m.cr).1)
          | some _ =>
            let here (first : Bool) : Option MangerRec := (u.heldOf key).find? fun x => x.pair == some first && x.arrived
            match here true, here false with
            | some a, some b => ends ((left u).grantPair a b)
            | _, _ => ends u)
    ∧ (∀ (a b : MangerRec) (u v : State) (j k : Nat), s.grant a.core a.cr = (u, some k) → u.grant b.core b.cr = (v, some j) →
      let x := ((s.grantPair a b).thr a.core k)
      let y := ((s.grantPair a b).thr b.core j)
      (a.core, k) ≠ (b.core, j) →
      x = { v.thr a.core k with mate := some (b.core, j), primary := true, mismatched := a.second }
      ∧ y = { v.thr b.core j with mate := some (a.core, k), primary := false, mismatched := a.second })
    ∧ (∀ cl ctx k,
      let e := at' (.mangerCancel cl ctx k)
      ∃ u, exec .mangerCancel e = .next u ∧ u.mem = s.mem
        ∧ (∀ m ∈ (s.clusterAt cl).manger, s.cancelled m.cr = true → ∀ c ∈ u.clusters, ∀ x ∈ c.2.manger, x.key ≠ m.key)
        ∧ ∀ j < 8, ∀ i < 16,
          let n := coreOf cl j
          let t := s.thr n i
          if t.status = .running ∧ s.cancelled t.cr = true then
            u.thr n i = { t with cancelled := true } ∧ (cancelWait t.wait = true → .taskAbort n i .cancel ∈ u.agenda)
          else u.thr n i = t)
    ∧ (∀ n k,
      let e := at' (.vacateGraceExpiry n k)
      let ends (t : State) : Prop := exec .vacateGraceExpiry e = .next t
      let t := s.thr n k
      (t.leaveBy = none → ends e)
      ∧ ∀ c, t.leaveBy = some c →
        (s.now < c ∨ t.status = .free → ends e)
        ∧ (c ≤ s.now → t.status ≠ .free → t.pin = false → ends (e.push [.taskAbort n k .vacate]))
        ∧ (c ≤ s.now → t.status ≠ .free → t.pin = true → s.savable n k = false →
          let running : Bool := t.mmtStop.isNone && t.inflight.any fun i => isMmt i.instr
          ends (if running then e.modThr n k fun t => { t with mmtHalt := true } else e))
        ∧ (c ≤ s.now → t.status ≠ .free → t.pin = true → s.savable n k = true →
          ∃ u, ends u ∧ u.thr n k = Thread.reset
            ∧ u.io.saved = io.saved ++ [⟨t.saveAt, s.token n k, t, (s.coreAt n).owned k t.unit⟩]
            ∧ (io.teardown.contains t.cr.ctx.toNat = false → (qr s t.cr.queue.toNat).v = true →
              (qr s t.cr.queue.toNat).ctx = t.cr.ctx →
              let r := { t.cr with pin := true, arg1 := BitVec.ofNat 64 t.saveAt, arg2 := BitVec.ofNat 64 n }
              (room s t.cr.queue.toNat = false ∨ (∃ h ∈ io.held, h.queue = t.cr.queue.toNat) →
                u.io.held = io.held ++ [⟨t.cr.queue.toNat, r, none, none⟩])
              ∧ (room s t.cr.queue.toNat = true → (∀ h ∈ io.held, h.queue ≠ t.cr.queue.toNat) →
                ∃ x ∈ u.io.pool, x.cr.arg1 = r.arg1 ∧ x.cr.arg2 = r.arg2 ∧ x.cr.pin = true ∧ x.cr.launch = r.launch))))
    ∧ (∀ (n k : Nat),
      let e := at' (.exactRestore n k)
      let t := s.thr n k
      let area := t.cr.arg1.toNat
      let word (off : Nat) : Nat := s.phys (area + off) 8
      (t.status ≠ .running ∨ t.wait ≠ .started ∨ t.cr.pin = false → exec .exactRestore e = .next e)
      ∧ (t.status = .running → t.wait = .started → t.cr.pin = true → s.hbmErr = [] →
        let long : Bool := word 0x18 / 2 ^ 29 % 2 == 1
        let due : Bool := (((io.saved.find? fun u => u.area == area).map fun u => u.thread.lgrant).getD none).isSome
        let free := (s.clusterAt (clusterOf n)).freeLong
        ((long = true ∨ due = true) → free = none → exec .exactRestore e = .next e)
        ∧ ((long = false ∧ due = false) ∨ free ≠ none →
          ∃ u, exec .exactRestore e = .next u ∧ (u.thr n k).status = .running
          ∧ (u.thr n k).pc = BitVec.ofNat 57 (word 0) ∧ (u.thr n k).xcount = BitVec.ofNat 7 (word 8)
          ∧ (u.thr n k).tcause = BitVec.ofNat 9 (word 0x20) ∧ (u.thr n k).tepc = BitVec.ofNat 57 (word 0x28)
          ∧ (u.thr n k).tval = BitVec.ofNat 64 (word 0x30) ∧ (u.thr n k).seq = BitVec.ofNat 32 (word 0x38)
          ∧ (u.thr n k).ix = BitVec.ofNat 16 (word 0x80) ∧ (u.thr n k).p = BitVec.ofNat 8 (word 0x88 / 2 * 2)
          ∧ (∀ j < 32, (u.thr n k).readV j = BitVec.ofNat 256 (s.phys (area + 0xB00 + 32 * j) 32))
          ∧ (∀ j, 1 ≤ j → j < 64 → j < word 8 % 2 ^ 7 →
            (u.coreAt n).readX (u.thr n k) j = BitVec.ofNat 64 (word (0x900 + 8 * j)))
          ∧ (u.thr n k).long = long ∧ ((u.thr n k).lgrant = none ∨ due = true ∧ long = false)
          ∧ u.io.saved = dropFirst (fun u => u.area == area) io.saved ∧ u.mem = s.mem)))
    ∧ (∀ w : Word,
      let e := at' (.rectangleEmpty w)
      let free : Bool := s.cores.all fun x => !inRect w.toNat x.1 || x.2.slots.isEmpty
      exec .rectangleEmpty e = .next (match io.vacates.find? fun v => v.word0 == w && !v.reported with
        | none => e
        | some v =>
          if free = false then e
          else ({ e with io := { io with
            vacates := io.vacates.map fun x => if x.word0 == w then { x with reported := true } else x } } : State).push
              [.counterOperation ⟨v.cctx, BitVec.ofNat 32 v.cnt, .counted 1 0, noNode, 0⟩]))
    ∧ (∀ img save w : Nat,
      let w0 := img % 2 ^ 64
      let v : Vacate := ⟨BitVec.ofNat 64 (w0 % 2 ^ 24), img / 2 ^ 96 % 2 ^ 32, img / 2 ^ 64 % 2 ^ 32, BitVec.ofNat 9 (img / 2 ^ 128),
        img / 2 ^ 192 % 2 ^ 52, save, false, s.now⟩
      let units := (s.cores.filter fun x => inRect w0 x.1).flatMap fun x => x.2.slots.map fun y => (x.1, y.1, y.2.status)
      s.vacateStart img save = (if w0 / 2 ^ 6 % 2 ^ 6 < w0 / 2 ^ 18 % 2 ^ 6 ∨ w0 % 2 ^ 6 < w0 / 2 ^ 12 % 2 ^ 6 then s
        else (units.foldl (fun u (n, k, st) => if st = .wfw then u.freeSlot n k
          else u.modThr n k fun t => { t with leaveBy := some (s.now + v.grace), saveAt := save + 25600 * (16 * n + k) })
          ((s.modIo fun io => { io with vacates := io.vacates ++ [v] }).mangerReturn (inRect w0))).push [.rectangleEmpty v.word0])
      ∧ ((∀ v ∈ io.vacates, v.word0.toNat ≠ w) → s.vacateEnd w = s)
      ∧ ((∃ v ∈ io.vacates, v.word0.toNat = w) →
        let u := s.vacateEnd w
        u.mem = s.mem ∧ u.io = { io with vacates := io.vacates.filter fun v => v.word0.toNat != w }
        ∧ ∀ n < 2304, ∀ k < 16, (s.thr n k).status ≠ .free → u.vacated n = false → (u.thr n k).leaveBy = none))
    ∧ (∀ ctx,
      let u := s.teardownStart ctx
      u.io.teardown.contains ctx = true ∧ (∀ x ∈ u.io.pool, x.cr.ctx.toNat ≠ ctx) ∧ (∀ x ∈ u.io.held, x.cr.ctx.toNat ≠ ctx)
      ∧ (∀ x ∈ u.io.nodeReady, x.2.1.ctx.toNat ≠ ctx) ∧ (∀ x ∈ u.io.waitRecs, x.1 ≠ ctx)
      ∧ (∀ x ∈ u.io.saved, x.thread.cr.ctx.toNat ≠ ctx) ∧ (∀ c ∈ u.clusters, ∀ m ∈ c.2.manger, m.cr.ctx.toNat ≠ ctx)
      ∧ .teardownComplete ctx ∈ u.agenda
      ∧ ∀ c ∈ s.cores, ∀ x ∈ c.2.slots, x.2.cr.ctx.toNat = ctx → x.2.status = .running →
        .taskAbort c.1 x.1 .teardown ∈ u.agenda)
    ∧ ∀ ctx,
      let e := at' (.teardownComplete ctx)
      let busy : Bool := s.cores.any fun x => x.2.slots.any fun y => y.2.cr.ctx.toNat == ctx
      (io.teardown.contains ctx = false ∨ busy = true → exec .teardownComplete e = .next e)
      ∧ (io.teardown.contains ctx = true → busy = false → ∃ u, exec .teardownComplete e = .next u ∧ u.cores = s.cores
        ∧ u.mem = s.mem ∧ (look u.io.ptbr ctx 0).getLsbD 63 = false ∧ ∀ j, j ≠ ctx → look u.io.ptbr j 0 = look io.ptbr j 0)

/-- R68, R102, R104 to R111, R115, R116, R118, R126 to R129, R131, R179, R180: what comes about in the runs. A stall run moves to the
shed while that has 128 free places, a chain of the shed to its home yard, and a fifth append makes its key's chain move. An
entry at its yard is held at a frozen page, routed again where it has moved, parked, refused or checked and entered. A fill
moves or applies in ascending key order and no further than it must; the highest keys of a yard go out in one block, which
comes back whole; a full yard says so until it has room. A phase that closes applies its deferred entries. A merge fault
record goes to its queue, and to its task or its launch; equal windows are forwarded, others end the pair, when the cores have
had their turns of the cycle (R183; log 43). -/
def Obligations.RunsAndYards : Prop :=
  ∀ s : State,
    let at' (e : Ev) : State := { s with ev := e }
    let shedOf (u : State) (cl : Nat) : List Entry := (u.clusterAt cl).shed
    let openFor (cl : Nat) : Bool := decide ((shedOf s cl).length + 128 ≤ 8192)
    (∀ n key,
      let key : Word := key
      let cl := clusterOf n
      let left := s.modCore n fun x =>
        ({ x with stall := setChain x.stall key [] }).dropLine (key.toNat / 2 ^ 55) (key.toNat % 2 ^ 55 * 4)
      s.moveStallKey n key = if s.stallMarked n key then (s, false)
        else ((chain (s.coreAt n).stall key).foldl (fun u e =>
          if e.task ≠ noTask ∧ e.task.toNat / 2 ^ 28 = n then u.send n (e.task.toNat / 2 ^ 24 % 16) (.update e) false
          else u.shedAppend cl e) left, true))
    ∧ (∀ n,
      let cl := clusterOf n
      let moves (u : State) : State := if (s.coreAt n).stall = [] ∨ openFor cl = false then u
        else
          let v := (keysOf (s.coreAt n).stall).foldl (fun u k => (u.moveStallKey n k).1) u
          if 6144 ≤ (shedOf v cl).length then v.push [.shedFillMoveout cl] else v
      exec .stallHighwaterMoveout (at' (.stallHighwaterMoveout n)) = .next (moves (at' (.stallHighwaterMoveout n)))
      ∧ exec .stallAgeMoveout (at' (.stallAgeMoveout n)) = .next (moves (at' (.stallAgeMoveout n))))
    ∧ (∀ cl (key : Word),
      let freed (u : State) : State := u.modCluster cl fun y => { y with blocked := y.blocked.filter (· != key.toNat) }
      let stuck (u : State) : State := u.modCluster cl fun y => { y with blocked := insertNat key.toNat y.blocked }
      s.moveShedKey cl key = match chain (shedOf s cl) key with
        | [] => (freed s, true)
        | x :: l =>
          let die := (s.route x.ctx x.va).home
          let d := s.dieAt die
          if s.shedMarked cl key = true ∨ d.full = true then (s, false)
          else if d.isFrozen x.ctx x.va = true ∨ d.heldAt.any (fun h => h.1.key == key) = true then (stuck s, false)
          else match (x :: l).foldlM (fun u e => u.yardAccept die e 1) s with
            | some u => (freed (u.modCluster cl fun y =>
                (x :: l).foldl (fun y e => y.sendTo die e) { y with shed := setChain y.shed key [] }), true)
            | none => (stuck s, false))
    ∧ (∀ cl (key : Word),
      let a := at' (.shedAgeMoveout cl key)
      let r := at' (.shedMoveRetry cl key)
      let f := at' (.shedFillMoveout cl)
      exec .shedAgeMoveout a = .next (a.moveShedKey cl key).1
      ∧ exec .shedMoveRetry r = .next (if (s.clusterAt cl).blocked.contains key.toNat then (r.moveShedKey cl key).1 else r)
      ∧ exec .shedFillMoveout f = .next (if (shedOf s cl).length < 6144 then f
        else (keysOf (shedOf s cl)).foldl (fun u key =>
          if (shedOf u cl).length ≤ 4096 then u else (u.moveShedKey cl key).1) f))
    ∧ (∀ cl (x : Entry),
      let e := { x with age := s.now }
      let c := tryAppend (chain (shedOf s cl) x.key) e
      let sets (u : State) (l : List Entry) : State := u.modCluster cl fun y => { y with shed := setChain y.shed x.key l }
      s.shedAppend cl x =
        if c.1.length ≤ 4 ∨ (s.clusterAt cl).blocked.contains x.key.toNat = true then (sets s c.1).postRange? e c.2 2
        else if (s.moveShedKey cl x.key).2 then sets (s.moveShedKey cl x.key).1 [e]
        else (sets (s.moveShedKey cl x.key).1 c.1).postRange? e c.2 2)
    ∧ (∀ die x acc,
      let e := at' (.yardEntry die x acc)
      let d := s.dieAt die
      let held := e.modDie die fun d => { d with heldAt := d.heldAt ++ [(x, acc)] }
      let word (cause lvl : Nat) : Nat := supWord 1 cause acc lvl die x.task
      let answers (u : State) (good : Bool) : State := if x.ord = 1 ∧ x.tent = false ∧ x.task ≠ noTask then
        u.push [.sosAcknowledge (x.task.toNat / 2 ^ 28) (x.task.toNat / 2 ^ 24 % 16) (x.units.headD 0) good] else u
      let moved := e.xlate die x.ctx x.va .wr
      let u := moved.1
      exec .movedReroute (at' (.movedReroute x acc)) =
        .next ((at' (.movedReroute x acc)).push [.yardEntry (s.route x.ctx x.va).home x acc])
      ∧ exec .yardEntry e = .next (
        if d.isFrozen x.ctx x.va = true ∨ d.heldAt.any (fun h => h.1.key == x.key) = true then held
        else if (s.route x.ctx x.va).home ≠ die then e.push [.movedReroute x acc]
        else if d.parkedKey x.key = true then e.waitOn die x.ctx x.va [.entry x acc false] 0 0
        else match moved.2 with
          | .absent lvl v _ =>
            if u.waitRoom die x.ctx x.va = false then held
            else if x.tent = true ∧ u.taskPinned x.task = false then
              (u.waitOn die x.ctx x.va [] (word 1 lvl) (v.toNat % 2 ^ 64)).push [.abortNoticeArrival x.task (.page die x.ctx x.va)]
            else u.waitOn die x.ctx x.va [.entry x acc false] (word 1 lvl) (v.toNat % 2 ^ 64)
          | .refused c lvl v =>
            if x.tent = false then answers ((u.postRefused c acc lvl die x.task x.ctx x.va v).postUnit x 3 5 0 x.val) false
            else if c = 5 ∨ c = 6 then
              (u.postRefused c acc lvl die x.task x.ctx x.va v).push [.abortNoticeArrival x.task .refused]
            else if u.waitRoom die x.ctx x.va = false then held
            else if u.taskPinned x.task = true then u.waitOn die x.ctx x.va [.entry x acc false] (word c lvl) v.toNat
            else (u.waitOn die x.ctx x.va [] (word c lvl) v.toNat).push [.abortNoticeArrival x.task (.page die x.ctx x.va)]
          | .ok _ leaf at' _ =>
            let v := if x.ord.toNat ≠ leafOrd leaf then u.postUnit x 3 6 0 x.val else u
            let v := if x.op.isFx = true ∧ x.wexp ≠ leafWexp leaf then v.postUnit x 3 4 0 x.val else v
            match ((v.dropReplicas x.ctx x.va).setDirty at').yardInsert die { x with ord := BitVec.ofNat 2 (leafOrd leaf) } with
            | some w => answers (w.yardFill die) true
            | none => held))
    ∧ (∀ die (x : Entry),
      let d := s.dieAt die
      let room : Bool := decide (d.yard.length + d.dset.length < 524288)
      let rep : Bool := x.op == .rep && !x.tent
      let replaced (y : Entry) : Bool := rep && y.op.isFx && y.key == x.key && y.w == x.w && !y.tent && !y.mark
      let c := tryAppend (chain d.yard x.key) x
      (x.op.isFx = true → s.yardInsert die x = if room = false ∧ d.dset.length < (dsetAdd d.dset x).1.length then none
        else some ((s.modDie die fun d => { d with dset := (dsetAdd d.dset x).1 }).postRange? x (dsetAdd d.dset x).2 4))
      ∧ (x.op.isFx = false → (rep = true → ∀ y ∈ d.dset, y.key = x.key → y.mark = false) →
        (room = false → (chain d.yard x.key).length < c.1.length → s.yardInsert die x = none)
        ∧ ((room = true ∨ c.1.length ≤ (chain d.yard x.key).length) → c.1.length ≤ 4 →
          s.yardInsert die x = some ((s.modDie die fun d => { d with
            yard := setChain d.yard x.key c.1, dset := d.dset.filter fun y => !replaced y
            blocks := if rep then (d.blocks.map fun b => b.filter fun y => !replaced y).filter (fun b => !b.isEmpty) else d.blocks
            }).postRange? x c.2 4))))
    ∧ (∀ die,
      let d := s.dieAt die
      let n := d.yard.length + d.dset.length
      let fill := at' (.yardFillApply die)
      let spill := at' (.yardSpill die)
      let re := at' (.yardRefill die)
      let full := at' (.yardFull die)
      let clear := at' (.yardFullClear die)
      exec .yardFillApply fill = .next (if n < 393216 then fill
        else ((keysOf d.yard).foldl (fun u key =>
          if (u.dieAt die).count ≤ 262144 then u else u.applyKey die key fun _ => true) fill).retryMoves)
      ∧ (n < 491520 ∨ d.yovl.toNat ≤ d.blocks.length → exec .yardSpill spill = .next spill)
      ∧ (491520 ≤ n → d.blocks.length < d.yovl.toNat → ∃ u block, exec .yardSpill spill = .next u ∧ u.mem = s.mem
        ∧ u.cores = s.cores ∧ (block = [] → (u.dieAt die).blocks = d.blocks ∧ (u.dieAt die).yard = d.yard)
        ∧ (block ≠ [] → block.length ≤ 4096 ∧ (u.dieAt die).blocks = d.blocks ++ [block]
          ∧ (∀ x ∈ block, s.yardMarked x.key = false)
          ∧ (∀ x ∈ block, ∀ y ∈ (u.dieAt die).yard ++ (u.dieAt die).dset, s.yardMarked y.key = false → y.key.toNat < x.key.toNat)
          ∧ ∀ x, (x ∈ d.yard ∨ x ∈ d.dset) ↔ (x ∈ block ∨ x ∈ (u.dieAt die).yard ∨ x ∈ (u.dieAt die).dset)))
      ∧ exec .yardRefill re = .next (match d.blocks.getLast? with
        | none => re
        | some b =>
          let first := re.modDie die fun y => { y with blocks := y.blocks.dropLast }
          let exact := (b.filter fun e => e.op.isFx).foldl (fun u e =>
            let r := dsetAdd (u.dieAt die).dset e
            (u.modDie die fun y => { y with dset := r.1 }).postRange? e r.2 5) first
          if 262144 ≤ n then re
          else (keysOf (b.filter fun e => !e.op.isFx)).foldl (fun u key =>
            let all := ((chain b key).filter fun e => !e.op.isFx) ++ chain (u.dieAt die).yard key
            let v := u.modDie die fun y => { y with yard := setChain y.yard key all }
            if 4 < all.length then v.applyKey die key fun _ => true else v) exact)
      ∧ exec .yardFull full = .next (
        if (520192 ≤ n ∧ d.yovl.toNat ≤ d.blocks.length) ∨ (d.full = true ∧ 491520 ≤ n) then
          ((keysOf d.all).foldl (fun u key => if (u.dieAt die).count < 491520 then u else u.fullApply die key)
            (full.modDie die fun y => { y with full := true })).push [.yardFullClear die]
        else full)
      ∧ (∀ key : Word,
        let u := s.applyKey die key fun _ => true
        let due := ((u.dieAt die).blocks.flatten ++ (u.dieAt die).dset).filter fun e =>
          e.key == key && e.op.isFx && !e.tent && !e.mark && !u.yardMarked key
        s.fullApply die key = due.foldl (fun u e => u.applyFx die e)
          (if due = [] then u else u.modDie die fun y => { y with fxapply := true }))
      ∧ exec .yardFullClear clear = .next (if n < 491520 then (clear.modDie die fun y => { y with full := false }).retryMoves else clear)
      ∧ ∀ ctx,
        let e := at' (.deferredPhaseClose die ctx)
        let due := (d.blocks.flatten ++ d.dset).filter fun x => x.op.isFx && !x.tent && !x.mark && x.key.toNat / 2 ^ 55 == ctx
        exec .deferredPhaseClose e = .next ((due.foldl (fun l x => insertEntry x l) []).foldl (fun u x =>
          if u.yardMarked x.key then
            let f (l : List Entry) : List Entry := mapIf (· == x) (fun y => { y with mark := true }) l
            u.modDie die fun y => { y with dset := f y.dset, blocks := y.blocks.map f }
          else u.applyFx die x) e))
    ∧ (∀ (x : Entry) (level cause : Nat) (old new : BitVec 128) (launch : BitVec 32) (core : Nat),
      let ctx := x.key.toNat / 2 ^ 55
      let num := look s.io.fqNum ctx 0
      let counted := s.lifeAdd (3 * 2 ^ 16 + x.op.code) 1
      let word := x.op.code * 2 ^ 59 + x.w.toNat * 2 ^ 58 + x.tent.toNat * 2 ^ 56 + x.trp.toNat * 2 ^ 55 + level * 2 ^ 52
        + cause * 2 ^ 48 + x.wexp.toNat * 2 ^ 40 + x.task.toNat
      s.postMerge x level cause old new launch core = (
        if look s.io.fqBase ctx 0 = 0 then counted
        else (counted.postMergeWords ctx [x.key.toNat, word, old.toNat % 2 ^ 64, old.toNat / 2 ^ 64, new.toNat % 2 ^ 64,
          new.toNat / 2 ^ 64, launch.toNat * 2 ^ 32 + core % 2 ^ 12 * 2 ^ 20, num]).modIo fun io =>
            { io with fqNum := put io.fqNum ctx (num + 1) }).push [.mergeFaultRecordArrival x.task launch (BitVec.ofNat 64 num) ctx])
    ∧ (∀ (ctx base size : Nat) (words : List Nat),
      let u := s.engPass ctx base
      let head := u.engNum ctx base 8
      let tail := u.engNum ctx (base + 8) 8
      let len := u.engNum ctx (base + 16) 8
      let drops := u.engNum ctx (base + 24) 8
      let place := base + 64 + size * (tail % len)
      let bad : Bool := len < 16 || 2 ^ 20 < len || 2 ^ len.log2 != len
      s.postQueue ctx base size words = match u.engTr ctx base with
        | .ok _ _ _ _ =>
          if bad = true ∨ (tail + 2 ^ 64 - head) % 2 ^ 64 = len then (u.engStore ctx (base + 24) (min (drops + 1) (2 ^ 64 - 1)) 2, false)
          else ((words.zipIdx.foldl (fun v (w, j) => v.engStore ctx (place + 8 * j) w 2) (u.engPass ctx place)).engStore ctx (base + 8)
            (tail + 1) 2, true)
        | _ => (u, false))
    ∧ (∀ (task : BitVec 40) (launch : BitVec 32) (num : Word) (ctx : Nat),
      let e := at' (.mergeFaultRecordArrival task launch num ctx)
      let n := task.toNat / 2 ^ 28
      let k := task.toNat / 2 ^ 24 % 16
      let counts (l : BitVec 32) : State := if s.io.teardown.contains (ctx % 2 ^ 9) then e
        else e.push [.counterOperation ⟨BitVec.ofNat 9 ctx, l, .faults 1, noNode, 0⟩]
      exec .mergeFaultRecordArrival e = .next (
        if task = noTask then e
        else if s.taskLive task = true then e.modThr n k fun t => { t with mergePend := some (match t.mergePend with
          | some m => min m num.toNat
          | none => num.toNat) }
        else if launch ≠ 0xFFFFFFFF then counts launch
        else match launchOf (s.coreAt n) k (BitVec.ofNat 24 task.toNat) with
          | some l => counts (BitVec.ofNat 32 l)
          | none => e))
    ∧ ∀ n k,
      let e := at' (.windowHashCompare n k)
      let hash (l : List WinMsg) : Word :=
        BitVec.ofNat 64 (leNat ((Sha.sha512 (l.flatMap fun m => leBytes 2 m.bytes.length ++ m.bytes)).take 8))
      let second (m j : Nat) (f : Thread → Thread) : State := (e.modThr n k f).modThr m j f
      exec .windowHashCompare e = .next (match s.mateAt n k with
        | none => e
        | some (m, j) => match (s.thr n k).closed, (s.thr m j).closed with
          | a :: l, b :: r =>
            if s.turn ≠ 0 ∨ (a.any fun m => !m.entries.isEmpty) = true ∧ openFor (clusterOf n) = false then
              { e with later := e.later ++ [.windowHashCompare n k] }
            else if hash a = hash b then
              let u := a.foldl (fun x w => x.deliver n w)
                ((e.modThr n k fun t => { t with closed := l }).modThr m j fun t => { t with closed := r })
              if l = [] ∨ r = [] then u else u.push [.windowHashCompare n k]
            else (second m j fun t => { t with closed := [], window := [] }).mismatch n k (hash a)
          | _, _ => e)
      ∧ ∀ h : Word,
        let t := s.thr n k
        let cl := clusterOf n
        let told := (s.lifeAdd (4 * 2 ^ 16 + dieOf n) 1).push [.taskAbort n k .pairing]
        let r := t.resume
        s.mismatch n k h =
          if t.mismatched = false then told.insertAs ⟨r.queue.toNat, r, none, some (coreOf ((cl + 1) % 288) (posOf n))⟩
          else
            let u : State := { told with fresh := told.fresh + 1 }
            let u := if s.io.teardown.contains r.ctx.toNat then u
              else u.push [.counterOperation ⟨r.ctx, r.launch, .ended false, r.node, r.queue⟩]
            (u.lifeAdd (5 * 2 ^ 16 + dieOf n) 1).postSup (supWord 2 0 0 0 (dieOf n) (s.token n k)) (Config.recordField s.fresh) h.toNat

/-- R165 to R177: the fault service makes a page that is not resident resident, with the bytes its entry names or zeros, writes
the nodes of its path and releases what waits; released items go on in arrival order, and items of a refused page end as
failures. A migration waits for what holds its page, then drains, copies, switches and routes the held accesses again. The flue
writes a record for each dirty page of its range. A sector that fails its CRC is rebuilt from its group or is lost, with the
outcome of its consumer. A kill, when the cores have had their turns of its cycle (log 43),
leaves the cores inside zeroed and is reported. -/
def Obligations.Recovery : Prop :=
  ∀ s : State,
    let io := s.io
    let at' (e : Ev) : State := { s with ev := e }
    let field (v : BitVec 128) (lo n : Nat) : Nat := v.toNat / 2 ^ lo % 2 ^ n
    let entry (v : BitVec 128) (pages : Nat) : BitVec 128 :=
      BitVec.ofNat 128 (field v 1 11 * 2 + field v 52 76 * 2 ^ 52
        + (if v.getLsbD 1 = true then (field v 12 40 + pages) % 2 ^ 40 else field v 12 40) * 2 ^ 12)
    let counts (ctx cnt : Nat) : Ev := .counterOperation ⟨BitVec.ofNat 9 ctx, BitVec.ofNat 32 cnt, .counted 1 0, noNode, 0⟩
    (∀ die ctx va cause,
      let e := at' (.pageFaultService die ctx va cause)
      let done (u : State) : Prop := exec .pageFaultService e = .next ((u.applyMarked ctx va).releasePage ctx va)
      let w := e.walkPass ctx va
      (cause = 5 ∨ cause = 6 → exec .pageFaultService e = .next e)
      ∧ (cause ≠ 5 → cause ≠ 6 → cause ≠ 1 → exec .pageFaultService e = .next (e.refusePage ctx va))
      ∧ (cause = 1 → (∀ l v p, w.walk ctx va .none ≠ .absent l v p) → done w)
      ∧ (cause = 1 → ∀ l v p, w.walk ctx va .none = .absent l v p →
        let h := w.hintPass ctx
        let home := (w.route ctx va).home
        let range := look io.rht (17 * ctx + 16) 0
        let from' : Nat × Nat × Nat := match w.hint ctx va with
          | some (a, _) => (if a / 2 ^ 51 % 2 = 1 then a / 2 ^ 52 % 4 else home, a / 2 ^ 54 % 4, a / 2 ^ 56 % 256)
          | none => (home, field range 26 2, field range 30 8)
        let used := ((h.dieAt from'.1).frame + 4095) / 4096 * 4096 + 4096
        let frame := (from'.1 + 1) * Config.dieBytes - used
        let leaf := 1 + field v 2 3 * 2 ^ 2 + frame / 4096 * 2 ^ 12 + from'.2.1 * 2 ^ 99 + field v 101 4 * 2 ^ 101
          + field v 105 3 * 2 ^ 105 + field v 108 12 * 2 ^ 108 + from'.2.2 * 2 ^ 120
        let host := field v 12 40 * 4096 + va % 2 ^ (12 + 9 * l) / 4096 * 4096
        let took := h.modDie from'.1 fun x => { x with frame := used }
        let filled : State := match s.pageKey (BitVec.ofNat 128 leaf) with
          | none => took.fillPhys frame 4096 (if v.getLsbD 1 = true then Memory.slice took.hostMem host 4096 frame else [])
          | some _ => (took.fillPhys frame 4096 []).writeLeaf (BitVec.ofNat 128 leaf) frame
              (if v.getLsbD 1 = true then Memory.readN took.hostMem host 4096 else List.replicate 4096 0)
        let path := filled.buildPath from'.1 va v l 0 p
        done (path.1.writePhysNum path.2 16 leaf)))
    ∧ (∀ die va (v : BitVec 128) l pages place,
      let used := ((s.dieAt die).frame + 8191) / 8192 * 8192 + 8192
      let node := (die + 1) * Config.dieBytes - used
      let took := s.modDie die fun x => { x with frame := used }
      let step := 2 ^ (9 * l)
      let i := va / 2 ^ (12 + 9 * l) % 2 ^ 9
      let cells := (List.range 512).flatMap fun j =>
        (List.range 16).map fun b => (node + 16 * j + b, BitVec.ofNat 8 ((entry v (pages + j * step)).toNat / 2 ^ (8 * b)))
      s.buildPath die va v 0 pages place = (s, place)
      ∧ s.buildPath die va v (l + 1) pages place =
        ((took.fillPhys node 8192 cells).writePhysNum place 16 (1 + node / 4096 * 2 ^ 12)).buildPath die va v l (pages + i * step)
          (node + 16 * i))
    ∧ (∀ pa n host, physOk pa n = true → Memory.wf s.mem = true → Memory.wf s.hostMem = true → pa % 4 = 0 → n % 4 = 0 →
      let u := s.fillPhys pa n (Memory.slice s.hostMem host n pa)
      (∀ a, Memory.read u.mem a = if pa ≤ a ∧ a < pa + n then Memory.read s.hostMem (host + (a - pa)) else Memory.read s.mem a)
      ∧ ∀ a, u.poisoned a = if pa ≤ a ∧ a < pa + n then false else s.poisoned a)
    ∧ (∀ ctx va,
      let on (l : WaitList) : Bool := l.ctx == ctx && l.page == va % 2 ^ 57 / 4096
      let items := [0, 1, 2, 3].flatMap fun die =>
        (((s.dieAt die).waits.filter on).flatMap WaitList.items).map fun w => (die, w)
      let off (u : State) (die : Nat) : State := u.modDie die fun d => { d with waits := d.waits.filter fun l => !on l }
      s.releasePage ctx va = items.foldl (fun u w => match w.2 with
        | .entry e acc here => if here = true then u.applyEntry w.1 e else u.yardTake w.1 e acc
        | .thread n k => match (u.thr n k).commit with
          | .held _ _ _ => (u.modThr n k fun t => { t with commit := .preparing }).push [.commitPrepare n k]
          | _ => match (u.thr n k).wait with
            | .page _ _ _ => u.modThr n k fun t => { t with wait := .none }
            | _ => u
        | .pipe n k => u.modThr n k fun t =>
          { t with inflight := t.inflight.map fun i => if i.phase = 1 then { i with phase := 2 } else i }
        | .record r => if u.cancelled r = true then u.unitEnd r (.ended true) else u.insertHeld r
        | .counter op => u.push [.counterOperation op]
        | .get src body => u.serveGet src body
        | .channel n i => u.push [.copyBlockDelivery n i]
        | .post c words => u.postMergeWords c words) (off (off (off (off s 0) 1) 2) 3))
    ∧ (∀ ctx va w,
      let page := va % 2 ^ 57 / 4096
      s.refuseItem ctx va w = match w with
        | .entry e _ here =>
          if e.tent = true then s.push [.abortNoticeArrival e.task .refused]
          else
            let u := s.postUnit e (if here = true then 6 else 3) 5 0 e.val
            if here = true then u else u.answerSos e false
        | .thread n k => s.push [.taskAbort n k .refused]
        | .pipe n k => s.push [.taskAbort n k .refused]
        | .record r => s.unitEnd r (.ended false)
        | .counter op => s.postUnit (repGranule op.ctx.toNat (s.ctrAt op.ctx.toNat op.index.toNat) 0) 3 5 0 0
        | .get src body =>
          let num (lo n : Nat) : Nat := leNat ((body.drop lo).take n)
          let rows := getIndices body
          let first := (num 16 8 + rows.headD 0 * num 12 2) % 2 ^ 57
          if num 0 8 / 2 ^ 32 % 2 ^ 9 ≠ ctx ∨ page < first / 4096 ∨ (first + num 12 2 - 1) / 4096 < page then s.serveGet src body
          else (s.sendTo src 3 4 (nackBody (BitVec.ofNat 64 (num 0 8)) .cancelled io.partNo 0)).serveRows src
            (BitVec.ofNat 64 (num 0 8)) (num 8 4) (num 12 2) (num 16 8) rows.tail
        | .channel n i => s.modChan n i fun c => { c.fail with waits := none }
        | .post _ _ => s)
    ∧ (∀ ctx va,
      let e := at' (.migrationComplete ctx va)
      let told := io.migr.find? fun m => m.ctx == ctx && m.va == va
      (told = none → exec .migrationComplete e = .next e)
      ∧ ∀ m, told = some m →
        let on (x : Entry) : Bool := x.key.toNat / 2 ^ 55 == ctx && decide (m.va ≤ x.key.toNat % 2 ^ 55 * 4
          ∧ x.key.toNat % 2 ^ 55 * 4 < m.va + m.size)
        let busy : Prop := ∃ x ∈ (s.dieAt m.old).all, on x = true ∧ (x.tent = true ∨ s.yardMarked x.key = true)
        (m.begun = false ∨ busy → exec .migrationComplete e = .next e)
        ∧ (m.begun = true → ¬ busy → exec .migrationComplete e = .next (e.migrate m)))
    ∧ (∀ m : Migr,
      let r := s.route m.ctx m.va
      let on (x : Entry) : Bool := x.ctx == m.ctx && decide (m.va ≤ x.va ∧ x.va < m.va + m.size)
      let fxOn (x : Entry) : Bool := x.op.isFx && !x.tent && on x
      let drained := s.drainPages m.old m.ctx m.va m.size
      let d := drained.dieAt m.old
      let less := drained.modDie m.old fun y => { y with
        dset := d.dset.filter fun x => !fxOn x
        blocks := (d.blocks.map fun b => b.filter fun x => !fxOn x).filter fun b => !b.isEmpty }
      let used := ((less.dieAt m.new).frame + m.size - 1) / m.size * m.size + m.size
      let frame := (m.new + 1) * Config.dieBytes - used
      let copied : State := match less.walk m.ctx m.va .none with
        | .ok pa leaf p _ =>
          let u := (less.modDie m.new fun y => { y with frame := used }).copyPage leaf pa frame m.size
          u.writePhysNum p 16 (field (u.pte p) 0 12 + frame / 4096 % 2 ^ 40 * 2 ^ 12 + field (u.pte p) 52 76 * 2 ^ 52)
        | _ => less
      let joined := ((d.blocks.flatten ++ d.dset).filter fxOn).foldl (fun u x =>
        let c := dsetAdd (u.dieAt m.new).dset x
        (u.modDie m.new fun y => { y with dset := c.1 }).postRange? x c.2 4) copied
      let fresh := joined.invalidate m.ctx m.va
      let named := BitVec.ofNat 128 (m.va / 4096 * 2 ^ 83 + ((m.va + m.size) / 4096 - 1) * 2 ^ 38 + r.wexp.toNat * 2 ^ 30
        + m.new * 2 ^ 28 + r.ord * 2 ^ 26 + 2 ^ 25)
      let switched : State := if m.old = m.new then drained else match fresh.migrSlot m.ctx m.va (m.size / 4096) with
        | some i => fresh.modIo fun io => { io with rht := put io.rht (17 * m.ctx + i) named }
        | none => fresh
      let held := (switched.dieAt m.old).heldAt
      let thawed := (switched.modDie m.old fun y => { y with
        frozen := y.frozen.filter fun f => f != (m.ctx, m.va / 4096, m.size / 4096)
        heldAt := y.heldAt.filter fun h => !on h.1 }).modIo fun io => { io with migr := io.migr.filter fun x => x != m }
      let sent := (held.filter fun h => on h.1).foldl (fun u h => u.yardTake (u.route h.1.ctx h.1.va).home h.1 h.2) thawed
      m.size = 2 ^ 12 ∨ m.size = 2 ^ 21 ∨ m.size = 2 ^ 30 → m.va % m.size = 0 → m.va < 2 ^ 57 → m.new < 4 →
      s.migrate m = (sent.releaseRange m.ctx m.va m.size).push [counts m.ctx m.cnt])
    ∧ (∀ (leaf : BitVec 128) old new n, physOk old n = true → physOk new n = true → old + n ≤ new ∨ new + n ≤ old →
      old % 64 = 0 → new % 64 = 0 → n % 64 = 0 → Memory.wf s.mem = true → s.pageKey leaf = none →
      (∀ k d, find? s.hbmErr k = some d → k < old / 64 ∨ (old + n) / 64 ≤ k) →
      let u := s.copyPage leaf old new n
      (∀ a, Memory.read u.mem a = if new ≤ a ∧ a < new + n then Memory.read s.mem (old + (a - new)) else Memory.read s.mem a)
      ∧ ∀ a, u.poisoned a = if new ≤ a ∧ a < new + n then s.poisoned (old + (a - new)) else s.poisoned a)
    ∧ (let e := at' .fluePageVisit
      (io.flue = none → exec .fluePageVisit e = .next e)
      ∧ ∀ f, io.flue = some f →
        let va := f.page * 4096
        let went (u : State) (n dest : Nat) : State :=
          u.modIo fun io => { io with flue := some { f with page := f.page + n, left := f.left - n, dest := dest } }
        (f.left = 0 → exec .fluePageVisit e = .next (e.push [.fluePassEnd]))
        ∧ (f.left ≠ 0 → ∀ u, (∀ l v p, e.xlate 4 f.ctx va .none = (u, .absent l v p) →
          exec .fluePageVisit e = .next (went u 1 f.dest))
          ∧ (∀ c l v, e.xlate 4 f.ctx va .none = (u, .refused c l v) → exec .fluePageVisit e = .next (went
            (if c = 5 ∨ c = 6 then u.postSup (supWord 1 c 6 l (u.route f.ctx va).home noTask) (keyOf f.ctx va) v.toNat else u)
            1 f.dest))
          ∧ ∀ pa leaf p l, e.xlate 4 f.ctx va .none = (u, .ok pa leaf p l) →
            let parts := min f.left (2 ^ (9 * l) - f.page % 2 ^ (9 * l))
            let now := u.pte p
            let clean := BitVec.ofNat 128 (field now 0 5 + field now 6 122 * 2 ^ 6)
            (now.getLsbD 5 = false → exec .fluePageVisit e = .next (went u parts f.dest))
            ∧ (now.getLsbD 5 = true →
              let home := ((u.writePhysNum p 16 clean.toNat).route f.ctx va).home
              let out := (List.range parts).foldl (fun x i =>
                  x.flueRecord f (va + 4096 * i) (pa + 4096 * i) clean (f.dest + 4288 * i))
                ((u.writePhysNum p 16 clean.toNat).drainPages home f.ctx va (4096 * parts))
              exec .fluePageVisit e = .next (went out parts (f.dest + 4288 * parts)))))
    ∧ (∀ (f : Flue) va pa (leaf : BitVec 128) dest,
      let r := (List.range 64).foldl (fun u i => (u.sectorRead (pa / 64 + i) .flue).1) s
      let map := (List.range 128).map fun j => (List.range 8).foldl (fun (b : BitVec 8) i =>
        if r.poisoned (pa + 4 * (8 * j + i)) = true then b ||| BitVec.ofNat 8 (2 ^ i) else b) 0
      let data := match r.pageKey leaf with
        | none => Memory.readN r.mem pa 4096
        | some k => Crypto.xtsUnit k va (r.readLeaf leaf pa 4096)
      f.ctx < 2 ^ 32 → s.flueRecord f va pa leaf dest = { r with hostMem := Memory.writeN r.hostMem dest (leBytes 8 va
        ++ leBytes 4 f.ctx ++ leBytes 4 f.pass ++ leBytes 8 (field leaf 64 64)
        ++ leBytes 8 (field leaf 0 12 + field leaf 52 12 * 2 ^ 52) ++ List.replicate 32 0 ++ map ++ data) })
    ∧ (let e := at' .fluePassEnd
      (io.flue = none → exec .fluePassEnd e = .next e)
      ∧ ∀ f, io.flue = some f →
        let u : State := { e with io := { io with
          flue := io.flueQ.head?, flueQ := io.flueQ.tail, flueDone := io.flueDone + 1 } }
        exec .fluePassEnd e = .next (u.push [counts f.ctx f.cnt]))
    ∧ (∀ n c,
      let e := at' (.sectorRead n c)
      let off (k : Nat) : BitVec 544 := look s.hbmErr k 0
      let check (x : BitVec 544) : Nat := x.toNat / 2 ^ 512 % 2 ^ 16
      let crc (x : BitVec 544) : Nat :=
        crc16 0x8BB7 0 (leBytes 64 (x.toNat % 2 ^ 512) ++ leBytes 2 (x.toNat / 2 ^ 528) ++ List.replicate 6 0)
      let fails (x : BitVec 544) : Bool := crc x != check x
      let others := ((List.range 16).map fun i => n / 16 * 16 + i).filter fun k => k != n
      let sum := others.foldl (fun x k => x ^^^ off k) (off (2 ^ 50 + n / 16))
      let stack := n * 64 / (48 * 2 ^ 30)
      let bank := (Config.bankOf n).toNat
      let seen := e.lifeAdd (256 * stack + bank) 1
      (find? s.hbmErr n = none → exec .sectorRead e = .next e)
      ∧ (∀ d, find? s.hbmErr n = some d → fails d = false → exec .sectorRead e = .next (e.foldError n d))
      ∧ (∀ d, find? s.hbmErr n = some d → fails d = true →
        let rebuilt := BitVec.ofNat 544 (sum.toNat % 2 ^ 512 + check d * 2 ^ 512 + sum.toNat / 2 ^ 528 * 2 ^ 528)
        let two := others.any fun k => fails (off k)
        let fixed := seen.lifeAdd (2 ^ 16 + 256 * stack + bank) 1
        (two = false → fails rebuilt = false → exec .sectorRead e = .next
          (if rebuilt = 0 then { fixed with hbmErr := del s.hbmErr n } else fixed.foldError n rebuilt))
        ∧ (two = true ∨ fails rebuilt = true →
          let kept := seen.foldError n (BitVec.ofNat 544 (d.toNat % 2 ^ 512))
          let dead := (((List.range 16).foldl (fun u i => u.setPoison (n * 64 + 4 * i) true) kept).lifeAdd
            (2 * 2 ^ 16 + stack) 1).push [.lifetimeRecordWrite]
          let post (u : State) (cause acc : Nat) (task : BitVec 40) : State :=
            ({ u with fresh := u.fresh + 2 }).postSup (supWord 5 cause acc 0 (n * 64 / Config.dieBytes) task)
              (Config.recordField u.fresh) (Config.recordField (u.fresh + 1))
          let free : State := { dead with fresh := dead.fresh + 2 }
          exec .sectorRead e = .next (match c with
            | .core m fetch task => (post dead 1 (if fetch = true then 2 else 0) task).push
                [.paddockKill ((s.paddockOf m).getD (64 + m / 8))]
            | .yard => post dead 2 1 noTask
            | .window => post dead 3 5 noTask
            | .get => post dead 4 3 noTask
            | .flue => post dead 5 6 noTask
            | .scrub => post dead 6 7 noTask
            | .walk => post free (Config.recordField dead.fresh) (Config.recordField (dead.fresh + 1)) noTask
            | .engine => post free (Config.recordField dead.fresh) (Config.recordField (dead.fresh + 1)) noTask
            | .prefetch => dead)))
      ∧ s.parityCheck n = match find? s.hbmErr (2 ^ 50 + n / 16) with
        | none => s
        | some d =>
          let group := (List.range 16).map fun i => off (n / 16 * 16 + i)
          let sum := group.foldl (fun x y => x ^^^ y) 0
          let pcrc (x : Nat) : Nat := crc16 0x8BB7 0 (leBytes 64 (x % 2 ^ 512) ++ List.replicate 6 0)
          let new := BitVec.ofNat 544 (sum.toNat % 2 ^ 512 + pcrc sum.toNat * 2 ^ 512 + sum.toNat / 2 ^ 528 * 2 ^ 528)
          if pcrc d.toNat = check d ∨ (group.any fails) = true then s
          else { s with hbmErr := if new = 0 then del s.hbmErr (2 ^ 50 + n / 16) else put s.hbmErr (2 ^ 50 + n / 16) new })
    ∧ (let n := io.scrubAt % (192 * 2 ^ 30 * 2 / 64)
      let u := ((at' .scrub).sectorRead n .scrub).1
      let u : State := { u with io := { u.io with scrubAt := u.io.scrubAt + 1 } }
      exec .scrub (at' .scrub) = .next (if n % 16 = 15 then u.parityCheck n else u))
    ∧ (∀ n,
      let e := at' (.paddockKill n)
      let inside (c : Nat) : Bool := if n < 64 then s.paddockOf c == some n else c / 8 == n - 64
      let word := look io.paddock n 0
      let fenced : State := { e with io :=
        if n < 64 then { io with paddock := put io.paddock n (word ||| 0x4000000000000000) }
        else { io with fenced := insertNat (n - 64) io.fenced } }
      let back := fenced.mangerReturn inside
      let ended := (back.cores.filter fun c => inside c.1).foldl (fun u c => c.2.slots.foldl (fun u t =>
        if t.2.status = .running then u.abort c.1 t.1 .kill else u.freeSlot c.1 t.1) u) back
      let count := ((back.cores.filter fun c => inside c.1).map fun c =>
        ((ended.coreAt c.1).stall.filter fun x => !x.tent).length).sum
      let lost := (ended.cores.filter fun c => inside c.1).flatMap fun c => c.2.colls.map fun y => (c.1, y.ctx, y.id)
      let zero : Chan := ⟨0, 0, 0, 0, 0, false, false, 0, none⟩
      let bare (c : Core) : Core := { Core.reset with
        spbase := 0, serial := c.serial, epoch := ended.now, chan := [(0, zero), (1, zero), (2, zero), (3, zero)] }
      let noted : State := { ended with io := { ended.io with collDead := ended.io.collDead ++ lost } }
      let reset := (back.cores.filter fun c => inside c.1).foldl (fun u c => u.modCore c.1 bare) noted
      let owns (cl : Nat) (w : Word) : Bool :=
        inside (coreOf cl (w.toNat / 2 ^ 61 % 8)) || inside (coreOf cl (w.toNat / 2 ^ 30 % 8))
      let freed : State := { reset with clusters := reset.clusters.map fun c => (c.1, { c.2 with
        htab := c.2.htab.map fun h => (h.1, if owns c.1 h.2 = true then h.2 &&& 0xFFFFFFFFFFEFFFFF else h.2) }) }
      exec .paddockKill e = .next (if s.turn ≠ 0 then { e with later := .paddockKill n :: e.later }
        else freed.push [.paddockKillReport n count]))
    ∧ (∀ p < 2304, Core.reset.threads = [] ∧ Core.reset.rf = [] ∧ Core.reset.ls = [] ∧ Core.reset.mboxHi = []
      ∧ Core.reset.mboxLo = [] ∧ Core.reset.stall = [] ∧ Core.reset.rcache = [] ∧ Core.reset.stats = [] ∧ Core.reset.mon = []
      ∧ Core.reset.lspr = [] ∧ Core.reset.stallhw = 96 ∧ Core.reset.stallage = 2048
      ∧ ((io.paddock.map Prod.fst).Pairwise (· < ·) → (io.paddock.all fun x => x.1 < 64) = true → s.paddockOf p =
        (List.range 64).find? fun n =>
          let w := (look io.paddock n 0).toNat
          let x := 24 * (p / 576 % 2) + p % 24
          let y := 24 * (p / 1152) + p % 576 / 24
          decide (w / 2 ^ 63 % 2 = 1 ∧ w / 2 ^ 18 % 64 ≤ x ∧ x ≤ w / 2 ^ 6 % 64 ∧ w / 2 ^ 12 % 64 ≤ y ∧ y ≤ w % 64)))
    ∧ ∀ n count,
      let e := at' (.paddockKillReport n count)
      let w := (look io.paddock n 0).toNat
      let die := if n < 64 then w / 2 ^ 12 % 2 ^ 6 / 24 * 2 + w / 2 ^ 18 % 2 ^ 6 / 24 else (n - 64) / 72
      let cause := if n < 64 then n else Config.recordField s.fresh
      exec .paddockKillReport e = .next ((({ e with fresh := s.fresh + 2 }.lifeAdd (6 * 2 ^ 16 + die) 1).postSup
        (supWord 4 cause 0 0 die noTask) count (Config.recordField (s.fresh + 1))).push [.lifetimeRecordWrite])
end

