-- ==== Sys2Proof/Laws/Decode.lean ====
section
/-! SUPPORT. The operand codes read back as the operands they stand for, and a word packed from fields that fit its format
unpacks to those fields. -/

namespace Sys2Proof

@[simp] theorem lenOf_code (l : Len) : lenOf l.code = some l := by cases l <;> rfl
@[simp] theorem tyOf_code (t : Ty) : tyOf t.code = some t := by cases t <;> rfl
@[simp] theorem opOf_code (o : MOp) : opOf o.code = some o := by cases o <;> rfl
@[simp] theorem rmOf_code (r : Rm) : rmOf r.code = some r := by cases r <;> rfl
@[simp] theorem scOf_code (c : Scope) : scOf c.code = some c := by cases c <;> rfl
@[simp] theorem engOf_code (e : Engine) : engOf e.code = some e := by cases e <;> rfl
@[simp] theorem treg_code (t : TReg) : treg t.code = some t := by cases t <;> rfl

theorem Ty.code_lt (t : Ty) : t.code < 32 := by cases t <;> decide
theorem MOp.code_lt (o : MOp) : o.code < 32 := by cases o <;> decide
theorem Rm.code_lt (r : Rm) : r.code < 8 := by cases r <;> decide
theorem Scope.code_lt (c : Scope) : c.code < 8 := by cases c <;> decide
theorem Engine.code_lt (e : Engine) : e.code < 8 := by cases e <;> decide
theorem TReg.code_lt (t : TReg) : t.code < 128 := by cases t <;> decide

@[simp] theorem xreg_code (r : XReg) : xreg r.code = some r := by
  cases r with
  | dir n => simp [XReg.code, xreg, n.isLt]
  | rel d =>
    have := d.isLt
    change xreg (64 + d.toNat) = _
    unfold xreg
    rw [if_neg (by omega), if_pos (by omega)]
    simp

theorem XReg.code_lt (r : XReg) : r.code < 128 := by
  cases r with
  | dir n => have := n.isLt; simp only [XReg.code]; omega
  | rel d => have := d.isLt; simp only [XReg.code]; omega

@[simp] theorem vreg_code (r : VReg) : vreg r.code = some r := by
  cases r with
  | v n => simp [VReg.code, vreg, n.isLt]
  | w n =>
    have := n.isLt
    change vreg (32 + n.toNat) = _
    unfold vreg
    rw [if_neg (by omega), if_pos (by omega)]
    simp
  | s n =>
    have := n.isLt
    change vreg (96 + n.toNat) = _
    unfold vreg
    rw [if_neg (by omega), if_neg (by omega), if_pos (by omega)]
    simp

theorem VReg.code_lt (r : VReg) : r.code < 128 := by
  cases r with
  | v n => have := n.isLt; simp only [VReg.code]; omega
  | w n => have := n.isLt; simp only [VReg.code]; omega
  | s n => have := n.isLt; simp only [VReg.code]; omega

@[simp] theorem sreg_code (r : SReg) : sreg (96 + r.toNat) = some r := by
  have := r.isLt
  simp [sreg]; omega

@[simp] theorem r3_toNat (r : BitVec 3) : r3 r.toNat = some r := by simp [r3, r.isLt]
@[simp] theorem r2_toNat (r : BitVec 2) : r2 r.toNat = some r := by simp [r2, r.isLt]

theorem DReg.code_lt (d : DReg) : d.code < 128 := by
  cases d with
  | x r => exact r.code_lt
  | v r => exact r.code_lt

theorem bv_lt {n : Nat} (r : BitVec n) (m : Nat) (h : 2 ^ n ≤ m := by decide) : r.toNat < m :=
  Nat.lt_of_lt_of_le r.isLt h
theorem sreg_lt (r : SReg) : 96 + r.toNat < 128 := by have := r.isLt; omega
theorem isc_lt (c : BitVec 3) : 8 * c.toNat < 64 := by have := c.isLt; omega
theorem idx_lt (i : Idx) : i.iw.toNat + 4 * i.is.toNat + 8 * i.isc.toNat < 64 := by
  have := i.iw.isLt; have := i.isc.isLt
  have := i.is.toNat_lt; omega
theorem engines_lt (a b : Engine) : a.code + 8 * b.code < 2 ^ 18 := by
  have := a.code_lt; have := b.code_lt; omega

theorem engines_fit (l : Len) (a b : Engine) : a.code + 8 * b.code < 2 ^ (l.bits - 41) :=
  Nat.lt_of_lt_of_le (engines_lt a b) (Nat.pow_le_pow_right (by decide) (by cases l <;> decide))
@[simp] theorem engOf_low (a b : Engine) : engOf ((a.code + 8 * b.code) % 8) = some a := by
  cases a <;> cases b <;> rfl
@[simp] theorem engOf_high (a b : Engine) : engOf ((a.code + 8 * b.code) / 8) = some b := by
  cases a <;> cases b <;> rfl
@[simp] theorem pairOf_code (p : Bool) : pairOf (if p = true then Ty.f64.code else 0) = some p := by cases p <;> rfl
theorem engOf_mod (a : Engine) : engOf (a.code % 8) = some a := by cases a <;> rfl
theorem pair_lt (p : Bool) : (if p = true then Ty.f64.code else 0) < 32 := by cases p <;> decide
theorem imm0_lt (l : Len) : 0 < 2 ^ (l.bits - 41) := Nat.two_pow_pos _
theorem immI_zero (l : Len) : immI l 0 = 0 := by cases l <;> rfl
theorem bar_fits (l : Len) (v : BitVec 23) : v.toNat < 2 ^ (l.bits - 41) :=
  Nat.lt_of_lt_of_le v.isLt (Nat.pow_le_pow_right (by decide) (by cases l <;> decide))
theorem Hdr.extended_ne {h : Hdr} (he : h.extended = true) : ¬h.len = .w64 := by simpa [Hdr.extended] using he
/-- An index field reads back from its bits (R220). -/
theorem idx_code (i : Idx) :
    (⟨BitVec.ofNat 2 (i.iw.toNat + 4 * i.is.toNat + 8 * i.isc.toNat),
      (i.iw.toNat + 4 * i.is.toNat + 8 * i.isc.toNat) / 4 % 2 == 1,
      BitVec.ofNat 3 ((i.iw.toNat + 4 * i.is.toNat + 8 * i.isc.toNat) / 8)⟩ : Idx) = i := by
  have h1 := i.iw.isLt
  have h2 := i.is.toNat_lt
  have h3 := i.isc.isLt
  have e1 : BitVec.ofNat 2 (i.iw.toNat + 4 * i.is.toNat + 8 * i.isc.toNat) = i.iw := by
    apply BitVec.eq_of_toNat_eq
    rw [BitVec.toNat_ofNat]
    omega
  have e2 : (i.iw.toNat + 4 * i.is.toNat + 8 * i.isc.toNat) / 4 % 2 = i.is.toNat := by omega
  have e3 : (i.iw.toNat + 4 * i.is.toNat + 8 * i.isc.toNat) / 8 = i.isc.toNat := by omega
  have e4 : (i.is.toNat == 1) = i.is := by cases i.is <;> rfl
  rw [e1, e2, e3, e4, BitVec.ofNat_toNat, BitVec.setWidth_eq]

/-- A data field reads back under the type that fits it. -/
theorem dreg_code {ty : Ty} {d : DReg} (hd : d.fits ty = true) : dreg ty d.code = some d := by
  cases d with
  | x r => cases ty <;> simp_all [DReg.fits, dreg, DReg.code]
  | v r => simp_all [DReg.fits, dreg, DReg.code]

/-- The bits of a format I immediate fit the field and its EXT. -/
theorem rawI_lt (l : Len) (v : Word) : rawI l v < 2 ^ (l.bits - 41) := by
  cases l <;> exact BitVec.isLt _

/-- The bits of a format L immediate fit the field and its EXT. -/
theorem rawL_lt (l : Len) (v : Word) : rawL l v < 2 ^ (l.bits - 23) := by
  cases l <;> exact BitVec.isLt _

/-- A format I immediate that fits its length reads back (R221). -/
theorem immI_rawI {h : Hdr} {v : Word} (hv : fitsI h v = true) : immI h.len (rawI h.len v) = v := by
  unfold fitsI at hv
  cases hl : h.len <;> rw [hl] at hv <;> simp only [immI, rawI]
  · rw [BitVec.ofNat_toNat, BitVec.setWidth_eq]; exact eq_of_beq hv
  · rw [BitVec.ofNat_toNat, BitVec.setWidth_eq]; exact eq_of_beq hv
  · apply BitVec.eq_of_getLsbD_eq
    intro k hk
    simp [BitVec.getLsbD_signExtend, hk]
    omega

/-- A format L immediate that fits its length reads back (R221). -/
theorem immL_rawL {h : Hdr} {v : Word} (hv : fitsL h v = true) : immL h.len (rawL h.len v) = v := by
  unfold fitsL at hv
  cases hl : h.len <;> rw [hl] at hv <;> simp only [immL, rawL]
  · rw [BitVec.ofNat_toNat, BitVec.setWidth_eq]; exact eq_of_beq hv
  · apply BitVec.eq_of_getLsbD_eq
    intro k hk
    simp [BitVec.getLsbD_signExtend, hk]
    omega
  · apply BitVec.eq_of_getLsbD_eq
    intro k hk
    simp [BitVec.getLsbD_signExtend, hk]
    omega

/-- The modifier's fields fit its layout, and the others are zero (R222). -/
def ModFits (long : Bool) (lay : Lay) (f : Fields) : Prop :=
  match lay with
  | .mem => f.ty < 32 ∧ f.op < 32 ∧ f.rm = 0 ∧ f.ty2 = 0 ∧ f.sc = 0
  | .arith => f.ty < 32 ∧ f.rm < 8 ∧ f.op = 0 ∧ f.t = false ∧ f.sc = 0 ∧ if long then f.ty2 < 32 else f.ty2 = 0
  | .sync => f.sc < 8 ∧ f.ty = 0 ∧ f.op = 0 ∧ f.rm = 0 ∧ f.ty2 = 0 ∧ f.t = false
  | .none => f.ty = 0 ∧ f.op = 0 ∧ f.rm = 0 ∧ f.ty2 = 0 ∧ f.sc = 0 ∧ f.t = false

/-- Bits of the immediate of format I or L in a length (R220). -/
def immBits (fmt : Fmt) (l : Len) : Nat :=
  match fmt with
  | .i => l.bits - 41
  | _ => l.bits - 23

theorem immBits_i (l : Len) : immBits .i l = l.bits - 41 := rfl
theorem immBits_l (l : Len) : immBits .l l = l.bits - 23 := rfl

/-- The fields fit a format, and those it has none of are zero (R220). -/
def Fits (fmt : Fmt) (lay : Lay) (f : Fields) : Prop :=
  match fmt with
  | .q => ModFits true lay f ∧ f.a < 128 ∧ f.b < 128 ∧ f.c < 128 ∧ f.d < 128 ∧ f.e = 0 ∧ f.f = 0 ∧ f.idx = 0 ∧ f.imm = 0
      ∧ f.count = 0 ∧ f.mask = 0
  | .x => f.len ≠ .w64 ∧ ModFits true lay f ∧ f.a < 128 ∧ f.b < 128 ∧ f.c < 128 ∧ f.d < 128 ∧ f.e < 128 ∧ f.f < 128
      ∧ f.imm < 2 ^ 18 ∧ f.idx = 0 ∧ f.count = 0 ∧ f.mask = 0
  | .i => ModFits false lay f ∧ f.a < 128 ∧ f.b < 128 ∧ f.imm < 2 ^ immBits .i f.len ∧ f.c = 0 ∧ f.d = 0 ∧ f.e = 0
      ∧ f.f = 0 ∧ f.idx = 0 ∧ f.count = 0 ∧ f.mask = 0
  | .l => ModFits false .none f ∧ f.a < 128 ∧ f.imm < 2 ^ immBits .l f.len ∧ f.b = 0 ∧ f.c = 0 ∧ f.d = 0 ∧ f.e = 0
      ∧ f.f = 0 ∧ f.idx = 0 ∧ f.count = 0 ∧ f.mask = 0
  | .g => ModFits false lay f ∧ f.a < 128 ∧ f.b < 128 ∧ f.c < 128 ∧ f.idx < 64 ∧ f.d = 0 ∧ f.e = 0 ∧ f.f = 0 ∧ f.imm = 0
      ∧ f.count = 0 ∧ f.mask = 0
  | .p => ModFits false .none f ∧ f.count < 64 ∧ f.mask < 16 ∧ f.a = 0 ∧ f.b = 0 ∧ f.c = 0 ∧ f.d = 0 ∧ f.e = 0 ∧ f.f = 0
      ∧ f.idx = 0 ∧ f.imm = 0

/-- A modifier that fits is below its layout's width. -/
theorem writeMod_lt {long : Bool} {lay : Lay} {f : Fields} (hm : ModFits long lay f) :
    writeMod long lay f < if long then 2 ^ 13 else 2 ^ 11 := by
  cases lay <;> cases long <;> cases ht : f.t <;> simp_all [ModFits, writeMod] <;> omega

/-- A modifier that fits reads back. -/
theorem readMod_write {long : Bool} {lay : Lay} {f g : Fields} (hm : ModFits long lay f)
    (hg : f = { g with ty := f.ty, rm := f.rm, ty2 := f.ty2, op := f.op, t := f.t, sc := f.sc })
    (hz : g.ty = 0 ∧ g.rm = 0 ∧ g.ty2 = 0 ∧ g.op = 0 ∧ g.t = false ∧ g.sc = 0) :
    readMod long lay (writeMod long lay f) g = some f := by
  obtain ⟨fl, fs, fo, fn, fa, fb, fc, fd, fe, ff, ty, rm, ty2, op, t, sc, fi, fm, fk, fj⟩ := f
  obtain ⟨gl, gs, go, gn, ga, gb, gc, gd, ge, gf, gty, grm, gty2, gop, gt, gsc, gi, gm, gk, gj⟩ := g
  simp only [Fields.mk.injEq, true_and] at hg hz
  obtain ⟨rfl, rfl, rfl, rfl, rfl, rfl⟩ := hz
  obtain ⟨rfl, rfl, rfl, rfl, rfl, rfl, rfl, rfl, rfl, rfl, rfl, rfl, rfl, rfl⟩ := hg
  cases lay <;> cases long <;> cases t <;> simp_all [ModFits, writeMod, readMod] <;> omega

/-- Format Q (R220). -/
theorem unpack_q {lay : Lay} {l : Len} {s : Bool} {o n a b c d m : Nat} (ho : o < 256) (hn : n < 32)
    (ha : a < 128) (hb : b < 128) (hc : c < 128) (hd : d < 128) (hm : m < 2 ^ 13) :
    unpack .q lay l (l.code + 4 * s.toNat + 8 * o + 2 ^ 11 * n + 2 ^ 16 * a + 2 ^ 23 * b + 2 ^ 30 * c + 2 ^ 37 * d + 2 ^ 44 * m) = readMod true lay m { Fields.empty ⟨l, s⟩ o n with a := a, b := b, c := c, d := d } := by
  have hl : l.code < 4 := by cases l <;> decide
  have hs : s.toNat < 2 := by cases s <;> decide
  have hse : (s.toNat == 1) = s := by cases s <;> rfl
  generalize hW : l.code + 4 * s.toNat + 8 * o + 2 ^ 11 * n + 2 ^ 16 * a + 2 ^ 23 * b + 2 ^ 30 * c + 2 ^ 37 * d + 2 ^ 44 * m = W
  have e1 : W < 2 ^ 64 := by omega
  have e2 : W / 2 ^ 2 % 2 ^ 1 = s.toNat := by omega
  have e3 : W / 2 ^ 3 % 2 ^ 8 = o := by omega
  have e4 : W / 2 ^ 11 % 2 ^ 5 = n := by omega
  have e5 : W / 2 ^ 16 % 2 ^ 7 = a := by omega
  have e6 : W / 2 ^ 23 % 2 ^ 7 = b := by omega
  have e7 : W / 2 ^ 30 % 2 ^ 7 = c := by omega
  have e8 : W / 2 ^ 37 % 2 ^ 7 = d := by omega
  have e9 : W / 2 ^ 44 % 2 ^ 20 = m := by omega
  simp only [unpack, header, bitsOf, Fields.empty, e1, e2, e3, e4, e5, e6, e7, e8, e9, hse, if_true]

/-- The fields of a word below bit 44 are not touched by what stands above it. -/
theorem bits_low {L H lo n : Nat} (h : lo + n ≤ 44) : (L + 2 ^ 44 * H) / 2 ^ lo % 2 ^ n = L / 2 ^ lo % 2 ^ n := by
  have e : 2 ^ 44 * H = 2 ^ lo * (2 ^ n * (2 ^ (44 - lo - n) * H)) := by
    rw [← Nat.mul_assoc, ← Nat.mul_assoc, ← Nat.pow_add, ← Nat.pow_add]; congr 2; omega
  rw [e, Nat.add_mul_div_left _ _ (Nat.two_pow_pos lo), Nat.add_mul_mod_self_left]

/-- Format X (R220). -/
theorem unpack_x {lay : Lay} {l : Len} {s : Bool} {o n a b c d m e g im : Nat} (ho : o < 256) (hn : n < 32)
    (ha : a < 128) (hb : b < 128) (hc : c < 128) (hd : d < 128) (hm : m < 2 ^ 13) (he : e < 128) (hg : g < 128) (him : im < 2 ^ 18) (hl6 : l ≠ .w64) :
    unpack .x lay l (l.code + 4 * s.toNat + 8 * o + 2 ^ 11 * n + 2 ^ 16 * a + 2 ^ 23 * b + 2 ^ 30 * c + 2 ^ 37 * d + 2 ^ 44 * m + 2 ^ 64 * e + 2 ^ 71 * g + 2 ^ 78 * im) = readMod true lay m { Fields.empty ⟨l, s⟩ o n with a := a, b := b, c := c, d := d, e := e, f := g, imm := im } := by
  have hl : l.code < 4 := by cases l <;> decide
  have hs : s.toNat < 2 := by cases s <;> decide
  have hse : (s.toNat == 1) = s := by cases s <;> rfl
  obtain ⟨H, hH⟩ : ∃ H, H = m + 2 ^ 20 * e + 2 ^ 27 * g + 2 ^ 34 * im := ⟨_, rfl⟩
  obtain ⟨L, hL⟩ : ∃ L, L = l.code + 4 * s.toNat + 8 * o + 2 ^ 11 * n + 2 ^ 16 * a + 2 ^ 23 * b + 2 ^ 30 * c + 2 ^ 37 * d := ⟨_, rfl⟩
  have hW : L + 2 ^ 44 * m + 2 ^ 64 * e + 2 ^ 71 * g + 2 ^ 78 * im = L + 2 ^ 44 * H := by omega
  have e2 : L / 2 ^ 2 % 2 ^ 1 = s.toNat := by omega
  have e3 : L / 2 ^ 3 % 2 ^ 8 = o := by omega
  have e4 : L / 2 ^ 11 % 2 ^ 5 = n := by omega
  have e5 : L / 2 ^ 16 % 2 ^ 7 = a := by omega
  have e6 : L / 2 ^ 23 % 2 ^ 7 = b := by omega
  have e7 : L / 2 ^ 30 % 2 ^ 7 = c := by omega
  have e8 : L / 2 ^ 37 % 2 ^ 7 = d := by omega
  have hL4 : L < 2 ^ 44 := by omega
  have hH5 : H < 2 ^ 52 := by omega
  have e9 : H % 2 ^ 20 = m := by omega
  have e10 : H / 2 ^ 20 % 2 ^ 7 = e := by omega
  have e11 : H / 2 ^ 27 % 2 ^ 7 = g := by omega
  have e12 : H / 2 ^ 34 % 2 ^ 18 = im := by omega
  rw [← hL, hW]
  clear hL hH hW
  have f1 : L + 2 ^ 44 * H < 2 ^ 96 := by omega
  have f9 : (L + 2 ^ 44 * H) / 2 ^ 44 % 2 ^ 20 = H % 2 ^ 20 := by omega
  have f10 : (L + 2 ^ 44 * H) / 2 ^ 64 % 2 ^ 7 = H / 2 ^ 20 % 2 ^ 7 := by omega
  have f11 : (L + 2 ^ 44 * H) / 2 ^ 71 % 2 ^ 7 = H / 2 ^ 27 % 2 ^ 7 := by omega
  have f12 : (L + 2 ^ 44 * H) / 2 ^ 78 % 2 ^ 18 = H / 2 ^ 34 % 2 ^ 18 := by omega
  simp only [unpack, header, bitsOf, Fields.empty, hl6, if_false, f1, if_true, f9, f10, f11, f12, e9, e10, e11, e12]
  rw [bits_low (by decide), bits_low (by decide), bits_low (by decide), bits_low (by decide), bits_low (by decide),
    bits_low (by decide), bits_low (by decide), e2, e3, e4, e5, e6, e7, e8, hse]

/-- Format I (R220). -/
theorem unpack_i {lay : Lay} {l : Len} {s : Bool} {o n a b m im : Nat} (ho : o < 256) (hn : n < 32)
    (ha : a < 128) (hb : b < 128) (hm : m < 2 ^ 11) :
    unpack .i lay l (l.code + 4 * s.toNat + 8 * o + 2 ^ 11 * n + 2 ^ 16 * a + 2 ^ 23 * b + 2 ^ 30 * m + 2 ^ 41 * im) = readMod false lay m { Fields.empty ⟨l, s⟩ o n with a := a, b := b, imm := im } := by
  have hl : l.code < 4 := by cases l <;> decide
  have hs : s.toNat < 2 := by cases s <;> decide
  have hse : (s.toNat == 1) = s := by cases s <;> rfl
  generalize hW : l.code + 4 * s.toNat + 8 * o + 2 ^ 11 * n + 2 ^ 16 * a + 2 ^ 23 * b + 2 ^ 30 * m + 2 ^ 41 * im = W
  have e2 : W / 2 ^ 2 % 2 ^ 1 = s.toNat := by omega
  have e3 : W / 2 ^ 3 % 2 ^ 8 = o := by omega
  have e4 : W / 2 ^ 11 % 2 ^ 5 = n := by omega
  have e5 : W / 2 ^ 16 % 2 ^ 7 = a := by omega
  have e6 : W / 2 ^ 23 % 2 ^ 7 = b := by omega
  have e7 : W / 2 ^ 30 % 2 ^ 11 = m := by omega
  have e8 : W / 2 ^ 41 = im := by omega
  simp only [unpack, header, bitsOf, Fields.empty, e2, e3, e4, e5, e6, e7, e8, hse]

/-- Format L (R220). -/
theorem unpack_l {lay : Lay} {l : Len} {s : Bool} {o n a im : Nat} (ho : o < 256) (hn : n < 32)
    (ha : a < 128) :
    unpack .l lay l (l.code + 4 * s.toNat + 8 * o + 2 ^ 11 * n + 2 ^ 16 * a + 2 ^ 23 * im) = some { Fields.empty ⟨l, s⟩ o n with a := a, imm := im } := by
  have hl : l.code < 4 := by cases l <;> decide
  have hs : s.toNat < 2 := by cases s <;> decide
  have hse : (s.toNat == 1) = s := by cases s <;> rfl
  generalize hW : l.code + 4 * s.toNat + 8 * o + 2 ^ 11 * n + 2 ^ 16 * a + 2 ^ 23 * im = W
  have e2 : W / 2 ^ 2 % 2 ^ 1 = s.toNat := by omega
  have e3 : W / 2 ^ 3 % 2 ^ 8 = o := by omega
  have e4 : W / 2 ^ 11 % 2 ^ 5 = n := by omega
  have e5 : W / 2 ^ 16 % 2 ^ 7 = a := by omega
  have e6 : W / 2 ^ 23 = im := by omega
  simp only [unpack, header, bitsOf, Fields.empty, e2, e3, e4, e5, e6, hse]

/-- Format G (R220). -/
theorem unpack_g {lay : Lay} {l : Len} {s : Bool} {o n a b c m ix : Nat} (ho : o < 256) (hn : n < 32)
    (ha : a < 128) (hb : b < 128) (hc : c < 128) (hm : m < 2 ^ 11) (hix : ix < 64) :
    unpack .g lay l (l.code + 4 * s.toNat + 8 * o + 2 ^ 11 * n + 2 ^ 16 * a + 2 ^ 23 * b + 2 ^ 30 * c + 2 ^ 37 * m + 2 ^ 48 * ix) = readMod false lay m { Fields.empty ⟨l, s⟩ o n with a := a, b := b, c := c, idx := ix } := by
  have hl : l.code < 4 := by cases l <;> decide
  have hs : s.toNat < 2 := by cases s <;> decide
  have hse : (s.toNat == 1) = s := by cases s <;> rfl
  generalize hW : l.code + 4 * s.toNat + 8 * o + 2 ^ 11 * n + 2 ^ 16 * a + 2 ^ 23 * b + 2 ^ 30 * c + 2 ^ 37 * m + 2 ^ 48 * ix = W
  have e1 : W < 2 ^ 54 := by omega
  have e2 : W / 2 ^ 2 % 2 ^ 1 = s.toNat := by omega
  have e3 : W / 2 ^ 3 % 2 ^ 8 = o := by omega
  have e4 : W / 2 ^ 11 % 2 ^ 5 = n := by omega
  have e5 : W / 2 ^ 16 % 2 ^ 7 = a := by omega
  have e6 : W / 2 ^ 23 % 2 ^ 7 = b := by omega
  have e7 : W / 2 ^ 30 % 2 ^ 7 = c := by omega
  have e8 : W / 2 ^ 37 % 2 ^ 11 = m := by omega
  have e9 : W / 2 ^ 48 = ix := by omega
  simp only [unpack, header, bitsOf, Fields.empty, e1, e2, e3, e4, e5, e6, e7, e8, e9, hse, if_true]

/-- Format P (R220). -/
theorem unpack_p {lay : Lay} {l : Len} {s : Bool} {o n ct mk : Nat} (ho : o < 256) (hn : n < 32)
    (hct : ct < 64) (hmk : mk < 16) :
    unpack .p lay l (l.code + 4 * s.toNat + 8 * o + 2 ^ 11 * n + 2 ^ 16 * ct + 2 ^ 22 * mk) = some { Fields.empty ⟨l, s⟩ o n with count := ct, mask := mk } := by
  have hl : l.code < 4 := by cases l <;> decide
  have hs : s.toNat < 2 := by cases s <;> decide
  have hse : (s.toNat == 1) = s := by cases s <;> rfl
  generalize hW : l.code + 4 * s.toNat + 8 * o + 2 ^ 11 * n + 2 ^ 16 * ct + 2 ^ 22 * mk = W
  have e1 : W < 2 ^ 26 := by omega
  have e2 : W / 2 ^ 2 % 2 ^ 1 = s.toNat := by omega
  have e3 : W / 2 ^ 3 % 2 ^ 8 = o := by omega
  have e4 : W / 2 ^ 11 % 2 ^ 5 = n := by omega
  have e5 : W / 2 ^ 16 % 2 ^ 6 = ct := by omega
  have e6 : W / 2 ^ 22 % 2 ^ 4 = mk := by omega
  simp only [unpack, header, bitsOf, Fields.empty, e1, e2, e3, e4, e5, e6, hse, if_true]

/-- A word packed from fields that fit unpacks to those fields (R218, R220, R222). -/
theorem unpack_pack {fmt : Fmt} {lay : Lay} {f : Fields} (ho : f.opc < 256) (hn : f.fn < 32) (hf : Fits fmt lay f) :
    unpack fmt lay f.len (pack fmt lay f) = some f := by
  cases fmt with
  | q =>
    obtain ⟨hm, ha, hb, hc, hd, he, hg, hx, hi, hk, hj⟩ := hf
    refine (unpack_q ho hn ha hb hc hd (writeMod_lt hm)).trans (readMod_write hm ?_ ⟨rfl, rfl, rfl, rfl, rfl, rfl⟩)
    cases f; simp_all [Fields.empty]
  | x =>
    obtain ⟨hl, hm, ha, hb, hc, hd, he, hg, hi, hx, hk, hj⟩ := hf
    refine (unpack_x ho hn ha hb hc hd (writeMod_lt hm) he hg hi hl).trans
      (readMod_write hm ?_ ⟨rfl, rfl, rfl, rfl, rfl, rfl⟩)
    cases f; simp_all [Fields.empty]
  | i =>
    obtain ⟨hm, ha, hb, hi, hc, hd, he, hg, hx, hk, hj⟩ := hf
    refine (unpack_i ho hn ha hb (writeMod_lt hm)).trans (readMod_write hm ?_ ⟨rfl, rfl, rfl, rfl, rfl, rfl⟩)
    cases f; simp_all [Fields.empty]
  | l =>
    obtain ⟨⟨h1, h2, h3, h4, h5, h6⟩, ha, hi, hb, hc, hd, he, hg, hx, hk, hj⟩ := hf
    refine (unpack_l ho hn ha).trans ?_
    cases f; simp_all [Fields.empty]
  | g =>
    obtain ⟨hm, ha, hb, hc, hx, hd, he, hg, hi, hk, hj⟩ := hf
    refine (unpack_g ho hn ha hb hc (writeMod_lt hm) hx).trans (readMod_write hm ?_ ⟨rfl, rfl, rfl, rfl, rfl, rfl⟩)
    cases f; simp_all [Fields.empty]
  | p =>
    obtain ⟨⟨h1, h2, h3, h4, h5, h6⟩, hk, hj, ha, hb, hc, hd, he, hg, hx, hi⟩ := hf
    refine (unpack_p ho hn hk hj).trans ?_
    cases f; simp_all [Fields.empty]

/-- The opcode of a packed word is at bits 3 to 15 (R218). -/
theorem pack_op {fmt : Fmt} {lay : Lay} {f : Fields} (ho : f.opc < 256) (hn : f.fn < 32) :
    bitsOf (pack fmt lay f) 3 8 = f.opc ∧ bitsOf (pack fmt lay f) 11 5 = f.fn := by
  have hl : f.len.code < 4 := by cases f.len <;> decide
  have hs : f.sw.toNat < 2 := by cases f.sw <;> decide
  cases fmt <;> simp only [bitsOf, pack] <;> constructor <;> omega

/-- An instruction whose fields fit its cell, and whose fields build it again, decodes from its own word. -/
theorem decode_of_fields {h : Hdr} {i : Instr} {f : Fields} {cell : Cell} {w : Nat} (he : encodeWord h i = some w)
    (hi : i.wf h = true) (hf : fieldsOf h i = some f) (hh : f.len = h.len ∧ f.sw = h.sw) (hc : cellOf f.opc f.fn = some cell)
    (ho : f.opc < 256) (hn : f.fn < 32) (hfit : Fits cell.fmt cell.lay f) (hb : build f = some i) :
    decodeWord h.len w = some (h, i) := by
  simp only [encodeWord, hf, hc, Option.bind_eq_bind, Option.bind_some, Option.some.injEq] at he
  subst he
  have hp := pack_op (fmt := cell.fmt) (lay := cell.lay) ho hn
  have hu := unpack_pack ho hn hfit
  rw [hh.1] at hu
  simp only [decodeWord, hp.1, hp.2, hc, Option.bind_eq_bind, Option.bind_some, hu, hb, hh.1, hh.2, hi, if_true]

end Sys2Proof
end

