-- ==== Sys2Proof/Laws/Exec.lean ====
section
/-! SUPPORT. The dispatch, arm by arm: what `exec` of each constructor calls. -/

namespace Sys2Proof.Machine

set_option Elab.async false

@[simp] theorem exec_add (ty : Ty) (a b c : XReg) (s : State) :
    exec (.add ty a b c) s = execAdd ty a b c s := rfl
@[simp] theorem exec_sub (ty : Ty) (a b c : XReg) (s : State) :
    exec (.sub ty a b c) s = execSub ty a b c s := rfl
@[simp] theorem exec_mul (ty : Ty) (a b c : XReg) (s : State) :
    exec (.mul ty a b c) s = execMul ty a b c s := rfl
@[simp] theorem exec_mulh (ty : Ty) (a b c : XReg) (s : State) :
    exec (.mulh ty a b c) s = execMulh ty a b c s := rfl
@[simp] theorem exec_div (ty : Ty) (a b c : XReg) (s : State) :
    exec (.div ty a b c) s = execDiv ty a b c s := rfl
@[simp] theorem exec_rem (ty : Ty) (a b c : XReg) (s : State) :
    exec (.rem ty a b c) s = execRem ty a b c s := rfl
@[simp] theorem exec_min (ty : Ty) (a b c : XReg) (s : State) :
    exec (.min ty a b c) s = execMin ty a b c s := rfl
@[simp] theorem exec_max (ty : Ty) (a b c : XReg) (s : State) :
    exec (.max ty a b c) s = execMax ty a b c s := rfl
@[simp] theorem exec_abs (ty : Ty) (a b : XReg) (s : State) :
    exec (.abs ty a b) s = execAbs ty a b s := rfl
@[simp] theorem exec_addImm (ty : Ty) (a b : XReg) (imm : Word) (s : State) :
    exec (.addImm ty a b imm) s = execAddImm ty a b imm s := rfl
@[simp] theorem exec_subImm (ty : Ty) (a b : XReg) (imm : Word) (s : State) :
    exec (.subImm ty a b imm) s = execSubImm ty a b imm s := rfl
@[simp] theorem exec_mulImm (ty : Ty) (a b : XReg) (imm : Word) (s : State) :
    exec (.mulImm ty a b imm) s = execMulImm ty a b imm s := rfl
@[simp] theorem exec_minImm (ty : Ty) (a b : XReg) (imm : Word) (s : State) :
    exec (.minImm ty a b imm) s = execMinImm ty a b imm s := rfl
@[simp] theorem exec_maxImm (ty : Ty) (a b : XReg) (imm : Word) (s : State) :
    exec (.maxImm ty a b imm) s = execMaxImm ty a b imm s := rfl
@[simp] theorem exec_and (ty : Ty) (a b c : XReg) (s : State) :
    exec (.and ty a b c) s = execAnd ty a b c s := rfl
@[simp] theorem exec_or (ty : Ty) (a b c : XReg) (s : State) :
    exec (.or ty a b c) s = execOr ty a b c s := rfl
@[simp] theorem exec_xor (ty : Ty) (a b c : XReg) (s : State) :
    exec (.xor ty a b c) s = execXor ty a b c s := rfl
@[simp] theorem exec_andn (ty : Ty) (a b c : XReg) (s : State) :
    exec (.andn ty a b c) s = execAndn ty a b c s := rfl
@[simp] theorem exec_orn (ty : Ty) (a b c : XReg) (s : State) :
    exec (.orn ty a b c) s = execOrn ty a b c s := rfl
@[simp] theorem exec_xnor (ty : Ty) (a b c : XReg) (s : State) :
    exec (.xnor ty a b c) s = execXnor ty a b c s := rfl
@[simp] theorem exec_andImm (ty : Ty) (a b : XReg) (imm : Word) (s : State) :
    exec (.andImm ty a b imm) s = execAndImm ty a b imm s := rfl
@[simp] theorem exec_orImm (ty : Ty) (a b : XReg) (imm : Word) (s : State) :
    exec (.orImm ty a b imm) s = execOrImm ty a b imm s := rfl
@[simp] theorem exec_xorImm (ty : Ty) (a b : XReg) (imm : Word) (s : State) :
    exec (.xorImm ty a b imm) s = execXorImm ty a b imm s := rfl
@[simp] theorem exec_sll (ty : Ty) (a b c : XReg) (s : State) :
    exec (.sll ty a b c) s = execSll ty a b c s := rfl
@[simp] theorem exec_srl (ty : Ty) (a b c : XReg) (s : State) :
    exec (.srl ty a b c) s = execSrl ty a b c s := rfl
@[simp] theorem exec_sra (ty : Ty) (a b c : XReg) (s : State) :
    exec (.sra ty a b c) s = execSra ty a b c s := rfl
@[simp] theorem exec_rol (ty : Ty) (a b c : XReg) (s : State) :
    exec (.rol ty a b c) s = execRol ty a b c s := rfl
@[simp] theorem exec_ror (ty : Ty) (a b c : XReg) (s : State) :
    exec (.ror ty a b c) s = execRor ty a b c s := rfl
@[simp] theorem exec_sllImm (ty : Ty) (a b : XReg) (imm : Word) (s : State) :
    exec (.sllImm ty a b imm) s = execSllImm ty a b imm s := rfl
@[simp] theorem exec_srlImm (ty : Ty) (a b : XReg) (imm : Word) (s : State) :
    exec (.srlImm ty a b imm) s = execSrlImm ty a b imm s := rfl
@[simp] theorem exec_sraImm (ty : Ty) (a b : XReg) (imm : Word) (s : State) :
    exec (.sraImm ty a b imm) s = execSraImm ty a b imm s := rfl
@[simp] theorem exec_rolImm (ty : Ty) (a b : XReg) (imm : Word) (s : State) :
    exec (.rolImm ty a b imm) s = execRolImm ty a b imm s := rfl
@[simp] theorem exec_rorImm (ty : Ty) (a b : XReg) (imm : Word) (s : State) :
    exec (.rorImm ty a b imm) s = execRorImm ty a b imm s := rfl
@[simp] theorem exec_bext (ty : Ty) (a b c d : XReg) (s : State) :
    exec (.bext ty a b c d) s = execBext ty a b c d s := rfl
@[simp] theorem exec_bextz (ty : Ty) (a b c d : XReg) (s : State) :
    exec (.bextz ty a b c d) s = execBextz ty a b c d s := rfl
@[simp] theorem exec_bins (ty : Ty) (a b c d : XReg) (s : State) :
    exec (.bins ty a b c d) s = execBins ty a b c d s := rfl
@[simp] theorem exec_clz (ty : Ty) (a b : XReg) (s : State) :
    exec (.clz ty a b) s = execClz ty a b s := rfl
@[simp] theorem exec_ctz (ty : Ty) (a b : XReg) (s : State) :
    exec (.ctz ty a b) s = execCtz ty a b s := rfl
@[simp] theorem exec_popc (ty : Ty) (a b : XReg) (s : State) :
    exec (.popc ty a b) s = execPopc ty a b s := rfl
@[simp] theorem exec_bswap (ty : Ty) (a b : XReg) (s : State) :
    exec (.bswap ty a b) s = execBswap ty a b s := rfl
@[simp] theorem exec_lea (a b c : XReg) (isc : BitVec 3) (s : State) :
    exec (.lea a b c isc) s = execLea a b c isc s := rfl
@[simp] theorem exec_cmpEq (ty : Ty) (a : PReg) (b c : XReg) (s : State) :
    exec (.cmpEq ty a b c) s = execCmpEq ty a b c s := rfl
@[simp] theorem exec_cmpNe (ty : Ty) (a : PReg) (b c : XReg) (s : State) :
    exec (.cmpNe ty a b c) s = execCmpNe ty a b c s := rfl
@[simp] theorem exec_cmpLt (ty : Ty) (a : PReg) (b c : XReg) (s : State) :
    exec (.cmpLt ty a b c) s = execCmpLt ty a b c s := rfl
@[simp] theorem exec_cmpLe (ty : Ty) (a : PReg) (b c : XReg) (s : State) :
    exec (.cmpLe ty a b c) s = execCmpLe ty a b c s := rfl
@[simp] theorem exec_cmpGt (ty : Ty) (a : PReg) (b c : XReg) (s : State) :
    exec (.cmpGt ty a b c) s = execCmpGt ty a b c s := rfl
@[simp] theorem exec_cmpGe (ty : Ty) (a : PReg) (b c : XReg) (s : State) :
    exec (.cmpGe ty a b c) s = execCmpGe ty a b c s := rfl
@[simp] theorem exec_cmpEqImm (ty : Ty) (a : PReg) (b : XReg) (imm : Word) (s : State) :
    exec (.cmpEqImm ty a b imm) s = execCmpEqImm ty a b imm s := rfl
@[simp] theorem exec_cmpNeImm (ty : Ty) (a : PReg) (b : XReg) (imm : Word) (s : State) :
    exec (.cmpNeImm ty a b imm) s = execCmpNeImm ty a b imm s := rfl
@[simp] theorem exec_cmpLtImm (ty : Ty) (a : PReg) (b : XReg) (imm : Word) (s : State) :
    exec (.cmpLtImm ty a b imm) s = execCmpLtImm ty a b imm s := rfl
@[simp] theorem exec_cmpLeImm (ty : Ty) (a : PReg) (b : XReg) (imm : Word) (s : State) :
    exec (.cmpLeImm ty a b imm) s = execCmpLeImm ty a b imm s := rfl
@[simp] theorem exec_cmpGtImm (ty : Ty) (a : PReg) (b : XReg) (imm : Word) (s : State) :
    exec (.cmpGtImm ty a b imm) s = execCmpGtImm ty a b imm s := rfl
@[simp] theorem exec_cmpGeImm (ty : Ty) (a : PReg) (b : XReg) (imm : Word) (s : State) :
    exec (.cmpGeImm ty a b imm) s = execCmpGeImm ty a b imm s := rfl
@[simp] theorem exec_pand (a b c : PReg) (s : State) :
    exec (.pand a b c) s = execPand a b c s := rfl
@[simp] theorem exec_por (a b c : PReg) (s : State) :
    exec (.por a b c) s = execPor a b c s := rfl
@[simp] theorem exec_pxor (a b c : PReg) (s : State) :
    exec (.pxor a b c) s = execPxor a b c s := rfl
@[simp] theorem exec_pandn (a b c : PReg) (s : State) :
    exec (.pandn a b c) s = execPandn a b c s := rfl
@[simp] theorem exec_pnot (a b : PReg) (s : State) :
    exec (.pnot a b) s = execPnot a b s := rfl
@[simp] theorem exec_sel (a : XReg) (b : PReg) (c d : XReg) (s : State) :
    exec (.sel a b c d) s = execSel a b c d s := rfl
@[simp] theorem exec_movXX (a b : XReg) (s : State) :
    exec (.movXX a b) s = execMovXX a b s := rfl
@[simp] theorem exec_movXP (a : XReg) (b : PReg) (s : State) :
    exec (.movXP a b) s = execMovXP a b s := rfl
@[simp] theorem exec_movPX (a : PReg) (b : XReg) (s : State) :
    exec (.movPX a b) s = execMovPX a b s := rfl
@[simp] theorem exec_li (a : XReg) (imm : Word) (s : State) :
    exec (.li a imm) s = execLi a imm s := rfl
@[simp] theorem exec_khash (a b : XReg) (s : State) :
    exec (.khash a b) s = execKhash a b s := rfl
@[simp] theorem exec_br (a : PReg) (imm : Word) (s : State) :
    exec (.br a imm) s = execBr a imm s := rfl
@[simp] theorem exec_brn (a : PReg) (imm : Word) (s : State) :
    exec (.brn a imm) s = execBrn a imm s := rfl
@[simp] theorem exec_jr (b : XReg) (s : State) :
    exec (.jr b) s = execJr b s := rfl
@[simp] theorem exec_call (a : XReg) (imm : Word) (s : State) :
    exec (.call a imm) s = execCall a imm s := rfl
@[simp] theorem exec_callr (a b : XReg) (s : State) :
    exec (.callr a b) s = execCallr a b s := rfl
@[simp] theorem exec_ret (b : XReg) (s : State) :
    exec (.ret b) s = execRet b s := rfl
@[simp] theorem exec_loop (a : XReg) (imm : Word) (s : State) :
    exec (.loop a imm) s = execLoop a imm s := rfl
@[simp] theorem exec_rep (count : BitVec 6) (mask : BitVec 4) (s : State) :
    exec (.rep count mask) s = execRep count mask s := rfl
@[simp] theorem exec_ixset (b : XReg) (imm : Word) (s : State) :
    exec (.ixset b imm) s = execIxset b imm s := rfl
@[simp] theorem exec_ixadd (b : XReg) (imm : Word) (s : State) :
    exec (.ixadd b imm) s = execIxadd b imm s := rfl
@[simp] theorem exec_ixget (a : XReg) (s : State) :
    exec (.ixget a) s = execIxget a s := rfl
@[simp] theorem exec_mfts (a : XReg) (b : TReg) (s : State) :
    exec (.mfts a b) s = execMfts a b s := rfl
@[simp] theorem exec_mtts (a : TReg) (b : XReg) (s : State) :
    exec (.mtts a b) s = execMtts a b s := rfl
@[simp] theorem exec_rdcyc (a : XReg) (s : State) :
    exec (.rdcyc a) s = execRdcyc a s := rfl
@[simp] theorem exec_brk (imm : Word) (s : State) :
    exec (.brk imm) s = execBrk imm s := rfl
@[simp] theorem exec_trap (imm : Word) (s : State) :
    exec (.trap imm) s = execTrap imm s := rfl
@[simp] theorem exec_ld (ty : Ty) (a : DReg) (b : XReg) (imm : Word) (s : State) :
    exec (.ld ty a b imm) s = execLd ty a b imm s := rfl
@[simp] theorem exec_ldIndexed (ty : Ty) (a : DReg) (b c : XReg) (isc : BitVec 3) (s : State) :
    exec (.ldIndexed ty a b c isc) s = execLdIndexed ty a b c isc s := rfl
@[simp] theorem exec_ldLs (ty : Ty) (a : DReg) (b : XReg) (imm : Word) (s : State) :
    exec (.ldLs ty a b imm) s = execLdLs ty a b imm s := rfl
@[simp] theorem exec_ldHandleDisp (ty : Ty) (a : DReg) (b : XReg) (imm : Word) (s : State) :
    exec (.ldHandleDisp ty a b imm) s = execLdHandleDisp ty a b imm s := rfl
@[simp] theorem exec_ldHandleReg (ty : Ty) (a : DReg) (b c : XReg) (s : State) :
    exec (.ldHandleReg ty a b c) s = execLdHandleReg ty a b c s := rfl
@[simp] theorem exec_st (ty : Ty) (op : MOp) (t : Bool) (a : DReg) (b : XReg) (imm : Word) (s : State) :
    exec (.st ty op t a b imm) s = execSt ty op t a b imm s := rfl
@[simp] theorem exec_stIndexed (ty : Ty) (op : MOp) (t : Bool) (a : DReg) (b c : XReg) (isc : BitVec 3) (s : State) :
    exec (.stIndexed ty op t a b c isc) s = execStIndexed ty op t a b c isc s := rfl
@[simp] theorem exec_stLs (ty : Ty) (a : DReg) (b : XReg) (imm : Word) (s : State) :
    exec (.stLs ty a b imm) s = execStLs ty a b imm s := rfl
@[simp] theorem exec_stHandleDisp (ty : Ty) (a : DReg) (b : XReg) (imm : Word) (s : State) :
    exec (.stHandleDisp ty a b imm) s = execStHandleDisp ty a b imm s := rfl
@[simp] theorem exec_stHandleReg (ty : Ty) (a : DReg) (b c : XReg) (s : State) :
    exec (.stHandleReg ty a b c) s = execStHandleReg ty a b c s := rfl
@[simp] theorem exec_fetch (ty : Ty) (op : MOp) (a b c : XReg) (s : State) :
    exec (.fetch ty op a b c) s = execFetch ty op a b c s := rfl
@[simp] theorem exec_gather (ty : Ty) (a : VReg) (b : XReg) (c : VReg) (idx : Idx) (s : State) :
    exec (.gather ty a b c idx) s = execGather ty a b c idx s := rfl
@[simp] theorem exec_scatter (ty : Ty) (op : MOp) (t : Bool) (a : VReg) (b : XReg) (c : VReg) (idx : Idx) (s : State) :
    exec (.scatter ty op t a b c idx) s = execScatter ty op t a b c idx s := rfl
@[simp] theorem exec_ldt (ty : Ty) (a : VReg) (b c : XReg) (s : State) :
    exec (.ldt ty a b c) s = execLdt ty a b c s := rfl
@[simp] theorem exec_unpk (ty ty2 : Ty) (rm : Rm) (a b : VReg) (c : XReg) (s : State) :
    exec (.unpk ty ty2 rm a b c) s = execUnpk ty ty2 rm a b c s := rfl
@[simp] theorem exec_prefetch (b : XReg) (imm : Word) (s : State) :
    exec (.prefetch b imm) s = execPrefetch b imm s := rfl
@[simp] theorem exec_drain (sc : Scope) (b c : XReg) (s : State) :
    exec (.drain sc b c) s = execDrain sc b c s := rfl
@[simp] theorem exec_drainApply (sc : Scope) (b c : XReg) (s : State) :
    exec (.drainApply sc b c) s = execDrainApply sc b c s := rfl
@[simp] theorem exec_fenceRel (sc : Scope) (s : State) :
    exec (.fenceRel sc) s = execFenceRel sc s := rfl
@[simp] theorem exec_fenceAcq (sc : Scope) (s : State) :
    exec (.fenceAcq sc) s = execFenceAcq sc s := rfl
@[simp] theorem exec_fenceAr (sc : Scope) (s : State) :
    exec (.fenceAr sc) s = execFenceAr sc s := rfl
@[simp] theorem exec_fenceSc (sc : Scope) (s : State) :
    exec (.fenceSc sc) s = execFenceSc sc s := rfl
@[simp] theorem exec_fenceX (ea eb : Engine) (s : State) :
    exec (.fenceX ea eb) s = execFenceX ea eb s := rfl
@[simp] theorem exec_bar (sc : Scope) (b : XReg) (imm : BitVec 23) (s : State) :
    exec (.bar sc b imm) s = execBar sc b imm s := rfl
@[simp] theorem exec_hgive (b c : XReg) (s : State) :
    exec (.hgive b c) s = execHgive b c s := rfl
@[simp] theorem exec_htake (a b : XReg) (s : State) :
    exec (.htake a b) s = execHtake a b s := rfl
@[simp] theorem exec_vaddF (ty : Ty) (rm : Rm) (a b c : VReg) (s : State) :
    exec (.vaddF ty rm a b c) s = execVaddF ty rm a b c s := rfl
@[simp] theorem exec_vsubF (ty : Ty) (rm : Rm) (a b c : VReg) (s : State) :
    exec (.vsubF ty rm a b c) s = execVsubF ty rm a b c s := rfl
@[simp] theorem exec_vmulF (ty : Ty) (rm : Rm) (a b c : VReg) (s : State) :
    exec (.vmulF ty rm a b c) s = execVmulF ty rm a b c s := rfl
@[simp] theorem exec_vdiv (ty : Ty) (rm : Rm) (a b c : VReg) (s : State) :
    exec (.vdiv ty rm a b c) s = execVdiv ty rm a b c s := rfl
@[simp] theorem exec_vminF (ty : Ty) (a b c : VReg) (s : State) :
    exec (.vminF ty a b c) s = execVminF ty a b c s := rfl
@[simp] theorem exec_vmaxF (ty : Ty) (a b c : VReg) (s : State) :
    exec (.vmaxF ty a b c) s = execVmaxF ty a b c s := rfl
@[simp] theorem exec_vabsF (ty : Ty) (a b : VReg) (s : State) :
    exec (.vabsF ty a b) s = execVabsF ty a b s := rfl
@[simp] theorem exec_vneg (ty : Ty) (a b : VReg) (s : State) :
    exec (.vneg ty a b) s = execVneg ty a b s := rfl
@[simp] theorem exec_vsqrt (ty : Ty) (rm : Rm) (a b : VReg) (s : State) :
    exec (.vsqrt ty rm a b) s = execVsqrt ty rm a b s := rfl
@[simp] theorem exec_vfma (ty : Ty) (rm : Rm) (a b c d : VReg) (s : State) :
    exec (.vfma ty rm a b c d) s = execVfma ty rm a b c d s := rfl
@[simp] theorem exec_vfms (ty : Ty) (rm : Rm) (a b c d : VReg) (s : State) :
    exec (.vfms ty rm a b c d) s = execVfms ty rm a b c d s := rfl
@[simp] theorem exec_vfnma (ty : Ty) (rm : Rm) (a b c d : VReg) (s : State) :
    exec (.vfnma ty rm a b c d) s = execVfnma ty rm a b c d s := rfl
@[simp] theorem exec_vaddI (ty : Ty) (a b c : VReg) (s : State) :
    exec (.vaddI ty a b c) s = execVaddI ty a b c s := rfl
@[simp] theorem exec_vsubI (ty : Ty) (a b c : VReg) (s : State) :
    exec (.vsubI ty a b c) s = execVsubI ty a b c s := rfl
@[simp] theorem exec_vmulI (ty : Ty) (a b c : VReg) (s : State) :
    exec (.vmulI ty a b c) s = execVmulI ty a b c s := rfl
@[simp] theorem exec_vminI (ty : Ty) (a b c : VReg) (s : State) :
    exec (.vminI ty a b c) s = execVminI ty a b c s := rfl
@[simp] theorem exec_vmaxI (ty : Ty) (a b c : VReg) (s : State) :
    exec (.vmaxI ty a b c) s = execVmaxI ty a b c s := rfl
@[simp] theorem exec_vabsI (ty : Ty) (a b : VReg) (s : State) :
    exec (.vabsI ty a b) s = execVabsI ty a b s := rfl
@[simp] theorem exec_vadds (ty : Ty) (a b c : VReg) (s : State) :
    exec (.vadds ty a b c) s = execVadds ty a b c s := rfl
@[simp] theorem exec_vsubs (ty : Ty) (a b c : VReg) (s : State) :
    exec (.vsubs ty a b c) s = execVsubs ty a b c s := rfl
@[simp] theorem exec_vand (ty : Ty) (a b c : VReg) (s : State) :
    exec (.vand ty a b c) s = execVand ty a b c s := rfl
@[simp] theorem exec_vor (ty : Ty) (a b c : VReg) (s : State) :
    exec (.vor ty a b c) s = execVor ty a b c s := rfl
@[simp] theorem exec_vxor (ty : Ty) (a b c : VReg) (s : State) :
    exec (.vxor ty a b c) s = execVxor ty a b c s := rfl
@[simp] theorem exec_vsll (ty : Ty) (a b c : VReg) (s : State) :
    exec (.vsll ty a b c) s = execVsll ty a b c s := rfl
@[simp] theorem exec_vsrl (ty : Ty) (a b c : VReg) (s : State) :
    exec (.vsrl ty a b c) s = execVsrl ty a b c s := rfl
@[simp] theorem exec_vsra (ty : Ty) (a b c : VReg) (s : State) :
    exec (.vsra ty a b c) s = execVsra ty a b c s := rfl
@[simp] theorem exec_vexp (ty : Ty) (rm : Rm) (a b : VReg) (s : State) :
    exec (.vexp ty rm a b) s = execVexp ty rm a b s := rfl
@[simp] theorem exec_vlog (ty : Ty) (rm : Rm) (a b : VReg) (s : State) :
    exec (.vlog ty rm a b) s = execVlog ty rm a b s := rfl
@[simp] theorem exec_vrcp (ty : Ty) (rm : Rm) (a b : VReg) (s : State) :
    exec (.vrcp ty rm a b) s = execVrcp ty rm a b s := rfl
@[simp] theorem exec_vrsqrt (ty : Ty) (rm : Rm) (a b : VReg) (s : State) :
    exec (.vrsqrt ty rm a b) s = execVrsqrt ty rm a b s := rfl
@[simp] theorem exec_vtanh (ty : Ty) (rm : Rm) (a b : VReg) (s : State) :
    exec (.vtanh ty rm a b) s = execVtanh ty rm a b s := rfl
@[simp] theorem exec_vsig (ty : Ty) (rm : Rm) (a b : VReg) (s : State) :
    exec (.vsig ty rm a b) s = execVsig ty rm a b s := rfl
@[simp] theorem exec_vcmpEq (ty : Ty) (a b c : VReg) (s : State) :
    exec (.vcmpEq ty a b c) s = execVcmpEq ty a b c s := rfl
@[simp] theorem exec_vcmpNe (ty : Ty) (a b c : VReg) (s : State) :
    exec (.vcmpNe ty a b c) s = execVcmpNe ty a b c s := rfl
@[simp] theorem exec_vcmpLt (ty : Ty) (a b c : VReg) (s : State) :
    exec (.vcmpLt ty a b c) s = execVcmpLt ty a b c s := rfl
@[simp] theorem exec_vcmpLe (ty : Ty) (a b c : VReg) (s : State) :
    exec (.vcmpLe ty a b c) s = execVcmpLe ty a b c s := rfl
@[simp] theorem exec_vcmpGt (ty : Ty) (a b c : VReg) (s : State) :
    exec (.vcmpGt ty a b c) s = execVcmpGt ty a b c s := rfl
@[simp] theorem exec_vcmpGe (ty : Ty) (a b c : VReg) (s : State) :
    exec (.vcmpGe ty a b c) s = execVcmpGe ty a b c s := rfl
@[simp] theorem exec_vsel (ty : Ty) (a b c d : VReg) (s : State) :
    exec (.vsel ty a b c d) s = execVsel ty a b c d s := rfl
@[simp] theorem exec_vperm (ty : Ty) (a b c : VReg) (s : State) :
    exec (.vperm ty a b c) s = execVperm ty a b c s := rfl
@[simp] theorem exec_vshuf (ty : Ty) (a b c d : VReg) (s : State) :
    exec (.vshuf ty a b c d) s = execVshuf ty a b c d s := rfl
@[simp] theorem exec_vbcast (ty : Ty) (a : VReg) (b : XReg) (s : State) :
    exec (.vbcast ty a b) s = execVbcast ty a b s := rfl
@[simp] theorem exec_vrot (ty : Ty) (a b : VReg) (c : XReg) (s : State) :
    exec (.vrot ty a b c) s = execVrot ty a b c s := rfl
@[simp] theorem exec_vredadd (ty : Ty) (rm : Rm) (a : XReg) (b : VReg) (s : State) :
    exec (.vredadd ty rm a b) s = execVredadd ty rm a b s := rfl
@[simp] theorem exec_vredmax (ty : Ty) (a : XReg) (b : VReg) (s : State) :
    exec (.vredmax ty a b) s = execVredmax ty a b s := rfl
@[simp] theorem exec_vredmin (ty : Ty) (a : XReg) (b : VReg) (s : State) :
    exec (.vredmin ty a b) s = execVredmin ty a b s := rfl
@[simp] theorem exec_cvt (ty ty2 : Ty) (rm : Rm) (a b : VReg) (c : XReg) (s : State) :
    exec (.cvt ty ty2 rm a b c) s = execCvt ty ty2 rm a b c s := rfl
@[simp] theorem exec_cvtn (ty2 : Ty) (rm : Rm) (a b : VReg) (c d : XReg) (s : State) :
    exec (.cvtn ty2 rm a b c d) s = execCvtn ty2 rm a b c d s := rfl
@[simp] theorem exec_vquant (ty2 : Ty) (rm : Rm) (a b : VReg) (c d : XReg) (s : State) :
    exec (.vquant ty2 rm a b c d) s = execVquant ty2 rm a b c d s := rfl
@[simp] theorem exec_xmax (ty : Ty) (a : XReg) (b : VReg) (s : State) :
    exec (.xmax ty a b) s = execXmax ty a b s := rfl
@[simp] theorem exec_sbupd (b : VReg) (c d : XReg) (s : State) :
    exec (.sbupd b c d) s = execSbupd b c d s := rfl
@[simp] theorem exec_vhash (ty : Ty) (a b : VReg) (c : XReg) (s : State) :
    exec (.vhash ty a b c) s = execVhash ty a b c s := rfl
@[simp] theorem exec_vbcmp (a : XReg) (b c : VReg) (d : XReg) (s : State) :
    exec (.vbcmp a b c d) s = execVbcmp a b c d s := rfl
@[simp] theorem exec_vmov (a b : VReg) (s : State) :
    exec (.vmov a b) s = execVmov a b s := rfl
@[simp] theorem exec_vins (ty : Ty) (a : VReg) (b c : XReg) (s : State) :
    exec (.vins ty a b c) s = execVins ty a b c s := rfl
@[simp] theorem exec_vext (ty : Ty) (a : XReg) (b : VReg) (c : XReg) (s : State) :
    exec (.vext ty a b c) s = execVext ty a b c s := rfl
@[simp] theorem exec_mma (ty ty2 : Ty) (a : AReg) (b c d : XReg) (s : State) :
    exec (.mma ty ty2 a b c d) s = execMma ty ty2 a b c d s := rfl
@[simp] theorem exec_mmas (ty2 : Ty) (a : AReg) (b c d e : XReg) (imm : BitVec 18) (s : State) :
    exec (.mmas ty2 a b c d e imm) s = execMmas ty2 a b c d e imm s := rfl
@[simp] theorem exec_mmt (ty : Ty) (a : AReg) (b c d e f : XReg) (imm : BitVec 18) (s : State) :
    exec (.mmt ty a b c d e f imm) s = execMmt ty a b c d e f imm s := rfl
@[simp] theorem exec_azero (a : AReg) (s : State) :
    exec (.azero a) s = execAzero a s := rfl
@[simp] theorem exec_aspill (a : XReg) (b : AReg) (s : State) :
    exec (.aspill a b) s = execAspill a b s := rfl
@[simp] theorem exec_afill (a : AReg) (b : XReg) (s : State) :
    exec (.afill a b) s = execAfill a b s := rfl
@[simp] theorem exec_aadd (ty : Ty) (rm : Rm) (a b c : AReg) (s : State) :
    exec (.aadd ty rm a b c) s = execAadd ty rm a b c s := rfl
@[simp] theorem exec_aread (ty : Ty) (pair : Bool) (rm : Rm) (a : VReg) (b : AReg) (c d : XReg) (s : State) :
    exec (.aread ty pair rm a b c d) s = execAread ty pair rm a b c d s := rfl
@[simp] theorem exec_skset (b c : XReg) (s : State) :
    exec (.skset b c) s = execSkset b c s := rfl
@[simp] theorem exec_skget (a : XReg) (s : State) :
    exec (.skget a) s = execSkget a s := rfl
@[simp] theorem exec_topk (ty : Ty) (a b c d : XReg) (s : State) :
    exec (.topk ty a b c d) s = execTopk ty a b c d s := rfl
@[simp] theorem exec_mvh (ty ty2 : Ty) (a : AReg) (b c d e : XReg) (imm : BitVec 18) (s : State) :
    exec (.mvh ty ty2 a b c d e imm) s = execMvh ty ty2 a b c d e imm s := rfl
@[simp] theorem exec_sbld (b c : XReg) (s : State) :
    exec (.sbld b c) s = execSbld b c s := rfl
@[simp] theorem exec_sbst (b c : XReg) (s : State) :
    exec (.sbst b c) s = execSbst b c s := rfl
@[simp] theorem exec_sopen (ty : Ty) (a : SReg) (b : XReg) (s : State) :
    exec (.sopen ty a b) s = execSopen ty a b s := rfl
@[simp] theorem exec_sadv (a : SReg) (b : XReg) (s : State) :
    exec (.sadv a b) s = execSadv a b s := rfl
@[simp] theorem exec_stend (a : PReg) (b : SReg) (s : State) :
    exec (.stend a b) s = execStend a b s := rfl
@[simp] theorem exec_sclose (a : SReg) (s : State) :
    exec (.sclose a) s = execSclose a s := rfl
@[simp] theorem exec_fopen (ty : Ty) (a : SReg) (b : XReg) (s : State) :
    exec (.fopen ty a b) s = execFopen ty a b s := rfl
@[simp] theorem exec_cpyLl (a : CReg) (b c d e : XReg) (imm : BitVec 18) (s : State) :
    exec (.cpyLl a b c d e imm) s = execCpyLl a b c d e imm s := rfl
@[simp] theorem exec_cpyGl (a : CReg) (b c d e : XReg) (imm : BitVec 18) (s : State) :
    exec (.cpyGl a b c d e imm) s = execCpyGl a b c d e imm s := rfl
@[simp] theorem exec_cpyLg (ty : Ty) (op : MOp) (t : Bool) (a : CReg) (b c d e : XReg) (imm : BitVec 18) (s : State) :
    exec (.cpyLg ty op t a b c d e imm) s = execCpyLg ty op t a b c d e imm s := rfl
@[simp] theorem exec_cpyDist (a : CReg) (c d e : XReg) (imm : BitVec 18) (s : State) :
    exec (.cpyDist a c d e imm) s = execCpyDist a c d e imm s := rfl
@[simp] theorem exec_cpwp (a : XReg) (b : CReg) (s : State) :
    exec (.cpwp a b) s = execCpwp a b s := rfl
@[simp] theorem exec_cpwait (a : XReg) (b : CReg) (s : State) :
    exec (.cpwait a b) s = execCpwait a b s := rfl
@[simp] theorem exec_dpat (b : CReg) (c : XReg) (s : State) :
    exec (.dpat b c) s = execDpat b c s := rfl
@[simp] theorem exec_get (a b c d e : XReg) (s : State) :
    exec (.get a b c d e) s = execGet a b c d e s := rfl
@[simp] theorem exec_put (ty : Ty) (op : MOp) (a b c d e : XReg) (s : State) :
    exec (.put ty op a b c d e) s = execPut ty op a b c d e s := rfl
@[simp] theorem exec_coll (ty : Ty) (op : MOp) (a b c d e f : XReg) (s : State) :
    exec (.coll ty op a b c d e f) s = execColl ty op a b c d e f s := rfl
@[simp] theorem exec_post (a b c : XReg) (s : State) :
    exec (.post a b c) s = execPost a b c s := rfl
@[simp] theorem exec_spawn (a b c : XReg) (s : State) :
    exec (.spawn a b c) s = execSpawn a b c s := rfl
@[simp] theorem exec_ctwait (b : XReg) (s : State) :
    exec (.ctwait b) s = execCtwait b s := rfl
@[simp] theorem exec_ctadd (b c d : XReg) (s : State) :
    exec (.ctadd b c d) s = execCtadd b c d s := rfl
@[simp] theorem exec_ctcancel (b : XReg) (s : State) :
    exec (.ctcancel b) s = execCtcancel b s := rfl
@[simp] theorem exec_ctread (a b c : XReg) (s : State) :
    exec (.ctread a b c) s = execCtread a b c s := rfl
@[simp] theorem exec_msend (b c d : XReg) (s : State) :
    exec (.msend b c d) s = execMsend b c d s := rfl
@[simp] theorem exec_mrecv (a b c : XReg) (s : State) :
    exec (.mrecv a b c) s = execMrecv a b c s := rfl
@[simp] theorem exec_fqrd (a b : XReg) (s : State) :
    exec (.fqrd a b) s = execFqrd a b s := rfl
@[simp] theorem exec_mset (a : MReg) (b : XReg) (s : State) :
    exec (.mset a b) s = execMset a b s := rfl
@[simp] theorem exec_mref (a : MReg) (b c : XReg) (s : State) :
    exec (.mref a b c) s = execMref a b c s := rfl
@[simp] theorem exec_mclr (a : MReg) (s : State) :
    exec (.mclr a) s = execMclr a s := rfl
@[simp] theorem exec_mrd (a : XReg) (b : MReg) (c : XReg) (s : State) :
    exec (.mrd a b c) s = execMrd a b c s := rfl
@[simp] theorem exec_hset (a : HReg) (b c : XReg) (s : State) :
    exec (.hset a b c) s = execHset a b c s := rfl
@[simp] theorem exec_hmul (rm : Rm) (a : HReg) (b c : XReg) (s : State) :
    exec (.hmul rm a b c) s = execHmul rm a b c s := rfl
@[simp] theorem exec_hdiv (rm : Rm) (a : HReg) (b c : XReg) (s : State) :
    exec (.hdiv rm a b c) s = execHdiv rm a b c s := rfl
@[simp] theorem exec_hprod (rm : Rm) (a b c : HReg) (s : State) :
    exec (.hprod rm a b c) s = execHprod rm a b c s := rfl
@[simp] theorem exec_hscale (a : HReg) (b : XReg) (s : State) :
    exec (.hscale a b) s = execHscale a b s := rfl
@[simp] theorem exec_hrd (rm : Rm) (a : XReg) (b : HReg) (c : XReg) (s : State) :
    exec (.hrd rm a b c) s = execHrd rm a b c s := rfl
@[simp] theorem exec_hwr (rm : Rm) (a : HReg) (b c : XReg) (s : State) :
    exec (.hwr rm a b c) s = execHwr rm a b c s := rfl
@[simp] theorem exec_hdeg (a : HReg) (b : XReg) (s : State) :
    exec (.hdeg a b) s = execHdeg a b s := rfl
@[simp] theorem exec_svCtab (b c d : XReg) (s : State) :
    exec (.svCtab b c d) s = execSvCtab b c d s := rfl
@[simp] theorem exec_svQrec (b c : XReg) (s : State) :
    exec (.svQrec b c) s = execSvQrec b c s := rfl
@[simp] theorem exec_svQprio (b c : XReg) (s : State) :
    exec (.svQprio b c) s = execSvQprio b c s := rfl
@[simp] theorem exec_svGstart (b c : XReg) (s : State) :
    exec (.svGstart b c) s = execSvGstart b c s := rfl
@[simp] theorem exec_svTeardown (b : XReg) (s : State) :
    exec (.svTeardown b) s = execSvTeardown b s := rfl
@[simp] theorem exec_svRht (b c : XReg) (s : State) :
    exec (.svRht b c) s = execSvRht b c s := rfl
@[simp] theorem exec_svDph (b c : XReg) (s : State) :
    exec (.svDph b c) s = execSvDph b c s := rfl
@[simp] theorem exec_svPtbr (b c : XReg) (s : State) :
    exec (.svPtbr b c) s = execSvPtbr b c s := rfl
@[simp] theorem exec_svPtw (b c : XReg) (s : State) :
    exec (.svPtw b c) s = execSvPtw b c s := rfl
@[simp] theorem exec_svTinv (b c : XReg) (s : State) :
    exec (.svTinv b c) s = execSvTinv b c s := rfl
@[simp] theorem exec_svPres (b c : XReg) (s : State) :
    exec (.svPres b c) s = execSvPres b c s := rfl
@[simp] theorem exec_svPref (b c : XReg) (s : State) :
    exec (.svPref b c) s = execSvPref b c s := rfl
@[simp] theorem exec_svMigr (b c d : XReg) (s : State) :
    exec (.svMigr b c d) s = execSvMigr b c d s := rfl
@[simp] theorem exec_svHint (b c d : XReg) (s : State) :
    exec (.svHint b c d) s = execSvHint b c d s := rfl
@[simp] theorem exec_svFq (b c d : XReg) (s : State) :
    exec (.svFq b c d) s = execSvFq b c d s := rfl
@[simp] theorem exec_svSfq (b c : XReg) (s : State) :
    exec (.svSfq b c) s = execSvSfq b c s := rfl
@[simp] theorem exec_svFlue (c : XReg) (s : State) :
    exec (.svFlue c) s = execSvFlue c s := rfl
@[simp] theorem exec_svVac (c d : XReg) (s : State) :
    exec (.svVac c d) s = execSvVac c d s := rfl
@[simp] theorem exec_svVrel (b : XReg) (s : State) :
    exec (.svVrel b) s = execSvVrel b s := rfl
@[simp] theorem exec_svPdk (b c : XReg) (s : State) :
    exec (.svPdk b c) s = execSvPdk b c s := rfl
@[simp] theorem exec_svKill (b : XReg) (s : State) :
    exec (.svKill b) s = execSvKill b s := rfl
@[simp] theorem exec_svPrel (b : XReg) (s : State) :
    exec (.svPrel b) s = execSvPrel b s := rfl
@[simp] theorem exec_svLspr (b c d : XReg) (s : State) :
    exec (.svLspr b c d) s = execSvLspr b c d s := rfl
@[simp] theorem exec_svSpb (b c : XReg) (s : State) :
    exec (.svSpb b c) s = execSvSpb b c s := rfl
@[simp] theorem exec_svHtab (b c d : XReg) (s : State) :
    exec (.svHtab b c d) s = execSvHtab b c d s := rfl
@[simp] theorem exec_svYov (b c d : XReg) (s : State) :
    exec (.svYov b c d) s = execSvYov b c d s := rfl
@[simp] theorem exec_nop (s : State) :
    exec .nop s = execNop s := rfl
@[simp] theorem exec_commit (s : State) :
    exec .commit s = execCommit s := rfl
@[simp] theorem exec_vmodeShort (s : State) :
    exec .vmodeShort s = execVmodeShort s := rfl
@[simp] theorem exec_vmodeLong (s : State) :
    exec .vmodeLong s = execVmodeLong s := rfl
@[simp] theorem exec_done (s : State) :
    exec .done s = execDone s := rfl
@[simp] theorem exec_yield (s : State) :
    exec .yield s = execYield s := rfl
@[simp] theorem exec_wfw (s : State) :
    exec .wfw s = execWfw s := rfl
@[simp] theorem exec_lend (s : State) :
    exec .lend s = execLend s := rfl
@[simp] theorem exec_tret (s : State) :
    exec .tret s = execTret s := rfl
@[simp] theorem exec_powerOn (s : State) :
    exec .powerOn s = execPowerOn s := rfl
@[simp] theorem exec_bootStepComplete (s : State) :
    exec .bootStepComplete s = execBootStepComplete s := rfl
@[simp] theorem exec_powerOff (s : State) :
    exec .powerOff s = execPowerOff s := rfl
@[simp] theorem exec_issueThrottlingEntry (s : State) :
    exec .issueThrottlingEntry s = execIssueThrottlingEntry s := rfl
@[simp] theorem exec_issueThrottlingExit (s : State) :
    exec .issueThrottlingExit s = execIssueThrottlingExit s := rfl
@[simp] theorem exec_overtempPowerOff (s : State) :
    exec .overtempPowerOff s = execOvertempPowerOff s := rfl
@[simp] theorem exec_flitReceive (s : State) :
    exec .flitReceive s = execFlitReceive s := rfl
@[simp] theorem exec_stopFlagClear (s : State) :
    exec .stopFlagClear s = execStopFlagClear s := rfl
@[simp] theorem exec_ackReceive (s : State) :
    exec .ackReceive s = execAckReceive s := rfl
@[simp] theorem exec_nakReceive (s : State) :
    exec .nakReceive s = execNakReceive s := rfl
@[simp] theorem exec_ackTimeout (s : State) :
    exec .ackTimeout s = execAckTimeout s := rfl
@[simp] theorem exec_alternateResend (s : State) :
    exec .alternateResend s = execAlternateResend s := rfl
@[simp] theorem exec_portUp (s : State) :
    exec .portUp s = execPortUp s := rfl
@[simp] theorem exec_putUpdateReceive (s : State) :
    exec .putUpdateReceive s = execPutUpdateReceive s := rfl
@[simp] theorem exec_getRequestServe (s : State) :
    exec .getRequestServe s = execGetRequestServe s := rfl
@[simp] theorem exec_getRowWrite (s : State) :
    exec .getRowWrite s = execGetRowWrite s := rfl
@[simp] theorem exec_putAckReceive (s : State) :
    exec .putAckReceive s = execPutAckReceive s := rfl
@[simp] theorem exec_negativeAckReceive (s : State) :
    exec .negativeAckReceive s = execNegativeAckReceive s := rfl
@[simp] theorem exec_spawnArrival (s : State) :
    exec .spawnArrival s = execSpawnArrival s := rfl
@[simp] theorem exec_spawnAnswerReceive (s : State) :
    exec .spawnAnswerReceive s = execSpawnAnswerReceive s := rfl
@[simp] theorem exec_collectiveMessageArrival (s : State) :
    exec .collectiveMessageArrival s = execCollectiveMessageArrival s := rfl
@[simp] theorem exec_collectiveReceiveStep (s : State) :
    exec .collectiveReceiveStep s = execCollectiveReceiveStep s := rfl
@[simp] theorem exec_poolWindowAccess (s : State) :
    exec .poolWindowAccess s = execPoolWindowAccess s := rfl
@[simp] theorem exec_memoryWindowWrite (s : State) :
    exec .memoryWindowWrite s = execMemoryWindowWrite s := rfl
@[simp] theorem exec_memoryWindowRead (s : State) :
    exec .memoryWindowRead s = execMemoryWindowRead s := rfl
@[simp] theorem exec_watchArm (s : State) :
    exec .watchArm s = execWatchArm s := rfl
@[simp] theorem exec_registerWrite (s : State) :
    exec .registerWrite s = execRegisterWrite s := rfl
@[simp] theorem exec_quote (s : State) :
    exec .quote s = execQuote s := rfl
@[simp] theorem exec_idcert (s : State) :
    exec .idcert s = execIdcert s := rfl
@[simp] theorem exec_keyxch (s : State) :
    exec .keyxch s = execKeyxch s := rfl
@[simp] theorem exec_keyimport (s : State) :
    exec .keyimport s = execKeyimport s := rfl
@[simp] theorem exec_keygen (s : State) :
    exec .keygen s = execKeygen s := rfl
@[simp] theorem exec_keyerase (s : State) :
    exec .keyerase s = execKeyerase s := rfl
@[simp] theorem exec_liferead (s : State) :
    exec .liferead s = execLiferead s := rfl
@[simp] theorem exec_redfishRequest (s : State) :
    exec .redfishRequest s = execRedfishRequest s := rfl
@[simp] theorem exec_lifetimeRecordWrite (s : State) :
    exec .lifetimeRecordWrite s = execLifetimeRecordWrite s := rfl
@[simp] theorem exec_dispatcherCycle (s : State) :
    exec .dispatcherCycle s = execDispatcherCycle s := rfl
@[simp] theorem exec_heldInsertEntry (s : State) :
    exec .heldInsertEntry s = execHeldInsertEntry s := rfl
@[simp] theorem exec_recordArrivalAtManger (s : State) :
    exec .recordArrivalAtManger s = execRecordArrivalAtManger s := rfl
@[simp] theorem exec_mangerCancel (s : State) :
    exec .mangerCancel s = execMangerCancel s := rfl
@[simp] theorem exec_counterOperation (s : State) :
    exec .counterOperation s = execCounterOperation s := rfl
@[simp] theorem exec_nodeReadyInsert (s : State) :
    exec .nodeReadyInsert s = execNodeReadyInsert s := rfl
@[simp] theorem exec_deferredPhaseClose (s : State) :
    exec .deferredPhaseClose s = execDeferredPhaseClose s := rfl
@[simp] theorem exec_vacateGraceExpiry (s : State) :
    exec .vacateGraceExpiry s = execVacateGraceExpiry s := rfl
@[simp] theorem exec_rectangleEmpty (s : State) :
    exec .rectangleEmpty s = execRectangleEmpty s := rfl
@[simp] theorem exec_exactRestore (s : State) :
    exec .exactRestore s = execExactRestore s := rfl
@[simp] theorem exec_teardownComplete (s : State) :
    exec .teardownComplete s = execTeardownComplete s := rfl
@[simp] theorem exec_windowHashCompare (s : State) :
    exec .windowHashCompare s = execWindowHashCompare s := rfl
@[simp] theorem exec_barrelIssue (s : State) :
    exec .barrelIssue s = execBarrelIssue s := rfl
@[simp] theorem exec_coprocessorDispatch (s : State) :
    exec .coprocessorDispatch s = execCoprocessorDispatch s := rfl
@[simp] theorem exec_coprocessorComplete (s : State) :
    exec .coprocessorComplete s = execCoprocessorComplete s := rfl
@[simp] theorem exec_copFaultDetect (s : State) :
    exec .copFaultDetect s = execCopFaultDetect s := rfl
@[simp] theorem exec_groupEnd (s : State) :
    exec .groupEnd s = execGroupEnd s := rfl
@[simp] theorem exec_mmtChunkComplete (s : State) :
    exec .mmtChunkComplete s = execMmtChunkComplete s := rfl
@[simp] theorem exec_longContextGrant (s : State) :
    exec .longContextGrant s = execLongContextGrant s := rfl
@[simp] theorem exec_scaleSetArrival (s : State) :
    exec .scaleSetArrival s = execScaleSetArrival s := rfl
@[simp] theorem exec_xmaxExchangeComplete (s : State) :
    exec .xmaxExchangeComplete s = execXmaxExchangeComplete s := rfl
@[simp] theorem exec_mailboxArrival (s : State) :
    exec .mailboxArrival s = execMailboxArrival s := rfl
@[simp] theorem exec_mailboxRetry (s : State) :
    exec .mailboxRetry s = execMailboxRetry s := rfl
@[simp] theorem exec_copyBlockDelivery (s : State) :
    exec .copyBlockDelivery s = execCopyBlockDelivery s := rfl
@[simp] theorem exec_copyPendResume (s : State) :
    exec .copyPendResume s = execCopyPendResume s := rfl
@[simp] theorem exec_stallHighwaterMoveout (s : State) :
    exec .stallHighwaterMoveout s = execStallHighwaterMoveout s := rfl
@[simp] theorem exec_stallAgeMoveout (s : State) :
    exec .stallAgeMoveout s = execStallAgeMoveout s := rfl
@[simp] theorem exec_shedAgeMoveout (s : State) :
    exec .shedAgeMoveout s = execShedAgeMoveout s := rfl
@[simp] theorem exec_shedFillMoveout (s : State) :
    exec .shedFillMoveout s = execShedFillMoveout s := rfl
@[simp] theorem exec_shedMoveRetry (s : State) :
    exec .shedMoveRetry s = execShedMoveRetry s := rfl
@[simp] theorem exec_yardEntry (s : State) :
    exec .yardEntry s = execYardEntry s := rfl
@[simp] theorem exec_movedReroute (s : State) :
    exec .movedReroute s = execMovedReroute s := rfl
@[simp] theorem exec_yardFillApply (s : State) :
    exec .yardFillApply s = execYardFillApply s := rfl
@[simp] theorem exec_yardSpill (s : State) :
    exec .yardSpill s = execYardSpill s := rfl
@[simp] theorem exec_yardRefill (s : State) :
    exec .yardRefill s = execYardRefill s := rfl
@[simp] theorem exec_yardFull (s : State) :
    exec .yardFull s = execYardFull s := rfl
@[simp] theorem exec_yardFullClear (s : State) :
    exec .yardFullClear s = execYardFullClear s := rfl
@[simp] theorem exec_releaseApply (s : State) :
    exec .releaseApply s = execReleaseApply s := rfl
@[simp] theorem exec_commitPrepare (s : State) :
    exec .commitPrepare s = execCommitPrepare s := rfl
@[simp] theorem exec_prepareAnswer (s : State) :
    exec .prepareAnswer s = execPrepareAnswer s := rfl
@[simp] theorem exec_commitFlip (s : State) :
    exec .commitFlip s = execCommitFlip s := rfl
@[simp] theorem exec_flipAcknowledge (s : State) :
    exec .flipAcknowledge s = execFlipAcknowledge s := rfl
@[simp] theorem exec_taskAbort (s : State) :
    exec .taskAbort s = execTaskAbort s := rfl
@[simp] theorem exec_abortNoticeArrival (s : State) :
    exec .abortNoticeArrival s = execAbortNoticeArrival s := rfl
@[simp] theorem exec_sosAcknowledge (s : State) :
    exec .sosAcknowledge s = execSosAcknowledge s := rfl
@[simp] theorem exec_loadResultReturn (s : State) :
    exec .loadResultReturn s = execLoadResultReturn s := rfl
@[simp] theorem exec_fetchHomeStep (s : State) :
    exec .fetchHomeStep s = execFetchHomeStep s := rfl
@[simp] theorem exec_mergeFaultRecordArrival (s : State) :
    exec .mergeFaultRecordArrival s = execMergeFaultRecordArrival s := rfl
@[simp] theorem exec_pageFaultService (s : State) :
    exec .pageFaultService s = execPageFaultService s := rfl
@[simp] theorem exec_migrationComplete (s : State) :
    exec .migrationComplete s = execMigrationComplete s := rfl
@[simp] theorem exec_fluePageVisit (s : State) :
    exec .fluePageVisit s = execFluePageVisit s := rfl
@[simp] theorem exec_fluePassEnd (s : State) :
    exec .fluePassEnd s = execFluePassEnd s := rfl
@[simp] theorem exec_sectorRead (s : State) :
    exec .sectorRead s = execSectorRead s := rfl
@[simp] theorem exec_scrub (s : State) :
    exec .scrub s = execScrub s := rfl
@[simp] theorem exec_paddockKill (s : State) :
    exec .paddockKill s = execPaddockKill s := rfl
@[simp] theorem exec_paddockKillReport (s : State) :
    exec .paddockKillReport s = execPaddockKillReport s := rfl
@[simp] theorem exec_barrierGenerationOpen (s : State) :
    exec .barrierGenerationOpen s = execBarrierGenerationOpen s := rfl
@[simp] theorem exec_postArrival (s : State) :
    exec .postArrival s = execPostArrival s := rfl
@[simp] theorem exec_barrierArrival (s : State) :
    exec .barrierArrival s = execBarrierArrival s := rfl
@[simp] theorem exec_xmaxContributionArrival (s : State) :
    exec .xmaxContributionArrival s = execXmaxContributionArrival s := rfl
@[simp] theorem exec_drainRequestArrival (s : State) :
    exec .drainRequestArrival s = execDrainRequestArrival s := rfl

end Sys2Proof.Machine
end

