-- ==== Sys2Proof/Laws/Memory.lean ====
section
/-! SUPPORT. Every operation on a memory keeps its canonical form, and what is written is read back. -/

namespace Sys2Proof.Machine

set_option Elab.async false

/-- A memory in canonical form from a bound on is so from a lower one. -/
theorem Memory.wfFrom_mono {lo lo' : Nat} {m : List Host.Cell} (h : Memory.wfFrom lo m = true) (hl : lo' ≤ lo) :
    Memory.wfFrom lo' m = true := by
  cases m with
  | nil => rfl
  | cons x m =>
    obtain ⟨a, b⟩ := x
    simp only [Memory.wfFrom, Bool.and_eq_true, decide_eq_true_eq] at h ⊢
    exact ⟨⟨Nat.le_trans hl h.1.1, h.1.2⟩, h.2⟩

/-- A write of one byte keeps the canonical form. -/
theorem Memory.write_wfFrom {lo : Nat} {m : List Host.Cell} (h : Memory.wfFrom lo m = true) {a : Nat} (ha : lo ≤ a)
    (b : Byte) : Memory.wfFrom lo (Memory.write m a b) = true := by
  induction m generalizing lo with
  | nil =>
    unfold Memory.write
    split <;> simp_all [Memory.wfFrom]
  | cons x m ih =>
    obtain ⟨k, c⟩ := x
    simp only [Memory.wfFrom, Bool.and_eq_true, decide_eq_true_eq] at h
    obtain ⟨⟨hk, hc⟩, hm⟩ := h
    unfold Memory.write
    split
    · split
      · simp only [Memory.wfFrom, Bool.and_eq_true, decide_eq_true_eq]
        exact ⟨⟨hk, hc⟩, hm⟩
      · simp only [Memory.wfFrom, Bool.and_eq_true, decide_eq_true_eq]
        exact ⟨⟨ha, by simpa using ‹¬b = memDefault›⟩, ⟨by omega, hc⟩, hm⟩
    · split
      · subst_vars
        split
        · exact Memory.wfFrom_mono hm (by omega)
        · simp only [Memory.wfFrom, Bool.and_eq_true, decide_eq_true_eq]
          exact ⟨⟨ha, by simpa using ‹¬b = memDefault›⟩, hm⟩
      · simp only [Memory.wfFrom, Bool.and_eq_true, decide_eq_true_eq]
        exact ⟨⟨hk, hc⟩, ih hm (by omega)⟩

/-- A write of one byte keeps the canonical form. -/
theorem Memory.write_wf {m : List Host.Cell} (h : Memory.wf m = true) (a : Nat) (b : Byte) :
    Memory.wf (Memory.write m a b) = true := Memory.write_wfFrom h (Nat.zero_le a) b

/-- A write of bytes keeps the canonical form. -/
theorem Memory.writeN_wf {m : List Host.Cell} (h : Memory.wf m = true) (a : Nat) (bs : List Byte) :
    Memory.wf (Memory.writeN m a bs) = true := by
  induction bs generalizing m a with
  | nil => exact h
  | cons b bs ih => exact ih (Memory.write_wf h a b) (a + 1)

/-- A memory without some of its cells keeps the canonical form. -/
theorem Memory.filter_wfFrom {lo : Nat} {m : List Host.Cell} (h : Memory.wfFrom lo m = true) (p : Host.Cell → Bool) :
    Memory.wfFrom lo (m.filter p) = true := by
  induction m generalizing lo with
  | nil => rfl
  | cons x m ih =>
    obtain ⟨a, b⟩ := x
    simp only [Memory.wfFrom, Bool.and_eq_true, decide_eq_true_eq] at h
    obtain ⟨⟨ha, hb⟩, hm⟩ := h
    by_cases hp : p (a, b)
    · rw [List.filter_cons_of_pos hp]
      simp only [Memory.wfFrom, Bool.and_eq_true, decide_eq_true_eq]
      exact ⟨⟨ha, hb⟩, ih hm⟩
    · rw [List.filter_cons_of_neg hp]
      exact Memory.wfFrom_mono (ih hm) (by omega)

/-- A memory with a range taken out keeps the canonical form. -/
theorem Memory.clear_wf {m : List Host.Cell} (h : Memory.wf m = true) (lo n : Nat) :
    Memory.wf (Memory.clear m lo n) = true := Memory.filter_wfFrom h _

/-- A memory with cells written keeps the canonical form. -/
theorem Memory.writeCells_wf {m : List Host.Cell} (h : Memory.wf m = true) (cells : List Host.Cell) :
    Memory.wf (cells.foldl (fun m c => Memory.write m c.1 c.2) m) = true := by
  induction cells generalizing m with
  | nil => exact h
  | cons c cells ih => exact ih (Memory.write_wf h c.1 c.2)

/-- A memory with a range laid anew keeps the canonical form. -/
theorem Memory.lay_wf {m : List Host.Cell} (h : Memory.wf m = true) (lo n : Nat) (cells : List Host.Cell) :
    Memory.wf (Memory.lay m lo n cells) = true := Memory.writeCells_wf (Memory.clear_wf h lo n) cells

/-- Below its bound a memory in canonical form reads as nothing written. -/
theorem Memory.read_below {lo : Nat} {m : List Host.Cell} (h : Memory.wfFrom lo m = true) {c : Nat} (hc : c < lo) :
    Memory.read m c = memDefault := by
  cases m with
  | nil => rfl
  | cons x m =>
    obtain ⟨k, b⟩ := x
    simp only [Memory.wfFrom, Bool.and_eq_true, decide_eq_true_eq] at h
    rw [Memory.read, if_pos (by omega)]

/-- A byte that is written reads back, and every other byte is as before. -/
theorem Memory.read_writeFrom {lo : Nat} {m : List Host.Cell} (h : Memory.wfFrom lo m = true) (a c : Nat) (b : Byte) :
    Memory.read (Memory.write m a b) c = if c = a then b else Memory.read m c := by
  induction m generalizing lo with
  | nil =>
    by_cases hb : b = memDefault
    · simp [Memory.write, hb, Memory.read]
    · by_cases hc : c = a
      · simp [Memory.write, hb, Memory.read, hc]
      · by_cases hl : c < a <;> simp [Memory.write, hb, Memory.read, hc, hl]
  | cons x m ih =>
    obtain ⟨k, d⟩ := x
    simp only [Memory.wfFrom, Bool.and_eq_true, decide_eq_true_eq] at h
    have hm := ih h.2
    have hbelow : c ≤ k → Memory.read m c = memDefault := fun hk => Memory.read_below h.2 (by omega)
    unfold Memory.write
    split
    · split
      · by_cases hc : c = a
        · rw [if_pos hc, Memory.read, if_pos (by omega)]; exact (‹b = memDefault›).symm
        · rw [if_neg hc]
      · by_cases hc : c = a
        · rw [if_pos hc, Memory.read, if_neg (by omega), if_pos hc]
        · rw [if_neg hc]
          by_cases hl : c < a
          · rw [Memory.read, if_pos hl, Memory.read, if_pos (by omega)]
          · rw [Memory.read, if_neg hl, if_neg hc]
    · split
      · rename_i hak; subst hak
        split
        · by_cases hc : c = a
          · rw [if_pos hc, hbelow (by omega)]; exact (‹b = memDefault›).symm
          · rw [if_neg hc, Memory.read]
            split
            · exact hbelow (by omega)
            · rfl
        · by_cases hc : c = a
          · rw [if_pos hc, Memory.read, if_neg (by omega), if_pos hc]
          · rw [if_neg hc, Memory.read, Memory.read, if_neg hc, if_neg hc]
      · by_cases hl : c < k
        · rw [Memory.read, if_pos hl, Memory.read, if_pos hl, if_neg (by omega)]
        · by_cases hk : c = k
          · rw [Memory.read, if_neg hl, if_pos hk, Memory.read, if_neg hl, if_pos hk, if_neg (by omega)]
          · rw [Memory.read, if_neg hl, if_neg hk, hm, Memory.read, if_neg hl, if_neg hk]

/-- A byte that is written reads back, and every other byte is as before. -/
theorem Memory.read_write {m : List Host.Cell} (h : Memory.wf m = true) (a c : Nat) (b : Byte) :
    Memory.read (Memory.write m a b) c = if c = a then b else Memory.read m c := Memory.read_writeFrom h a c b

/-- Bytes that are written read back, and every other byte is as before. -/
theorem Memory.read_writeN {m : List Host.Cell} (h : Memory.wf m = true) (a c : Nat) (bs : List Byte) :
    Memory.read (Memory.writeN m a bs) c = if a ≤ c ∧ c < a + bs.length then bs.getD (c - a) 0 else Memory.read m c := by
  induction bs generalizing m a with
  | nil => simp only [Memory.writeN, List.length_nil, Nat.add_zero]; rw [if_neg (by omega)]
  | cons b bs ih =>
    rw [Memory.writeN, ih (Memory.write_wf h a b), Memory.read_write h, List.length_cons]
    by_cases hc : c = a
    · subst hc
      rw [if_neg (by omega), if_pos rfl, if_pos (by omega), Nat.sub_self]
      rfl
    · by_cases hi : a + 1 ≤ c ∧ c < a + 1 + bs.length
      · rw [if_pos hi, if_pos (by omega), show c - a = (c - (a + 1)) + 1 by omega, List.getD_cons_succ]
      · rw [if_neg hi, if_neg hc, if_neg (by omega)]

/-- Bytes outside those written are as before. -/
theorem Memory.read_writeN_other {m : List Host.Cell} (h : Memory.wf m = true) {a c : Nat} {bs : List Byte}
    (hc : c < a ∨ a + bs.length ≤ c) : Memory.read (Memory.writeN m a bs) c = Memory.read m c := by
  rw [Memory.read_writeN h, if_neg (by omega)]

/-- The bytes of a number are as many as asked for. -/
theorem leBytes_length (n v : Nat) : (leBytes n v).length = n := by
  induction n generalizing v with
  | zero => rfl
  | succ n ih => simp [leBytes, ih]

/-- The bytes of a number in little-endian order read back as the number. -/
theorem leNat_leBytes (n v : Nat) : leNat (leBytes n v) = v % 2 ^ (8 * n) := by
  induction n generalizing v with
  | zero => simp [leNat, leBytes, Nat.mod_one]
  | succ n ih =>
    simp only [leBytes, leNat, ih, BitVec.toNat_ofNat]
    rw [show 8 * (n + 1) = 8 + 8 * n by omega, Nat.pow_add, Nat.mod_mul]

/-- As many bytes are read as asked for. -/
theorem Memory.readN_length (m : List Host.Cell) (a n : Nat) : (Memory.readN m a n).length = n := by
  induction n generalizing a with
  | zero => rfl
  | succ n ih => simp [Memory.readN, ih]

/-- A read of bytes is the read of each. -/
theorem Memory.readN_getD (m : List Host.Cell) (a n i : Nat) (hi : i < n) :
    (Memory.readN m a n).getD i 0 = Memory.read m (a + i) := by
  induction n generalizing a i with
  | zero => omega
  | succ n ih =>
    cases i with
    | zero => rfl
    | succ i => rw [Memory.readN, List.getD_cons_succ, ih _ _ (by omega)]; congr 1; omega

/-- Bytes that are written are what a read of them gives. -/
theorem Memory.readN_writeN {m : List Host.Cell} (h : Memory.wf m = true) (a : Nat) (bs : List Byte) :
    Memory.readN (Memory.writeN m a bs) a bs.length = bs := by
  apply List.ext_getElem
  · exact Memory.readN_length _ _ _
  · intro i h1 h2
    have hi : i < bs.length := by simpa [Memory.readN_length] using h1
    have := Memory.readN_getD (Memory.writeN m a bs) a bs.length i hi
    rw [Memory.read_writeN h, if_pos (by omega), show a + i - a = i by omega] at this
    simpa [List.getD_eq_getElem?_getD, h1, h2] using this

/-- A number that is written is read back. -/
theorem Memory.num_writeN {m : List Host.Cell} (h : Memory.wf m = true) (a n v : Nat) :
    Memory.num (Memory.writeN m a (leBytes n v)) a n = v % 2 ^ (8 * n) := by
  have := Memory.readN_writeN h a (leBytes n v)
  rw [leBytes_length] at this
  rw [Memory.num, this, leNat_leBytes]

/-- Home memory keeps the canonical form when bytes of it are written. -/
theorem writePhys_wf {s : State} (h : Memory.wf s.mem = true) (pa : Nat) (bs : List Byte) :
    Memory.wf (s.writePhys pa bs).mem = true := by
  unfold State.writePhys
  split
  · exact Memory.writeN_wf h pa bs
  · exact h

/-- Home memory keeps the canonical form when a range of it is filled. -/
theorem fillPhys_wf {s : State} (h : Memory.wf s.mem = true) (pa n : Nat) (cells : List Host.Cell) :
    Memory.wf (s.fillPhys pa n cells).mem = true := by
  unfold State.fillPhys
  split
  · exact Memory.lay_wf h pa n cells
  · exact h

/-- A local store keeps the canonical form when bytes of it are written. -/
theorem lsWrite_wf {c : Core} (h : Memory.wf c.ls = true) (off : Nat) (bs : List Byte) :
    Memory.wf (c.lsWrite off bs).ls = true := Memory.writeN_wf h off _

/-- Memory at reset is in canonical form: nothing is listed. -/
theorem reset_mem_wf : Memory.wf State.reset.mem = true ∧ Memory.wf State.reset.hostMem = true := ⟨rfl, rfl⟩

end Sys2Proof.Machine
end

