-- ==== Sys2Proof/Laws/State.lean ====
section
/-! SUPPORT. What a small update of the state leaves unchanged and what it writes: one lemma for each field, and the reads of a
core, a cluster, a die and a thread after a write of one. -/

namespace Sys2Proof.Machine

set_option Elab.async false

/-- A sparse map reads the entry that was written last. -/
@[simp] theorem find?_put_same {α : Type} (m : SMap α) (n : Nat) (v : α) : find? (put m n v) n = some v := by
  induction m with
  | nil => simp [put, find?]
  | cons x m ih =>
    obtain ⟨k, w⟩ := x
    by_cases h : n < k
    · simp [put, find?, h]
    · by_cases e : n = k
      · simp [put, find?, e]
      · simp [put, find?, h, e, ih]

/-- A sparse map reads an entry that was not written as before. -/
@[simp] theorem find?_put_other {α : Type} (m : SMap α) {n j : Nat} (v : α) (h : j ≠ n) :
    find? (put m n v) j = find? m j := by
  induction m with
  | nil => by_cases l : j < n <;> simp [put, find?, h, l]
  | cons x m ih =>
    obtain ⟨k, w⟩ := x
    by_cases a : n < k
    · by_cases b : j < n
      · simp [put, find?, a, b, Nat.lt_trans b a]
      · simp [put, find?, a, b, h]
    · by_cases e : n = k
      · subst e; simp [put, find?, h]
      · simp [put, find?, a, e, ih]

@[simp] theorem look_put_same {α : Type} (m : SMap α) (n : Nat) (v d : α) : look (put m n v) n d = v := by simp [look]

@[simp] theorem look_put_other {α : Type} (m : SMap α) {n j : Nat} (v d : α) (h : j ≠ n) :
    look (put m n v) j d = look m j d := by simp [look, h]

@[simp] theorem coreAt_modCore (s : State) (n : Nat) (f : Core → Core) : (s.modCore n f).coreAt n = f (s.coreAt n) := by
  simp [State.modCore, State.coreAt]

@[simp] theorem coreAt_modCore_other (s : State) {n m : Nat} (f : Core → Core) (h : m ≠ n) :
    (s.modCore n f).coreAt m = s.coreAt m := by simp [State.modCore, State.coreAt, h]

@[simp] theorem clusterAt_modCluster (s : State) (n : Nat) (f : Cluster → Cluster) :
    (s.modCluster n f).clusterAt n = f (s.clusterAt n) := by simp [State.modCluster, State.clusterAt]

@[simp] theorem clusterAt_modCluster_other (s : State) {n m : Nat} (f : Cluster → Cluster) (h : m ≠ n) :
    (s.modCluster n f).clusterAt m = s.clusterAt m := by simp [State.modCluster, State.clusterAt, h]

@[simp] theorem dieAt_modDie (s : State) (n : Nat) (f : Die → Die) : (s.modDie n f).dieAt n = f (s.dieAt n) := by
  simp [State.modDie, State.dieAt]

@[simp] theorem dieAt_modDie_other (s : State) {n m : Nat} (f : Die → Die) (h : m ≠ n) :
    (s.modDie n f).dieAt m = s.dieAt m := by simp [State.modDie, State.dieAt, h]

@[simp] theorem thr_modThr (s : State) (n k : Nat) (f : Thread → Thread) : (s.modThr n k f).thr n k = f (s.thr n k) := by
  simp [State.modThr, State.thr]

@[simp] theorem thr_modThr_slot (s : State) (n : Nat) {k j : Nat} (f : Thread → Thread) (h : j ≠ k) :
    (s.modThr n k f).thr n j = s.thr n j := by simp [State.modThr, State.thr, h]

@[simp] theorem thr_modThr_core (s : State) {n m : Nat} (k j : Nat) (f : Thread → Thread) (h : m ≠ n) :
    (s.modThr n k f).thr m j = s.thr m j := by simp [State.modThr, State.thr, h]

/-- A change of a core that leaves its threads leaves each thread. -/
theorem thr_modCore (s : State) (n m j : Nat) (f : Core → Core) (h : ∀ c, (f c).threads = c.threads) :
    (s.modCore n f).thr m j = s.thr m j := by
  by_cases e : m = n
  · subst e; simp [State.thr, h]
  · simp [State.thr, e]

@[simp] theorem me_modMe (s : State) (f : Thread → Thread) : (s.modMe f).me = f s.me := by
  simp [State.me, State.modMe, State.modThr, State.modCore, State.thr, State.coreAt]

@[simp] theorem modCore_power (s : State) (n : Nat) (f : Core → Core) : (s.modCore n f).power = s.power := rfl
@[simp] theorem modCore_clusters (s : State) (n : Nat) (f : Core → Core) : (s.modCore n f).clusters = s.clusters := rfl
@[simp] theorem modCore_dies (s : State) (n : Nat) (f : Core → Core) : (s.modCore n f).dies = s.dies := rfl
@[simp] theorem modCore_io (s : State) (n : Nat) (f : Core → Core) : (s.modCore n f).io = s.io := rfl
@[simp] theorem modCore_mem (s : State) (n : Nat) (f : Core → Core) : (s.modCore n f).mem = s.mem := rfl
@[simp] theorem modCore_poison (s : State) (n : Nat) (f : Core → Core) : (s.modCore n f).poison = s.poison := rfl
@[simp] theorem modCore_hbmErr (s : State) (n : Nat) (f : Core → Core) : (s.modCore n f).hbmErr = s.hbmErr := rfl
@[simp] theorem modCore_hostMem (s : State) (n : Nat) (f : Core → Core) : (s.modCore n f).hostMem = s.hostMem := rfl
@[simp] theorem modCore_agenda (s : State) (n : Nat) (f : Core → Core) : (s.modCore n f).agenda = s.agenda := rfl
@[simp] theorem modCore_later (s : State) (n : Nat) (f : Core → Core) : (s.modCore n f).later = s.later := rfl
@[simp] theorem modCore_ev (s : State) (n : Nat) (f : Core → Core) : (s.modCore n f).ev = s.ev := rfl
@[simp] theorem modCore_cur (s : State) (n : Nat) (f : Core → Core) : (s.modCore n f).cur = s.cur := rfl
@[simp] theorem modCore_issue (s : State) (n : Nat) (f : Core → Core) : (s.modCore n f).issue = s.issue := rfl
@[simp] theorem modCore_turn (s : State) (n : Nat) (f : Core → Core) : (s.modCore n f).turn = s.turn := rfl
@[simp] theorem modCore_now (s : State) (n : Nat) (f : Core → Core) : (s.modCore n f).now = s.now := rfl
@[simp] theorem modCore_fresh (s : State) (n : Nat) (f : Core → Core) : (s.modCore n f).fresh = s.fresh := rfl
@[simp] theorem modCore_ids (s : State) (n : Nat) (f : Core → Core) : (s.modCore n f).ids = s.ids := rfl
@[simp] theorem modCore_stuck (s : State) (n : Nat) (f : Core → Core) : (s.modCore n f).stuck = s.stuck := rfl

@[simp] theorem modCluster_power (s : State) (n : Nat) (f : Cluster → Cluster) : (s.modCluster n f).power = s.power := rfl
@[simp] theorem modCluster_cores (s : State) (n : Nat) (f : Cluster → Cluster) : (s.modCluster n f).cores = s.cores := rfl
@[simp] theorem modCluster_dies (s : State) (n : Nat) (f : Cluster → Cluster) : (s.modCluster n f).dies = s.dies := rfl
@[simp] theorem modCluster_io (s : State) (n : Nat) (f : Cluster → Cluster) : (s.modCluster n f).io = s.io := rfl
@[simp] theorem modCluster_mem (s : State) (n : Nat) (f : Cluster → Cluster) : (s.modCluster n f).mem = s.mem := rfl
@[simp] theorem modCluster_poison (s : State) (n : Nat) (f : Cluster → Cluster) : (s.modCluster n f).poison = s.poison := rfl
@[simp] theorem modCluster_hbmErr (s : State) (n : Nat) (f : Cluster → Cluster) : (s.modCluster n f).hbmErr = s.hbmErr := rfl
@[simp] theorem modCluster_hostMem (s : State) (n : Nat) (f : Cluster → Cluster) : (s.modCluster n f).hostMem = s.hostMem := rfl
@[simp] theorem modCluster_agenda (s : State) (n : Nat) (f : Cluster → Cluster) : (s.modCluster n f).agenda = s.agenda := rfl
@[simp] theorem modCluster_later (s : State) (n : Nat) (f : Cluster → Cluster) : (s.modCluster n f).later = s.later := rfl
@[simp] theorem modCluster_ev (s : State) (n : Nat) (f : Cluster → Cluster) : (s.modCluster n f).ev = s.ev := rfl
@[simp] theorem modCluster_cur (s : State) (n : Nat) (f : Cluster → Cluster) : (s.modCluster n f).cur = s.cur := rfl
@[simp] theorem modCluster_issue (s : State) (n : Nat) (f : Cluster → Cluster) : (s.modCluster n f).issue = s.issue := rfl
@[simp] theorem modCluster_turn (s : State) (n : Nat) (f : Cluster → Cluster) : (s.modCluster n f).turn = s.turn := rfl
@[simp] theorem modCluster_now (s : State) (n : Nat) (f : Cluster → Cluster) : (s.modCluster n f).now = s.now := rfl
@[simp] theorem modCluster_fresh (s : State) (n : Nat) (f : Cluster → Cluster) : (s.modCluster n f).fresh = s.fresh := rfl
@[simp] theorem modCluster_ids (s : State) (n : Nat) (f : Cluster → Cluster) : (s.modCluster n f).ids = s.ids := rfl
@[simp] theorem modCluster_stuck (s : State) (n : Nat) (f : Cluster → Cluster) : (s.modCluster n f).stuck = s.stuck := rfl

@[simp] theorem modDie_power (s : State) (n : Nat) (f : Die → Die) : (s.modDie n f).power = s.power := rfl
@[simp] theorem modDie_cores (s : State) (n : Nat) (f : Die → Die) : (s.modDie n f).cores = s.cores := rfl
@[simp] theorem modDie_clusters (s : State) (n : Nat) (f : Die → Die) : (s.modDie n f).clusters = s.clusters := rfl
@[simp] theorem modDie_io (s : State) (n : Nat) (f : Die → Die) : (s.modDie n f).io = s.io := rfl
@[simp] theorem modDie_mem (s : State) (n : Nat) (f : Die → Die) : (s.modDie n f).mem = s.mem := rfl
@[simp] theorem modDie_poison (s : State) (n : Nat) (f : Die → Die) : (s.modDie n f).poison = s.poison := rfl
@[simp] theorem modDie_hbmErr (s : State) (n : Nat) (f : Die → Die) : (s.modDie n f).hbmErr = s.hbmErr := rfl
@[simp] theorem modDie_hostMem (s : State) (n : Nat) (f : Die → Die) : (s.modDie n f).hostMem = s.hostMem := rfl
@[simp] theorem modDie_agenda (s : State) (n : Nat) (f : Die → Die) : (s.modDie n f).agenda = s.agenda := rfl
@[simp] theorem modDie_later (s : State) (n : Nat) (f : Die → Die) : (s.modDie n f).later = s.later := rfl
@[simp] theorem modDie_ev (s : State) (n : Nat) (f : Die → Die) : (s.modDie n f).ev = s.ev := rfl
@[simp] theorem modDie_cur (s : State) (n : Nat) (f : Die → Die) : (s.modDie n f).cur = s.cur := rfl
@[simp] theorem modDie_issue (s : State) (n : Nat) (f : Die → Die) : (s.modDie n f).issue = s.issue := rfl
@[simp] theorem modDie_turn (s : State) (n : Nat) (f : Die → Die) : (s.modDie n f).turn = s.turn := rfl
@[simp] theorem modDie_now (s : State) (n : Nat) (f : Die → Die) : (s.modDie n f).now = s.now := rfl
@[simp] theorem modDie_fresh (s : State) (n : Nat) (f : Die → Die) : (s.modDie n f).fresh = s.fresh := rfl
@[simp] theorem modDie_ids (s : State) (n : Nat) (f : Die → Die) : (s.modDie n f).ids = s.ids := rfl
@[simp] theorem modDie_stuck (s : State) (n : Nat) (f : Die → Die) : (s.modDie n f).stuck = s.stuck := rfl

@[simp] theorem modIo_power (s : State) (f : Io → Io) : (s.modIo f).power = s.power := rfl
@[simp] theorem modIo_cores (s : State) (f : Io → Io) : (s.modIo f).cores = s.cores := rfl
@[simp] theorem modIo_clusters (s : State) (f : Io → Io) : (s.modIo f).clusters = s.clusters := rfl
@[simp] theorem modIo_dies (s : State) (f : Io → Io) : (s.modIo f).dies = s.dies := rfl
@[simp] theorem modIo_mem (s : State) (f : Io → Io) : (s.modIo f).mem = s.mem := rfl
@[simp] theorem modIo_poison (s : State) (f : Io → Io) : (s.modIo f).poison = s.poison := rfl
@[simp] theorem modIo_hbmErr (s : State) (f : Io → Io) : (s.modIo f).hbmErr = s.hbmErr := rfl
@[simp] theorem modIo_hostMem (s : State) (f : Io → Io) : (s.modIo f).hostMem = s.hostMem := rfl
@[simp] theorem modIo_agenda (s : State) (f : Io → Io) : (s.modIo f).agenda = s.agenda := rfl
@[simp] theorem modIo_later (s : State) (f : Io → Io) : (s.modIo f).later = s.later := rfl
@[simp] theorem modIo_ev (s : State) (f : Io → Io) : (s.modIo f).ev = s.ev := rfl
@[simp] theorem modIo_cur (s : State) (f : Io → Io) : (s.modIo f).cur = s.cur := rfl
@[simp] theorem modIo_issue (s : State) (f : Io → Io) : (s.modIo f).issue = s.issue := rfl
@[simp] theorem modIo_turn (s : State) (f : Io → Io) : (s.modIo f).turn = s.turn := rfl
@[simp] theorem modIo_now (s : State) (f : Io → Io) : (s.modIo f).now = s.now := rfl
@[simp] theorem modIo_fresh (s : State) (f : Io → Io) : (s.modIo f).fresh = s.fresh := rfl
@[simp] theorem modIo_ids (s : State) (f : Io → Io) : (s.modIo f).ids = s.ids := rfl
@[simp] theorem modIo_stuck (s : State) (f : Io → Io) : (s.modIo f).stuck = s.stuck := rfl

@[simp] theorem modThr_power (s : State) (n k : Nat) (f : Thread → Thread) : (s.modThr n k f).power = s.power := rfl
@[simp] theorem modThr_clusters (s : State) (n k : Nat) (f : Thread → Thread) : (s.modThr n k f).clusters = s.clusters := rfl
@[simp] theorem modThr_dies (s : State) (n k : Nat) (f : Thread → Thread) : (s.modThr n k f).dies = s.dies := rfl
@[simp] theorem modThr_io (s : State) (n k : Nat) (f : Thread → Thread) : (s.modThr n k f).io = s.io := rfl
@[simp] theorem modThr_mem (s : State) (n k : Nat) (f : Thread → Thread) : (s.modThr n k f).mem = s.mem := rfl
@[simp] theorem modThr_poison (s : State) (n k : Nat) (f : Thread → Thread) : (s.modThr n k f).poison = s.poison := rfl
@[simp] theorem modThr_hbmErr (s : State) (n k : Nat) (f : Thread → Thread) : (s.modThr n k f).hbmErr = s.hbmErr := rfl
@[simp] theorem modThr_hostMem (s : State) (n k : Nat) (f : Thread → Thread) : (s.modThr n k f).hostMem = s.hostMem := rfl
@[simp] theorem modThr_agenda (s : State) (n k : Nat) (f : Thread → Thread) : (s.modThr n k f).agenda = s.agenda := rfl
@[simp] theorem modThr_later (s : State) (n k : Nat) (f : Thread → Thread) : (s.modThr n k f).later = s.later := rfl
@[simp] theorem modThr_ev (s : State) (n k : Nat) (f : Thread → Thread) : (s.modThr n k f).ev = s.ev := rfl
@[simp] theorem modThr_cur (s : State) (n k : Nat) (f : Thread → Thread) : (s.modThr n k f).cur = s.cur := rfl
@[simp] theorem modThr_issue (s : State) (n k : Nat) (f : Thread → Thread) : (s.modThr n k f).issue = s.issue := rfl
@[simp] theorem modThr_turn (s : State) (n k : Nat) (f : Thread → Thread) : (s.modThr n k f).turn = s.turn := rfl
@[simp] theorem modThr_now (s : State) (n k : Nat) (f : Thread → Thread) : (s.modThr n k f).now = s.now := rfl
@[simp] theorem modThr_fresh (s : State) (n k : Nat) (f : Thread → Thread) : (s.modThr n k f).fresh = s.fresh := rfl
@[simp] theorem modThr_ids (s : State) (n k : Nat) (f : Thread → Thread) : (s.modThr n k f).ids = s.ids := rfl
@[simp] theorem modThr_stuck (s : State) (n k : Nat) (f : Thread → Thread) : (s.modThr n k f).stuck = s.stuck := rfl

@[simp] theorem modMe_power (s : State) (f : Thread → Thread) : (s.modMe f).power = s.power := rfl
@[simp] theorem modMe_clusters (s : State) (f : Thread → Thread) : (s.modMe f).clusters = s.clusters := rfl
@[simp] theorem modMe_dies (s : State) (f : Thread → Thread) : (s.modMe f).dies = s.dies := rfl
@[simp] theorem modMe_io (s : State) (f : Thread → Thread) : (s.modMe f).io = s.io := rfl
@[simp] theorem modMe_mem (s : State) (f : Thread → Thread) : (s.modMe f).mem = s.mem := rfl
@[simp] theorem modMe_poison (s : State) (f : Thread → Thread) : (s.modMe f).poison = s.poison := rfl
@[simp] theorem modMe_hbmErr (s : State) (f : Thread → Thread) : (s.modMe f).hbmErr = s.hbmErr := rfl
@[simp] theorem modMe_hostMem (s : State) (f : Thread → Thread) : (s.modMe f).hostMem = s.hostMem := rfl
@[simp] theorem modMe_agenda (s : State) (f : Thread → Thread) : (s.modMe f).agenda = s.agenda := rfl
@[simp] theorem modMe_later (s : State) (f : Thread → Thread) : (s.modMe f).later = s.later := rfl
@[simp] theorem modMe_ev (s : State) (f : Thread → Thread) : (s.modMe f).ev = s.ev := rfl
@[simp] theorem modMe_cur (s : State) (f : Thread → Thread) : (s.modMe f).cur = s.cur := rfl
@[simp] theorem modMe_issue (s : State) (f : Thread → Thread) : (s.modMe f).issue = s.issue := rfl
@[simp] theorem modMe_turn (s : State) (f : Thread → Thread) : (s.modMe f).turn = s.turn := rfl
@[simp] theorem modMe_now (s : State) (f : Thread → Thread) : (s.modMe f).now = s.now := rfl
@[simp] theorem modMe_fresh (s : State) (f : Thread → Thread) : (s.modMe f).fresh = s.fresh := rfl
@[simp] theorem modMe_ids (s : State) (f : Thread → Thread) : (s.modMe f).ids = s.ids := rfl
@[simp] theorem modMe_stuck (s : State) (f : Thread → Thread) : (s.modMe f).stuck = s.stuck := rfl

@[simp] theorem modMyCore_power (s : State) (f : Core → Core) : (s.modMyCore f).power = s.power := rfl
@[simp] theorem modMyCore_clusters (s : State) (f : Core → Core) : (s.modMyCore f).clusters = s.clusters := rfl
@[simp] theorem modMyCore_dies (s : State) (f : Core → Core) : (s.modMyCore f).dies = s.dies := rfl
@[simp] theorem modMyCore_io (s : State) (f : Core → Core) : (s.modMyCore f).io = s.io := rfl
@[simp] theorem modMyCore_mem (s : State) (f : Core → Core) : (s.modMyCore f).mem = s.mem := rfl
@[simp] theorem modMyCore_poison (s : State) (f : Core → Core) : (s.modMyCore f).poison = s.poison := rfl
@[simp] theorem modMyCore_hbmErr (s : State) (f : Core → Core) : (s.modMyCore f).hbmErr = s.hbmErr := rfl
@[simp] theorem modMyCore_hostMem (s : State) (f : Core → Core) : (s.modMyCore f).hostMem = s.hostMem := rfl
@[simp] theorem modMyCore_agenda (s : State) (f : Core → Core) : (s.modMyCore f).agenda = s.agenda := rfl
@[simp] theorem modMyCore_later (s : State) (f : Core → Core) : (s.modMyCore f).later = s.later := rfl
@[simp] theorem modMyCore_ev (s : State) (f : Core → Core) : (s.modMyCore f).ev = s.ev := rfl
@[simp] theorem modMyCore_cur (s : State) (f : Core → Core) : (s.modMyCore f).cur = s.cur := rfl
@[simp] theorem modMyCore_issue (s : State) (f : Core → Core) : (s.modMyCore f).issue = s.issue := rfl
@[simp] theorem modMyCore_turn (s : State) (f : Core → Core) : (s.modMyCore f).turn = s.turn := rfl
@[simp] theorem modMyCore_now (s : State) (f : Core → Core) : (s.modMyCore f).now = s.now := rfl
@[simp] theorem modMyCore_fresh (s : State) (f : Core → Core) : (s.modMyCore f).fresh = s.fresh := rfl
@[simp] theorem modMyCore_ids (s : State) (f : Core → Core) : (s.modMyCore f).ids = s.ids := rfl
@[simp] theorem modMyCore_stuck (s : State) (f : Core → Core) : (s.modMyCore f).stuck = s.stuck := rfl

@[simp] theorem push_power (s : State) (l : List Ev) : (s.push l).power = s.power := rfl
@[simp] theorem push_cores (s : State) (l : List Ev) : (s.push l).cores = s.cores := rfl
@[simp] theorem push_clusters (s : State) (l : List Ev) : (s.push l).clusters = s.clusters := rfl
@[simp] theorem push_dies (s : State) (l : List Ev) : (s.push l).dies = s.dies := rfl
@[simp] theorem push_io (s : State) (l : List Ev) : (s.push l).io = s.io := rfl
@[simp] theorem push_mem (s : State) (l : List Ev) : (s.push l).mem = s.mem := rfl
@[simp] theorem push_poison (s : State) (l : List Ev) : (s.push l).poison = s.poison := rfl
@[simp] theorem push_hbmErr (s : State) (l : List Ev) : (s.push l).hbmErr = s.hbmErr := rfl
@[simp] theorem push_hostMem (s : State) (l : List Ev) : (s.push l).hostMem = s.hostMem := rfl
@[simp] theorem push_later (s : State) (l : List Ev) : (s.push l).later = s.later := rfl
@[simp] theorem push_ev (s : State) (l : List Ev) : (s.push l).ev = s.ev := rfl
@[simp] theorem push_cur (s : State) (l : List Ev) : (s.push l).cur = s.cur := rfl
@[simp] theorem push_issue (s : State) (l : List Ev) : (s.push l).issue = s.issue := rfl
@[simp] theorem push_turn (s : State) (l : List Ev) : (s.push l).turn = s.turn := rfl
@[simp] theorem push_now (s : State) (l : List Ev) : (s.push l).now = s.now := rfl
@[simp] theorem push_fresh (s : State) (l : List Ev) : (s.push l).fresh = s.fresh := rfl
@[simp] theorem push_ids (s : State) (l : List Ev) : (s.push l).ids = s.ids := rfl
@[simp] theorem push_stuck (s : State) (l : List Ev) : (s.push l).stuck = s.stuck := rfl

@[simp] theorem defer_power (s : State) (e : Ev) : (s.defer e).power = s.power := rfl
@[simp] theorem defer_cores (s : State) (e : Ev) : (s.defer e).cores = s.cores := rfl
@[simp] theorem defer_clusters (s : State) (e : Ev) : (s.defer e).clusters = s.clusters := rfl
@[simp] theorem defer_dies (s : State) (e : Ev) : (s.defer e).dies = s.dies := rfl
@[simp] theorem defer_io (s : State) (e : Ev) : (s.defer e).io = s.io := rfl
@[simp] theorem defer_mem (s : State) (e : Ev) : (s.defer e).mem = s.mem := rfl
@[simp] theorem defer_poison (s : State) (e : Ev) : (s.defer e).poison = s.poison := rfl
@[simp] theorem defer_hbmErr (s : State) (e : Ev) : (s.defer e).hbmErr = s.hbmErr := rfl
@[simp] theorem defer_hostMem (s : State) (e : Ev) : (s.defer e).hostMem = s.hostMem := rfl
@[simp] theorem defer_agenda (s : State) (e : Ev) : (s.defer e).agenda = s.agenda := rfl
@[simp] theorem defer_ev (s : State) (e : Ev) : (s.defer e).ev = s.ev := rfl
@[simp] theorem defer_cur (s : State) (e : Ev) : (s.defer e).cur = s.cur := rfl
@[simp] theorem defer_issue (s : State) (e : Ev) : (s.defer e).issue = s.issue := rfl
@[simp] theorem defer_turn (s : State) (e : Ev) : (s.defer e).turn = s.turn := rfl
@[simp] theorem defer_now (s : State) (e : Ev) : (s.defer e).now = s.now := rfl
@[simp] theorem defer_fresh (s : State) (e : Ev) : (s.defer e).fresh = s.fresh := rfl
@[simp] theorem defer_ids (s : State) (e : Ev) : (s.defer e).ids = s.ids := rfl
@[simp] theorem defer_stuck (s : State) (e : Ev) : (s.defer e).stuck = s.stuck := rfl

@[simp] theorem stop_power (s : State) (f : Fault) : (s.stop f).power = s.power := rfl
@[simp] theorem stop_cores (s : State) (f : Fault) : (s.stop f).cores = s.cores := rfl
@[simp] theorem stop_clusters (s : State) (f : Fault) : (s.stop f).clusters = s.clusters := rfl
@[simp] theorem stop_dies (s : State) (f : Fault) : (s.stop f).dies = s.dies := rfl
@[simp] theorem stop_io (s : State) (f : Fault) : (s.stop f).io = s.io := rfl
@[simp] theorem stop_mem (s : State) (f : Fault) : (s.stop f).mem = s.mem := rfl
@[simp] theorem stop_poison (s : State) (f : Fault) : (s.stop f).poison = s.poison := rfl
@[simp] theorem stop_hbmErr (s : State) (f : Fault) : (s.stop f).hbmErr = s.hbmErr := rfl
@[simp] theorem stop_hostMem (s : State) (f : Fault) : (s.stop f).hostMem = s.hostMem := rfl
@[simp] theorem stop_agenda (s : State) (f : Fault) : (s.stop f).agenda = s.agenda := rfl
@[simp] theorem stop_later (s : State) (f : Fault) : (s.stop f).later = s.later := rfl
@[simp] theorem stop_ev (s : State) (f : Fault) : (s.stop f).ev = s.ev := rfl
@[simp] theorem stop_cur (s : State) (f : Fault) : (s.stop f).cur = s.cur := rfl
@[simp] theorem stop_issue (s : State) (f : Fault) : (s.stop f).issue = s.issue := rfl
@[simp] theorem stop_turn (s : State) (f : Fault) : (s.stop f).turn = s.turn := rfl
@[simp] theorem stop_now (s : State) (f : Fault) : (s.stop f).now = s.now := rfl
@[simp] theorem stop_fresh (s : State) (f : Fault) : (s.stop f).fresh = s.fresh := rfl
@[simp] theorem stop_ids (s : State) (f : Fault) : (s.stop f).ids = s.ids := rfl

@[simp] theorem tick_power (s : State) : (s.tick).power = s.power := rfl
@[simp] theorem tick_cores (s : State) : (s.tick).cores = s.cores := rfl
@[simp] theorem tick_clusters (s : State) : (s.tick).clusters = s.clusters := rfl
@[simp] theorem tick_dies (s : State) : (s.tick).dies = s.dies := rfl
@[simp] theorem tick_io (s : State) : (s.tick).io = s.io := rfl
@[simp] theorem tick_mem (s : State) : (s.tick).mem = s.mem := rfl
@[simp] theorem tick_poison (s : State) : (s.tick).poison = s.poison := rfl
@[simp] theorem tick_hbmErr (s : State) : (s.tick).hbmErr = s.hbmErr := rfl
@[simp] theorem tick_hostMem (s : State) : (s.tick).hostMem = s.hostMem := rfl
@[simp] theorem tick_agenda (s : State) : (s.tick).agenda = s.agenda := rfl
@[simp] theorem tick_later (s : State) : (s.tick).later = s.later := rfl
@[simp] theorem tick_ev (s : State) : (s.tick).ev = s.ev := rfl
@[simp] theorem tick_cur (s : State) : (s.tick).cur = s.cur := rfl
@[simp] theorem tick_issue (s : State) : (s.tick).issue = s.issue := rfl
@[simp] theorem tick_turn (s : State) : (s.tick).turn = s.turn := rfl
@[simp] theorem tick_now (s : State) : (s.tick).now = s.now := rfl
@[simp] theorem tick_ids (s : State) : (s.tick).ids = s.ids := rfl
@[simp] theorem tick_stuck (s : State) : (s.tick).stuck = s.stuck := rfl

@[simp] theorem push_agenda (s : State) (l : List Ev) : (s.push l).agenda = s.agenda ++ l := rfl
@[simp] theorem defer_later (s : State) (e : Ev) : (s.defer e).later = s.later ++ [e] := rfl
@[simp] theorem modIo_io (s : State) (f : Io → Io) : (s.modIo f).io = f s.io := rfl
@[simp] theorem tick_fresh (s : State) : s.tick.fresh = s.fresh + 1 := rfl
@[simp] theorem stop_stuck (s : State) (f : Fault) : (s.stop f).stuck = s.stuck.or (some f) := rfl

@[simp] theorem modCore_clusterAt (s : State) (n : Nat) (f : Core → Core) (m : Nat) : (s.modCore n f).clusterAt m = s.clusterAt m := rfl
@[simp] theorem modCore_dieAt (s : State) (n : Nat) (f : Core → Core) (m : Nat) : (s.modCore n f).dieAt m = s.dieAt m := rfl
@[simp] theorem modCluster_coreAt (s : State) (n : Nat) (f : Cluster → Cluster) (m : Nat) : (s.modCluster n f).coreAt m = s.coreAt m := rfl
@[simp] theorem modCluster_thr (s : State) (n : Nat) (f : Cluster → Cluster) (m j : Nat) : (s.modCluster n f).thr m j = s.thr m j := rfl
@[simp] theorem modCluster_me (s : State) (n : Nat) (f : Cluster → Cluster) : (s.modCluster n f).me = s.me := rfl
@[simp] theorem modCluster_dieAt (s : State) (n : Nat) (f : Cluster → Cluster) (m : Nat) : (s.modCluster n f).dieAt m = s.dieAt m := rfl
@[simp] theorem modDie_coreAt (s : State) (n : Nat) (f : Die → Die) (m : Nat) : (s.modDie n f).coreAt m = s.coreAt m := rfl
@[simp] theorem modDie_thr (s : State) (n : Nat) (f : Die → Die) (m j : Nat) : (s.modDie n f).thr m j = s.thr m j := rfl
@[simp] theorem modDie_me (s : State) (n : Nat) (f : Die → Die) : (s.modDie n f).me = s.me := rfl
@[simp] theorem modDie_clusterAt (s : State) (n : Nat) (f : Die → Die) (m : Nat) : (s.modDie n f).clusterAt m = s.clusterAt m := rfl
@[simp] theorem modIo_coreAt (s : State) (f : Io → Io) (m : Nat) : (s.modIo f).coreAt m = s.coreAt m := rfl
@[simp] theorem modIo_thr (s : State) (f : Io → Io) (m j : Nat) : (s.modIo f).thr m j = s.thr m j := rfl
@[simp] theorem modIo_me (s : State) (f : Io → Io) : (s.modIo f).me = s.me := rfl
@[simp] theorem modIo_clusterAt (s : State) (f : Io → Io) (m : Nat) : (s.modIo f).clusterAt m = s.clusterAt m := rfl
@[simp] theorem modIo_dieAt (s : State) (f : Io → Io) (m : Nat) : (s.modIo f).dieAt m = s.dieAt m := rfl
@[simp] theorem modThr_clusterAt (s : State) (n k : Nat) (f : Thread → Thread) (m : Nat) : (s.modThr n k f).clusterAt m = s.clusterAt m := rfl
@[simp] theorem modThr_dieAt (s : State) (n k : Nat) (f : Thread → Thread) (m : Nat) : (s.modThr n k f).dieAt m = s.dieAt m := rfl
@[simp] theorem modMe_clusterAt (s : State) (f : Thread → Thread) (m : Nat) : (s.modMe f).clusterAt m = s.clusterAt m := rfl
@[simp] theorem modMe_dieAt (s : State) (f : Thread → Thread) (m : Nat) : (s.modMe f).dieAt m = s.dieAt m := rfl
@[simp] theorem modMyCore_clusterAt (s : State) (f : Core → Core) (m : Nat) : (s.modMyCore f).clusterAt m = s.clusterAt m := rfl
@[simp] theorem modMyCore_dieAt (s : State) (f : Core → Core) (m : Nat) : (s.modMyCore f).dieAt m = s.dieAt m := rfl
@[simp] theorem push_coreAt (s : State) (l : List Ev) (m : Nat) : (s.push l).coreAt m = s.coreAt m := rfl
@[simp] theorem push_thr (s : State) (l : List Ev) (m j : Nat) : (s.push l).thr m j = s.thr m j := rfl
@[simp] theorem push_me (s : State) (l : List Ev) : (s.push l).me = s.me := rfl
@[simp] theorem push_clusterAt (s : State) (l : List Ev) (m : Nat) : (s.push l).clusterAt m = s.clusterAt m := rfl
@[simp] theorem push_dieAt (s : State) (l : List Ev) (m : Nat) : (s.push l).dieAt m = s.dieAt m := rfl
@[simp] theorem defer_coreAt (s : State) (e : Ev) (m : Nat) : (s.defer e).coreAt m = s.coreAt m := rfl
@[simp] theorem defer_thr (s : State) (e : Ev) (m j : Nat) : (s.defer e).thr m j = s.thr m j := rfl
@[simp] theorem defer_me (s : State) (e : Ev) : (s.defer e).me = s.me := rfl
@[simp] theorem defer_clusterAt (s : State) (e : Ev) (m : Nat) : (s.defer e).clusterAt m = s.clusterAt m := rfl
@[simp] theorem defer_dieAt (s : State) (e : Ev) (m : Nat) : (s.defer e).dieAt m = s.dieAt m := rfl
@[simp] theorem stop_coreAt (s : State) (f : Fault) (m : Nat) : (s.stop f).coreAt m = s.coreAt m := rfl
@[simp] theorem stop_thr (s : State) (f : Fault) (m j : Nat) : (s.stop f).thr m j = s.thr m j := rfl
@[simp] theorem stop_me (s : State) (f : Fault) : (s.stop f).me = s.me := rfl
@[simp] theorem stop_clusterAt (s : State) (f : Fault) (m : Nat) : (s.stop f).clusterAt m = s.clusterAt m := rfl
@[simp] theorem stop_dieAt (s : State) (f : Fault) (m : Nat) : (s.stop f).dieAt m = s.dieAt m := rfl
@[simp] theorem tick_coreAt (s : State) (m : Nat) : (s.tick).coreAt m = s.coreAt m := rfl
@[simp] theorem tick_thr (s : State) (m j : Nat) : (s.tick).thr m j = s.thr m j := rfl
@[simp] theorem tick_me (s : State) : (s.tick).me = s.me := rfl
@[simp] theorem tick_clusterAt (s : State) (m : Nat) : (s.tick).clusterAt m = s.clusterAt m := rfl
@[simp] theorem tick_dieAt (s : State) (m : Nat) : (s.tick).dieAt m = s.dieAt m := rfl

end Sys2Proof.Machine
end

