-- ==== Sys2Proof/Laws/Ops.lean ====
section
/-! SUPPORT. What the shared operations of an instruction's end do: each says once what its update leaves behind. -/

namespace Sys2Proof.Machine

set_option Elab.async false

/-- A state in which an instruction has had its effect and has not gone on yet. -/
structure Made (s t : State) (e : Effect) : Prop where
  rest : t = { s with cores := t.cores, agenda := s.agenda ++ e.events, ids := s.ids + e.writes.length }
  cores : ∀ m, m ≠ s.cur.core → t.coreAt m = s.coreAt m
  core : t.coreAt s.cur.core = { e.core with threads := (t.coreAt s.cur.core).threads }
  slots : ∀ j, j ≠ s.cur.slot → t.thr s.cur.core j = s.thr s.cur.core j
  me : t.thr s.cur.core s.cur.slot = { e.thread with pend := e.thread.pend ++ tagged s.ids e.writes }

theorem Made.cur {s t : State} {e : Effect} (h : Made s t e) : t.cur = s.cur := by rw [h.rest]

/-- What two updates of a thread's own state leave alone together. -/
theorem rest_trans {s t u : State} {a a' : List Ev} {n n' : Nat}
    (h : t = { s with cores := t.cores, agenda := a, ids := n })
    (hu : u = { t with cores := u.cores, agenda := a', ids := n' }) :
    u = { s with cores := u.cores, agenda := a', ids := n' } := hu.trans (by rw [h])

theorem Made.agenda {s t : State} {e : Effect} (h : Made s t e) : t.agenda = s.agenda ++ e.events := by rw [h.rest]

theorem Made.ids {s t : State} {e : Effect} (h : Made s t e) : t.ids = s.ids + e.writes.length := by rw [h.rest]

/-- Nothing has happened yet. -/
theorem made_none (s : State) : Made s s (Effect.none s) where
  rest := by simp [Effect.none]
  cores := fun _ _ => rfl
  core := rfl
  slots := fun _ _ => rfl
  me := by simp [Effect.none, tagged, State.me]

/-- Tags of a list of writes with one more. -/
theorem tagged_append (n : Nat) (l : List (Dest × Option Val)) (x : Dest × Option Val) :
    tagged n (l ++ [x]) = tagged n l ++ [⟨n + l.length, x.1, x.2⟩] := by
  induction l generalizing n with
  | nil => rfl
  | cons y l ih => simp [tagged, ih, Nat.add_assoc, Nat.add_comm 1]

/-- One more write of the instruction. -/
theorem Made.wr {s t : State} {e : Effect} (h : Made s t e) (d : Dest) (v : Val) :
    Made s (t.wr d v) { e with writes := e.writes ++ [(d, some v)] } := by
  have hc := h.cur
  have hids : t.ids = s.ids + e.writes.length := by rw [h.rest]
  refine ⟨?_, ?_, ?_, ?_, ?_⟩
  · rw [← h.agenda, List.length_append, ← Nat.add_assoc, ← hids]
    exact rest_trans h.rest rfl
  · intro m hm
    have : (t.wr d v).coreAt m = t.coreAt m := by
      unfold State.wr State.modMe State.modThr
      rw [coreAt_modCore_other _ _ (by simpa [hc] using hm)]
      rfl
    rw [this, h.cores m hm]
  · have : (t.wr d v).coreAt s.cur.core =
        { t.coreAt s.cur.core with threads := ((t.wr d v).coreAt s.cur.core).threads } := by
      unfold State.wr State.modMe State.modThr
      rw [show ({ t with ids := t.ids + 1 } : State).cur = s.cur from hc, coreAt_modCore]
      rfl
    rw [this, h.core]
  · intro j hj
    have : (t.wr d v).thr s.cur.core j = t.thr s.cur.core j := by
      unfold State.wr State.modMe
      rw [show ({ t with ids := t.ids + 1 } : State).cur = s.cur from hc, thr_modThr_slot _ _ _ hj]
      rfl
    rw [this, h.slots j hj]
  · have : (t.wr d v).thr s.cur.core s.cur.slot =
        (fun x : Thread => { x with pend := x.pend ++ [⟨t.ids, d, some v⟩] }) (t.thr s.cur.core s.cur.slot) := by
      unfold State.wr State.modMe
      rw [show ({ t with ids := t.ids + 1 } : State).cur = s.cur from hc, thr_modThr]
      rfl
    rw [this, h.me, tagged_append, hids]
    simp

/-- A change of the thread's own fields, its writes apart. -/
theorem Made.modMe {s t : State} {e : Effect} (h : Made s t e) (f : Thread → Thread)
    (hf : ∀ (x : Thread) l, f { x with pend := l } = { f x with pend := l }) :
    Made s (t.modMe f) { e with thread := f e.thread } := by
  have hc := h.cur
  have hp : ∀ x : Thread, (f x).pend = x.pend := fun x => by rw [show x = { x with pend := x.pend } from rfl, hf]
  refine ⟨?_, ?_, ?_, ?_, ?_⟩
  · rw [← h.agenda, ← h.ids]
    exact rest_trans h.rest rfl
  · intro m hm
    rw [State.modMe, State.modThr, coreAt_modCore_other _ _ (by simpa [hc] using hm), h.cores m hm]
  · rw [State.modMe, State.modThr, hc, coreAt_modCore, h.core]
  · intro j hj
    rw [State.modMe, hc, thr_modThr_slot _ _ _ hj, h.slots j hj]
  · rw [State.modMe, hc, thr_modThr, h.me, hf, hp]

/-- A change of the core's own fields, its threads apart. -/
theorem Made.modCore {s t : State} {e : Effect} (h : Made s t e) (f : Core → Core)
    (hf : ∀ (x : Core) l, f { x with threads := l } = { f x with threads := l }) :
    Made s (t.modMyCore f) { e with core := f e.core } := by
  have hc := h.cur
  have hp : ∀ x : Core, (f x).threads = x.threads := fun x => by rw [show x = { x with threads := x.threads } from rfl, hf]
  refine ⟨?_, ?_, ?_, ?_, ?_⟩
  · rw [← h.agenda, ← h.ids]
    exact rest_trans h.rest rfl
  · intro m hm
    rw [State.modMyCore, coreAt_modCore_other _ _ (by simpa [hc] using hm), h.cores m hm]
  · rw [State.modMyCore, hc, coreAt_modCore, h.core, hf]
  · intro j hj
    rw [State.modMyCore, thr_modCore _ _ _ _ _ hp, h.slots j hj]
  · rw [State.modMyCore, thr_modCore _ _ _ _ _ hp, h.me]

/-- Events that the instruction brings about. -/
theorem Made.push {s t : State} {e : Effect} (h : Made s t e) (l : List Ev) :
    Made s (t.push l) { e with events := e.events ++ l } := by
  refine ⟨?_, h.cores, h.core, h.slots, h.me⟩
  rw [← List.append_assoc, ← h.agenda, ← h.ids]
  exact rest_trans h.rest rfl

/-- What an update of the current thread, its writes included, leaves behind. -/
theorem modMe_onlyMe {s t : State} (hc : t.cur = s.cur) (core : Core)
    (hrest : t = { s with cores := t.cores, agenda := t.agenda, ids := t.ids })
    (hcores : ∀ m, m ≠ s.cur.core → t.coreAt m = s.coreAt m)
    (hcore : t.coreAt s.cur.core = { core with threads := (t.coreAt s.cur.core).threads })
    (hslots : ∀ j, j ≠ s.cur.slot → t.thr s.cur.core j = s.thr s.cur.core j) (f : Thread → Thread) :
    OnlyMe s (t.modMe f) core where
  rest := rest_trans hrest rfl
  cores := fun m hm => by
    rw [State.modMe, State.modThr, coreAt_modCore_other _ _ (by simpa [hc] using hm), hcores m hm]
  core := by rw [State.modMe, State.modThr, hc, coreAt_modCore, hcore]
  slots := fun j hj => by rw [State.modMe, hc, thr_modThr_slot _ _ _ hj, hslots j hj]

theorem OnlyMe.modMe {s t : State} {core : Core} (h : OnlyMe s t core) (f : Thread → Thread) :
    OnlyMe s (t.modMe f) core :=
  modMe_onlyMe (by rw [h.rest]) core h.rest h.cores h.core h.slots f

theorem OnlyMe.push {s t : State} {core : Core} (h : OnlyMe s t core) (l : List Ev) : OnlyMe s (t.push l) core :=
  ⟨rest_trans h.rest rfl, h.cores, h.core, h.slots⟩

theorem Made.onlyMe {s t : State} {e : Effect} (h : Made s t e) : OnlyMe s t e.core :=
  ⟨rest_trans (u := t) h.rest rfl, h.cores, h.core, h.slots⟩

theorem me_modMe' {s t : State} (hc : t.cur = s.cur) (f : Thread → Thread) :
    (t.modMe f).thr s.cur.core s.cur.slot = f (t.thr s.cur.core s.cur.slot) := by
  rw [State.modMe, hc, thr_modThr]

/-- Once an instruction has had its effect, its retirement makes it the thread's whole step. -/
theorem does_over_of_made {i : Instr} {s' s t : State} {e : Effect} (h : Made s t e)
    (hl : e.thread.repLive = s.me.repLive) (hr : e.thread.repcnt = s.me.repcnt)
    (hx : exec i s' = .next (t.retireTo e.target)) : DoesOver i s' s e := by
  have hc := h.cur
  refine ⟨_, hx, ?_⟩
  let t1 := t.modMe fun x => { x with wait := .none, blocked := none }
  have h1 : OnlyMe s t1 e.core := h.onlyMe.modMe _
  have hc1 : t1.cur = s.cur := hc
  have hm1 : t1.thr s.cur.core s.cur.slot =
      { e.thread with pend := e.thread.pend ++ tagged s.ids e.writes, wait := .none, blocked := none } := by
    rw [me_modMe' hc, h.me]
  have hme1 : t1.me = t1.thr s.cur.core s.cur.slot := by rw [State.me, hc1]
  have ha1 : t1.agenda = s.agenda ++ e.events := h.agenda
  have hi1 : t1.ids = s.ids + e.writes.length := h.ids
  have hnp : t1.nextPc = s.nextPc := by unfold State.nextPc; rw [hc1]
  have hsw : t1.cur.iss.hdr.sw = s.cur.iss.hdr.sw := by rw [hc1]
  have hrep : (t1.me.repLive && decide (1 < t1.me.repcnt.toNat)) = s.repeats := by
    rw [hme1, hm1]; simp only [hl, hr, State.repeats]
  have hgoal : t.retireTo e.target = if s.repeats then
      (t1.modMe fun t => { t with repcnt := t.repcnt - 1, repdone := t.repdone + 1 }).park
      else
        let u := t1.modMe fun t => { t.repEnd with pc := e.target.getD t1.nextPc }
        if e.target.isSome || s.cur.iss.hdr.sw then u.park else u := by
    unfold State.retireTo
    simp only [← hrep, ← hsw]
    rfl
  rw [hgoal]
  cases hR : s.repeats with
  | true =>
    simp only [if_true, State.park]
    refine ⟨(((h1.modMe _).modMe _).push _), ?_, ?_, ?_⟩
    · rw [push_me, me_modMe, me_modMe, hme1, hm1]
      simp [State.doneThread, State.endsGroup, hR]
    · exact hi1
    · show (t1.agenda ++ _) = _
      rw [ha1]; simp [State.endsGroup, hR, hc1]
  | false =>
    have hu := h1.modMe fun t => { t.repEnd with pc := e.target.getD t1.nextPc }
    cases hS : (e.target.isSome || s.cur.iss.hdr.sw) with
    | true =>
      simp only [Bool.false_eq_true, if_false, if_true, State.park]
      refine ⟨((hu.modMe _).push _), ?_, ?_, ?_⟩
      · rw [push_me, me_modMe, me_modMe, hme1, hm1, hnp]
        simp only [State.doneThread, State.endsGroup, hR, Bool.false_or, hS, if_true, Bool.false_eq_true, if_false]
        unfold Thread.repEnd
        split <;> rfl
      · exact hi1
      · show (t1.agenda ++ _) = _
        rw [ha1]; simp [State.endsGroup, hR, hS, hc1]
    | false =>
      simp only [Bool.false_eq_true, if_false]
      refine ⟨hu, ?_, ?_, ?_⟩
      · rw [me_modMe, hme1, hm1, hnp]
        simp only [State.doneThread, State.endsGroup, hR, Bool.false_or, hS, Bool.false_eq_true, if_false]
      · exact hi1
      · show t1.agenda = _
        rw [ha1]; simp [State.endsGroup, hR, hS]

theorem does_of_made {i : Instr} {s t : State} {e : Effect} (h : Made s t e)
    (hl : e.thread.repLive = s.me.repLive) (hr : e.thread.repcnt = s.me.repcnt)
    (hx : exec i s = .next (t.retireTo e.target)) : Does i s e := does_over_of_made h hl hr hx

/-- One scalar result. -/
theorem gives_of {i : Instr} {s : State} (a : XReg) (v : Word) (hx : exec i s = .next (s.wx a v).retire) :
    Gives i s a v :=
  does_of_made ((made_none s).wr (s.destX a) (v.setWidth 2048)) rfl rfl hx

/-- One predicate result. -/
theorem decides_of {i : Instr} {s : State} (a : PReg) (v : Bool) (hx : exec i s = .next (s.wp a v).retire) :
    Decides i s a v :=
  does_of_made ((made_none s).wr (destP a) (BitVec.ofNat 2048 v.toNat)) rfl rfl hx

end Sys2Proof.Machine
end

