-- ==== Sys2Proof/Laws/PerInstr.lean ====
section
/-! SUPPORT. What holds of each instruction as syntax: a well-formed instruction's word decodes to it (R217 to R228). -/

namespace Sys2Proof.Laws

set_option Elab.async false
set_option linter.unusedSimpArgs false
set_option linter.unusedVariables false

/-- The word of a well-formed instruction decodes to that instruction and its header. -/
def RoundTrip.Statement (i : Instr) : Prop :=
  ∀ (h : Hdr) (w : Nat), i.wf h = true → encodeWord h i = some w → decodeWord h.len w = some (h, i)

theorem build_01 {k : Fields} (h : k.opc = 0x01) : build k = build01 k := by cases k; subst h; rfl
theorem build_02 {k : Fields} (h : k.opc = 0x02) : build k = build02 k := by cases k; subst h; rfl
theorem build_03 {k : Fields} (h : k.opc = 0x03) : build k = build03 k := by cases k; subst h; rfl
theorem build_04 {k : Fields} (h : k.opc = 0x04) : build k = build04 k := by cases k; subst h; rfl
theorem build_05 {k : Fields} (h : k.opc = 0x05) : build k = build05 k := by cases k; subst h; rfl
theorem build_06 {k : Fields} (h : k.opc = 0x06) : build k = build06 k := by cases k; subst h; rfl
theorem build_07 {k : Fields} (h : k.opc = 0x07) : build k = build07 k := by cases k; subst h; rfl
theorem build_08 {k : Fields} (h : k.opc = 0x08) : build k = build08 k := by cases k; subst h; rfl
theorem build_09 {k : Fields} (h : k.opc = 0x09) : build k = build09 k := by cases k; subst h; rfl
theorem build_0A {k : Fields} (h : k.opc = 0x0A) : build k = build0A k := by cases k; subst h; rfl
theorem build_0B {k : Fields} (h : k.opc = 0x0B) : build k = build0B k := by cases k; subst h; rfl
theorem build_0C {k : Fields} (h : k.opc = 0x0C) : build k = build0C k := by cases k; subst h; rfl
theorem build_0D {k : Fields} (h : k.opc = 0x0D) : build k = build0D k := by cases k; subst h; rfl
theorem build_0E {k : Fields} (h : k.opc = 0x0E) : build k = build0E k := by cases k; subst h; rfl
theorem build_0F {k : Fields} (h : k.opc = 0x0F) : build k = build0F k := by cases k; subst h; rfl
theorem build_10 {k : Fields} (h : k.opc = 0x10) : build k = build10 k := by cases k; subst h; rfl
theorem build_18 {k : Fields} (h : k.opc = 0x18) : build k = build18 k := by cases k; subst h; rfl
theorem build_19 {k : Fields} (h : k.opc = 0x19) : build k = build19 k := by cases k; subst h; rfl
theorem build_1A {k : Fields} (h : k.opc = 0x1A) : build k = build1A k := by cases k; subst h; rfl
theorem build_1B {k : Fields} (h : k.opc = 0x1B) : build k = build1B k := by cases k; subst h; rfl
theorem build_1C {k : Fields} (h : k.opc = 0x1C) : build k = build1C k := by cases k; subst h; rfl
theorem build_1D {k : Fields} (h : k.opc = 0x1D) : build k = build1D k := by cases k; subst h; rfl
theorem build_1E {k : Fields} (h : k.opc = 0x1E) : build k = build1E k := by cases k; subst h; rfl
theorem build_1F {k : Fields} (h : k.opc = 0x1F) : build k = build1F k := by cases k; subst h; rfl
theorem build_20 {k : Fields} (h : k.opc = 0x20) : build k = build20 k := by cases k; subst h; rfl
theorem build_21 {k : Fields} (h : k.opc = 0x21) : build k = build21 k := by cases k; subst h; rfl
theorem build_22 {k : Fields} (h : k.opc = 0x22) : build k = build22 k := by cases k; subst h; rfl
theorem build_40 {k : Fields} (h : k.opc = 0x40) : build k = build40 k := by cases k; subst h; rfl
theorem build_41 {k : Fields} (h : k.opc = 0x41) : build k = build41 k := by cases k; subst h; rfl
theorem build_42 {k : Fields} (h : k.opc = 0x42) : build k = build42 k := by cases k; subst h; rfl
theorem build_43 {k : Fields} (h : k.opc = 0x43) : build k = build43 k := by cases k; subst h; rfl
theorem build_44 {k : Fields} (h : k.opc = 0x44) : build k = build44 k := by cases k; subst h; rfl
theorem build_45 {k : Fields} (h : k.opc = 0x45) : build k = build45 k := by cases k; subst h; rfl
theorem build_46 {k : Fields} (h : k.opc = 0x46) : build k = build46 k := by cases k; subst h; rfl
theorem build_47 {k : Fields} (h : k.opc = 0x47) : build k = build47 k := by cases k; subst h; rfl
theorem build_48 {k : Fields} (h : k.opc = 0x48) : build k = build48 k := by cases k; subst h; rfl
theorem build_49 {k : Fields} (h : k.opc = 0x49) : build k = build49 k := by cases k; subst h; rfl
theorem build_4A {k : Fields} (h : k.opc = 0x4A) : build k = build4A k := by cases k; subst h; rfl
theorem build_4B {k : Fields} (h : k.opc = 0x4B) : build k = build4B k := by cases k; subst h; rfl
theorem build_4C {k : Fields} (h : k.opc = 0x4C) : build k = build4C k := by cases k; subst h; rfl
theorem build_4D {k : Fields} (h : k.opc = 0x4D) : build k = build4D k := by cases k; subst h; rfl
theorem build_4E {k : Fields} (h : k.opc = 0x4E) : build k = build4E k := by cases k; subst h; rfl
theorem build_50 {k : Fields} (h : k.opc = 0x50) : build k = build50 k := by cases k; subst h; rfl
theorem build_51 {k : Fields} (h : k.opc = 0x51) : build k = build51 k := by cases k; subst h; rfl
theorem build_52 {k : Fields} (h : k.opc = 0x52) : build k = build52 k := by cases k; subst h; rfl
theorem build_53 {k : Fields} (h : k.opc = 0x53) : build k = build53 k := by cases k; subst h; rfl
theorem build_70 {k : Fields} (h : k.opc = 0x70) : build k = build70 k := by cases k; subst h; rfl
theorem build_71 {k : Fields} (h : k.opc = 0x71) : build k = build71 k := by cases k; subst h; rfl
theorem build_72 {k : Fields} (h : k.opc = 0x72) : build k = build72 k := by cases k; subst h; rfl
theorem build_73 {k : Fields} (h : k.opc = 0x73) : build k = build73 k := by cases k; subst h; rfl
theorem build_74 {k : Fields} (h : k.opc = 0x74) : build k = build74 k := by cases k; subst h; rfl
theorem build_75 {k : Fields} (h : k.opc = 0x75) : build k = build75 k := by cases k; subst h; rfl
theorem build_76 {k : Fields} (h : k.opc = 0x76) : build k = build76 k := by cases k; subst h; rfl
theorem build_77 {k : Fields} (h : k.opc = 0x77) : build k = build77 k := by cases k; subst h; rfl
theorem build_78 {k : Fields} (h : k.opc = 0x78) : build k = build78 k := by cases k; subst h; rfl
theorem build_79 {k : Fields} (h : k.opc = 0x79) : build k = build79 k := by cases k; subst h; rfl
theorem build_7A {k : Fields} (h : k.opc = 0x7A) : build k = build7A k := by cases k; subst h; rfl
theorem build_7B {k : Fields} (h : k.opc = 0x7B) : build k = build7B k := by cases k; subst h; rfl
theorem build_7C {k : Fields} (h : k.opc = 0x7C) : build k = build7C k := by cases k; subst h; rfl
theorem build_7D {k : Fields} (h : k.opc = 0x7D) : build k = build7D k := by cases k; subst h; rfl
theorem build_7E {k : Fields} (h : k.opc = 0x7E) : build k = build7E k := by cases k; subst h; rfl
theorem build_A0 {k : Fields} (h : k.opc = 0xA0) : build k = buildA0 k := by cases k; subst h; rfl
theorem build_A1 {k : Fields} (h : k.opc = 0xA1) : build k = buildA1 k := by cases k; subst h; rfl
theorem build_A2 {k : Fields} (h : k.opc = 0xA2) : build k = buildA2 k := by cases k; subst h; rfl
theorem build_A3 {k : Fields} (h : k.opc = 0xA3) : build k = buildA3 k := by cases k; subst h; rfl
theorem build_A4 {k : Fields} (h : k.opc = 0xA4) : build k = buildA4 k := by cases k; subst h; rfl
theorem build_A5 {k : Fields} (h : k.opc = 0xA5) : build k = buildA5 k := by cases k; subst h; rfl
theorem build_A6 {k : Fields} (h : k.opc = 0xA6) : build k = buildA6 k := by cases k; subst h; rfl
theorem build_A7 {k : Fields} (h : k.opc = 0xA7) : build k = buildA7 k := by cases k; subst h; rfl
theorem build_C0 {k : Fields} (h : k.opc = 0xC0) : build k = buildC0 k := by cases k; subst h; rfl
theorem build_C1 {k : Fields} (h : k.opc = 0xC1) : build k = buildC1 k := by cases k; subst h; rfl
theorem build_C2 {k : Fields} (h : k.opc = 0xC2) : build k = buildC2 k := by cases k; subst h; rfl
theorem build_C3 {k : Fields} (h : k.opc = 0xC3) : build k = buildC3 k := by cases k; subst h; rfl
theorem build_C4 {k : Fields} (h : k.opc = 0xC4) : build k = buildC4 k := by cases k; subst h; rfl
theorem build_D0 {k : Fields} (h : k.opc = 0xD0) : build k = buildD0 k := by cases k; subst h; rfl
theorem build_D1 {k : Fields} (h : k.opc = 0xD1) : build k = buildD1 k := by cases k; subst h; rfl
theorem build_D2 {k : Fields} (h : k.opc = 0xD2) : build k = buildD2 k := by cases k; subst h; rfl
theorem build_D3 {k : Fields} (h : k.opc = 0xD3) : build k = buildD3 k := by cases k; subst h; rfl
theorem build_D4 {k : Fields} (h : k.opc = 0xD4) : build k = buildD4 k := by cases k; subst h; rfl
theorem build_D5 {k : Fields} (h : k.opc = 0xD5) : build k = buildD5 k := by cases k; subst h; rfl
theorem build_D6 {k : Fields} (h : k.opc = 0xD6) : build k = buildD6 k := by cases k; subst h; rfl
theorem build_E0 {k : Fields} (h : k.opc = 0xE0) : build k = buildE0 k := by cases k; subst h; rfl

theorem RoundTrip.add (ty : Ty) (a b c : XReg) : RoundTrip.Statement (.add ty a b c) := by
  intro h w hw he
  refine decode_of_fields he hw rfl ⟨rfl, rfl⟩ rfl (by simp [Fields.empty]) (by simp [Fields.empty]) ?_ ?_
  · simp [Fits, ModFits, immBits_i, immBits_l, Fields.empty, ty.code_lt, a.code_lt, b.code_lt, c.code_lt]
  · rw [build_02 rfl]
    simp [build02, Fields.empty]
theorem RoundTrip.sub (ty : Ty) (a b c : XReg) : RoundTrip.Statement (.sub ty a b c) := by
  intro h w hw he
  refine decode_of_fields he hw rfl ⟨rfl, rfl⟩ rfl (by simp [Fields.empty]) (by simp [Fields.empty]) ?_ ?_
  · simp [Fits, ModFits, immBits_i, immBits_l, Fields.empty, ty.code_lt, a.code_lt, b.code_lt, c.code_lt]
  · rw [build_02 rfl]
    simp [build02, Fields.empty]
theorem RoundTrip.mul (ty : Ty) (a b c : XReg) : RoundTrip.Statement (.mul ty a b c) := by
  intro h w hw he
  refine decode_of_fields he hw rfl ⟨rfl, rfl⟩ rfl (by simp [Fields.empty]) (by simp [Fields.empty]) ?_ ?_
  · simp [Fits, ModFits, immBits_i, immBits_l, Fields.empty, ty.code_lt, a.code_lt, b.code_lt, c.code_lt]
  · rw [build_02 rfl]
    simp [build02, Fields.empty]
theorem RoundTrip.mulh (ty : Ty) (a b c : XReg) : RoundTrip.Statement (.mulh ty a b c) := by
  intro h w hw he
  refine decode_of_fields he hw rfl ⟨rfl, rfl⟩ rfl (by simp [Fields.empty]) (by simp [Fields.empty]) ?_ ?_
  · simp [Fits, ModFits, immBits_i, immBits_l, Fields.empty, ty.code_lt, a.code_lt, b.code_lt, c.code_lt]
  · rw [build_02 rfl]
    simp [build02, Fields.empty]
theorem RoundTrip.div (ty : Ty) (a b c : XReg) : RoundTrip.Statement (.div ty a b c) := by
  intro h w hw he
  refine decode_of_fields he hw rfl ⟨rfl, rfl⟩ rfl (by simp [Fields.empty]) (by simp [Fields.empty]) ?_ ?_
  · simp [Fits, ModFits, immBits_i, immBits_l, Fields.empty, ty.code_lt, a.code_lt, b.code_lt, c.code_lt]
  · rw [build_02 rfl]
    simp [build02, Fields.empty]
theorem RoundTrip.rem (ty : Ty) (a b c : XReg) : RoundTrip.Statement (.rem ty a b c) := by
  intro h w hw he
  refine decode_of_fields he hw rfl ⟨rfl, rfl⟩ rfl (by simp [Fields.empty]) (by simp [Fields.empty]) ?_ ?_
  · simp [Fits, ModFits, immBits_i, immBits_l, Fields.empty, ty.code_lt, a.code_lt, b.code_lt, c.code_lt]
  · rw [build_02 rfl]
    simp [build02, Fields.empty]
theorem RoundTrip.min (ty : Ty) (a b c : XReg) : RoundTrip.Statement (.min ty a b c) := by
  intro h w hw he
  refine decode_of_fields he hw rfl ⟨rfl, rfl⟩ rfl (by simp [Fields.empty]) (by simp [Fields.empty]) ?_ ?_
  · simp [Fits, ModFits, immBits_i, immBits_l, Fields.empty, ty.code_lt, a.code_lt, b.code_lt, c.code_lt]
  · rw [build_02 rfl]
    simp [build02, Fields.empty]
theorem RoundTrip.max (ty : Ty) (a b c : XReg) : RoundTrip.Statement (.max ty a b c) := by
  intro h w hw he
  refine decode_of_fields he hw rfl ⟨rfl, rfl⟩ rfl (by simp [Fields.empty]) (by simp [Fields.empty]) ?_ ?_
  · simp [Fits, ModFits, immBits_i, immBits_l, Fields.empty, ty.code_lt, a.code_lt, b.code_lt, c.code_lt]
  · rw [build_02 rfl]
    simp [build02, Fields.empty]
theorem RoundTrip.abs (ty : Ty) (a b : XReg) : RoundTrip.Statement (.abs ty a b) := by
  intro h w hw he
  refine decode_of_fields he hw rfl ⟨rfl, rfl⟩ rfl (by simp [Fields.empty]) (by simp [Fields.empty]) ?_ ?_
  · simp [Fits, ModFits, immBits_i, immBits_l, Fields.empty, ty.code_lt, a.code_lt, b.code_lt]
  · rw [build_02 rfl]
    simp [build02, Fields.empty]
theorem RoundTrip.addImm (ty : Ty) (a b : XReg) (imm : Word) : RoundTrip.Statement (.addImm ty a b imm) := by
  intro h w hw he
  have hw' : (fitsI h imm && ty.isInt) = true := hw
  simp only [Bool.and_eq_true] at hw'
  have hi := hw'.1
  refine decode_of_fields he hw rfl ⟨rfl, rfl⟩ rfl (by simp [Fields.empty]) (by simp [Fields.empty]) ?_ ?_
  · simp [Fits, ModFits, immBits_i, immBits_l, Fields.empty, ty.code_lt, a.code_lt, b.code_lt, rawI_lt, hw']
  · rw [build_03 rfl]
    simp [build03, Fields.empty, immI_rawI hi, hw']
theorem RoundTrip.subImm (ty : Ty) (a b : XReg) (imm : Word) : RoundTrip.Statement (.subImm ty a b imm) := by
  intro h w hw he
  have hw' : (fitsI h imm && ty.isInt) = true := hw
  simp only [Bool.and_eq_true] at hw'
  have hi := hw'.1
  refine decode_of_fields he hw rfl ⟨rfl, rfl⟩ rfl (by simp [Fields.empty]) (by simp [Fields.empty]) ?_ ?_
  · simp [Fits, ModFits, immBits_i, immBits_l, Fields.empty, ty.code_lt, a.code_lt, b.code_lt, rawI_lt, hw']
  · rw [build_03 rfl]
    simp [build03, Fields.empty, immI_rawI hi, hw']
theorem RoundTrip.mulImm (ty : Ty) (a b : XReg) (imm : Word) : RoundTrip.Statement (.mulImm ty a b imm) := by
  intro h w hw he
  have hw' : (fitsI h imm && ty.isInt) = true := hw
  simp only [Bool.and_eq_true] at hw'
  have hi := hw'.1
  refine decode_of_fields he hw rfl ⟨rfl, rfl⟩ rfl (by simp [Fields.empty]) (by simp [Fields.empty]) ?_ ?_
  · simp [Fits, ModFits, immBits_i, immBits_l, Fields.empty, ty.code_lt, a.code_lt, b.code_lt, rawI_lt, hw']
  · rw [build_03 rfl]
    simp [build03, Fields.empty, immI_rawI hi, hw']
theorem RoundTrip.minImm (ty : Ty) (a b : XReg) (imm : Word) : RoundTrip.Statement (.minImm ty a b imm) := by
  intro h w hw he
  have hw' : (fitsI h imm && ty.isInt) = true := hw
  simp only [Bool.and_eq_true] at hw'
  have hi := hw'.1
  refine decode_of_fields he hw rfl ⟨rfl, rfl⟩ rfl (by simp [Fields.empty]) (by simp [Fields.empty]) ?_ ?_
  · simp [Fits, ModFits, immBits_i, immBits_l, Fields.empty, ty.code_lt, a.code_lt, b.code_lt, rawI_lt, hw']
  · rw [build_03 rfl]
    simp [build03, Fields.empty, immI_rawI hi, hw']
theorem RoundTrip.maxImm (ty : Ty) (a b : XReg) (imm : Word) : RoundTrip.Statement (.maxImm ty a b imm) := by
  intro h w hw he
  have hw' : (fitsI h imm && ty.isInt) = true := hw
  simp only [Bool.and_eq_true] at hw'
  have hi := hw'.1
  refine decode_of_fields he hw rfl ⟨rfl, rfl⟩ rfl (by simp [Fields.empty]) (by simp [Fields.empty]) ?_ ?_
  · simp [Fits, ModFits, immBits_i, immBits_l, Fields.empty, ty.code_lt, a.code_lt, b.code_lt, rawI_lt, hw']
  · rw [build_03 rfl]
    simp [build03, Fields.empty, immI_rawI hi, hw']
theorem RoundTrip.and (ty : Ty) (a b c : XReg) : RoundTrip.Statement (.and ty a b c) := by
  intro h w hw he
  refine decode_of_fields he hw rfl ⟨rfl, rfl⟩ rfl (by simp [Fields.empty]) (by simp [Fields.empty]) ?_ ?_
  · simp [Fits, ModFits, immBits_i, immBits_l, Fields.empty, ty.code_lt, a.code_lt, b.code_lt, c.code_lt]
  · rw [build_04 rfl]
    simp [build04, Fields.empty]
theorem RoundTrip.or (ty : Ty) (a b c : XReg) : RoundTrip.Statement (.or ty a b c) := by
  intro h w hw he
  refine decode_of_fields he hw rfl ⟨rfl, rfl⟩ rfl (by simp [Fields.empty]) (by simp [Fields.empty]) ?_ ?_
  · simp [Fits, ModFits, immBits_i, immBits_l, Fields.empty, ty.code_lt, a.code_lt, b.code_lt, c.code_lt]
  · rw [build_04 rfl]
    simp [build04, Fields.empty]
theorem RoundTrip.xor (ty : Ty) (a b c : XReg) : RoundTrip.Statement (.xor ty a b c) := by
  intro h w hw he
  refine decode_of_fields he hw rfl ⟨rfl, rfl⟩ rfl (by simp [Fields.empty]) (by simp [Fields.empty]) ?_ ?_
  · simp [Fits, ModFits, immBits_i, immBits_l, Fields.empty, ty.code_lt, a.code_lt, b.code_lt, c.code_lt]
  · rw [build_04 rfl]
    simp [build04, Fields.empty]
theorem RoundTrip.andn (ty : Ty) (a b c : XReg) : RoundTrip.Statement (.andn ty a b c) := by
  intro h w hw he
  refine decode_of_fields he hw rfl ⟨rfl, rfl⟩ rfl (by simp [Fields.empty]) (by simp [Fields.empty]) ?_ ?_
  · simp [Fits, ModFits, immBits_i, immBits_l, Fields.empty, ty.code_lt, a.code_lt, b.code_lt, c.code_lt]
  · rw [build_04 rfl]
    simp [build04, Fields.empty]
theorem RoundTrip.orn (ty : Ty) (a b c : XReg) : RoundTrip.Statement (.orn ty a b c) := by
  intro h w hw he
  refine decode_of_fields he hw rfl ⟨rfl, rfl⟩ rfl (by simp [Fields.empty]) (by simp [Fields.empty]) ?_ ?_
  · simp [Fits, ModFits, immBits_i, immBits_l, Fields.empty, ty.code_lt, a.code_lt, b.code_lt, c.code_lt]
  · rw [build_04 rfl]
    simp [build04, Fields.empty]
theorem RoundTrip.xnor (ty : Ty) (a b c : XReg) : RoundTrip.Statement (.xnor ty a b c) := by
  intro h w hw he
  refine decode_of_fields he hw rfl ⟨rfl, rfl⟩ rfl (by simp [Fields.empty]) (by simp [Fields.empty]) ?_ ?_
  · simp [Fits, ModFits, immBits_i, immBits_l, Fields.empty, ty.code_lt, a.code_lt, b.code_lt, c.code_lt]
  · rw [build_04 rfl]
    simp [build04, Fields.empty]
theorem RoundTrip.andImm (ty : Ty) (a b : XReg) (imm : Word) : RoundTrip.Statement (.andImm ty a b imm) := by
  intro h w hw he
  have hw' : (fitsI h imm && ty.isRaw) = true := hw
  simp only [Bool.and_eq_true] at hw'
  have hi := hw'.1
  refine decode_of_fields he hw rfl ⟨rfl, rfl⟩ rfl (by simp [Fields.empty]) (by simp [Fields.empty]) ?_ ?_
  · simp [Fits, ModFits, immBits_i, immBits_l, Fields.empty, ty.code_lt, a.code_lt, b.code_lt, rawI_lt, hw']
  · rw [build_05 rfl]
    simp [build05, Fields.empty, immI_rawI hi, hw']
theorem RoundTrip.orImm (ty : Ty) (a b : XReg) (imm : Word) : RoundTrip.Statement (.orImm ty a b imm) := by
  intro h w hw he
  have hw' : (fitsI h imm && ty.isRaw) = true := hw
  simp only [Bool.and_eq_true] at hw'
  have hi := hw'.1
  refine decode_of_fields he hw rfl ⟨rfl, rfl⟩ rfl (by simp [Fields.empty]) (by simp [Fields.empty]) ?_ ?_
  · simp [Fits, ModFits, immBits_i, immBits_l, Fields.empty, ty.code_lt, a.code_lt, b.code_lt, rawI_lt, hw']
  · rw [build_05 rfl]
    simp [build05, Fields.empty, immI_rawI hi, hw']
theorem RoundTrip.xorImm (ty : Ty) (a b : XReg) (imm : Word) : RoundTrip.Statement (.xorImm ty a b imm) := by
  intro h w hw he
  have hw' : (fitsI h imm && ty.isRaw) = true := hw
  simp only [Bool.and_eq_true] at hw'
  have hi := hw'.1
  refine decode_of_fields he hw rfl ⟨rfl, rfl⟩ rfl (by simp [Fields.empty]) (by simp [Fields.empty]) ?_ ?_
  · simp [Fits, ModFits, immBits_i, immBits_l, Fields.empty, ty.code_lt, a.code_lt, b.code_lt, rawI_lt, hw']
  · rw [build_05 rfl]
    simp [build05, Fields.empty, immI_rawI hi, hw']
theorem RoundTrip.sll (ty : Ty) (a b c : XReg) : RoundTrip.Statement (.sll ty a b c) := by
  intro h w hw he
  refine decode_of_fields he hw rfl ⟨rfl, rfl⟩ rfl (by simp [Fields.empty]) (by simp [Fields.empty]) ?_ ?_
  · simp [Fits, ModFits, immBits_i, immBits_l, Fields.empty, ty.code_lt, a.code_lt, b.code_lt, c.code_lt]
  · rw [build_06 rfl]
    simp [build06, Fields.empty]
theorem RoundTrip.srl (ty : Ty) (a b c : XReg) : RoundTrip.Statement (.srl ty a b c) := by
  intro h w hw he
  refine decode_of_fields he hw rfl ⟨rfl, rfl⟩ rfl (by simp [Fields.empty]) (by simp [Fields.empty]) ?_ ?_
  · simp [Fits, ModFits, immBits_i, immBits_l, Fields.empty, ty.code_lt, a.code_lt, b.code_lt, c.code_lt]
  · rw [build_06 rfl]
    simp [build06, Fields.empty]
theorem RoundTrip.sra (ty : Ty) (a b c : XReg) : RoundTrip.Statement (.sra ty a b c) := by
  intro h w hw he
  refine decode_of_fields he hw rfl ⟨rfl, rfl⟩ rfl (by simp [Fields.empty]) (by simp [Fields.empty]) ?_ ?_
  · simp [Fits, ModFits, immBits_i, immBits_l, Fields.empty, ty.code_lt, a.code_lt, b.code_lt, c.code_lt]
  · rw [build_06 rfl]
    simp [build06, Fields.empty]
theorem RoundTrip.rol (ty : Ty) (a b c : XReg) : RoundTrip.Statement (.rol ty a b c) := by
  intro h w hw he
  refine decode_of_fields he hw rfl ⟨rfl, rfl⟩ rfl (by simp [Fields.empty]) (by simp [Fields.empty]) ?_ ?_
  · simp [Fits, ModFits, immBits_i, immBits_l, Fields.empty, ty.code_lt, a.code_lt, b.code_lt, c.code_lt]
  · rw [build_06 rfl]
    simp [build06, Fields.empty]
theorem RoundTrip.ror (ty : Ty) (a b c : XReg) : RoundTrip.Statement (.ror ty a b c) := by
  intro h w hw he
  refine decode_of_fields he hw rfl ⟨rfl, rfl⟩ rfl (by simp [Fields.empty]) (by simp [Fields.empty]) ?_ ?_
  · simp [Fits, ModFits, immBits_i, immBits_l, Fields.empty, ty.code_lt, a.code_lt, b.code_lt, c.code_lt]
  · rw [build_06 rfl]
    simp [build06, Fields.empty]
theorem RoundTrip.sllImm (ty : Ty) (a b : XReg) (imm : Word) : RoundTrip.Statement (.sllImm ty a b imm) := by
  intro h w hw he
  have hw' : (fitsI h imm && (ty.isInt || ty.isRaw)) = true := hw
  simp only [Bool.and_eq_true] at hw'
  have hi := hw'.1
  refine decode_of_fields he hw rfl ⟨rfl, rfl⟩ rfl (by simp [Fields.empty]) (by simp [Fields.empty]) ?_ ?_
  · simp [Fits, ModFits, immBits_i, immBits_l, Fields.empty, ty.code_lt, a.code_lt, b.code_lt, rawI_lt, hw']
  · rw [build_07 rfl]
    simp [build07, Fields.empty, immI_rawI hi, hw']
theorem RoundTrip.srlImm (ty : Ty) (a b : XReg) (imm : Word) : RoundTrip.Statement (.srlImm ty a b imm) := by
  intro h w hw he
  have hw' : (fitsI h imm && (ty.isInt || ty.isRaw)) = true := hw
  simp only [Bool.and_eq_true] at hw'
  have hi := hw'.1
  refine decode_of_fields he hw rfl ⟨rfl, rfl⟩ rfl (by simp [Fields.empty]) (by simp [Fields.empty]) ?_ ?_
  · simp [Fits, ModFits, immBits_i, immBits_l, Fields.empty, ty.code_lt, a.code_lt, b.code_lt, rawI_lt, hw']
  · rw [build_07 rfl]
    simp [build07, Fields.empty, immI_rawI hi, hw']
theorem RoundTrip.sraImm (ty : Ty) (a b : XReg) (imm : Word) : RoundTrip.Statement (.sraImm ty a b imm) := by
  intro h w hw he
  have hw' : (fitsI h imm && (ty.isInt || ty.isRaw)) = true := hw
  simp only [Bool.and_eq_true] at hw'
  have hi := hw'.1
  refine decode_of_fields he hw rfl ⟨rfl, rfl⟩ rfl (by simp [Fields.empty]) (by simp [Fields.empty]) ?_ ?_
  · simp [Fits, ModFits, immBits_i, immBits_l, Fields.empty, ty.code_lt, a.code_lt, b.code_lt, rawI_lt, hw']
  · rw [build_07 rfl]
    simp [build07, Fields.empty, immI_rawI hi, hw']
theorem RoundTrip.rolImm (ty : Ty) (a b : XReg) (imm : Word) : RoundTrip.Statement (.rolImm ty a b imm) := by
  intro h w hw he
  have hw' : (fitsI h imm && (ty.isInt || ty.isRaw)) = true := hw
  simp only [Bool.and_eq_true] at hw'
  have hi := hw'.1
  refine decode_of_fields he hw rfl ⟨rfl, rfl⟩ rfl (by simp [Fields.empty]) (by simp [Fields.empty]) ?_ ?_
  · simp [Fits, ModFits, immBits_i, immBits_l, Fields.empty, ty.code_lt, a.code_lt, b.code_lt, rawI_lt, hw']
  · rw [build_07 rfl]
    simp [build07, Fields.empty, immI_rawI hi, hw']
theorem RoundTrip.rorImm (ty : Ty) (a b : XReg) (imm : Word) : RoundTrip.Statement (.rorImm ty a b imm) := by
  intro h w hw he
  have hw' : (fitsI h imm && (ty.isInt || ty.isRaw)) = true := hw
  simp only [Bool.and_eq_true] at hw'
  have hi := hw'.1
  refine decode_of_fields he hw rfl ⟨rfl, rfl⟩ rfl (by simp [Fields.empty]) (by simp [Fields.empty]) ?_ ?_
  · simp [Fits, ModFits, immBits_i, immBits_l, Fields.empty, ty.code_lt, a.code_lt, b.code_lt, rawI_lt, hw']
  · rw [build_07 rfl]
    simp [build07, Fields.empty, immI_rawI hi, hw']
theorem RoundTrip.bext (ty : Ty) (a b c d : XReg) : RoundTrip.Statement (.bext ty a b c d) := by
  intro h w hw he
  refine decode_of_fields he hw rfl ⟨rfl, rfl⟩ rfl (by simp [Fields.empty]) (by simp [Fields.empty]) ?_ ?_
  · simp [Fits, ModFits, immBits_i, immBits_l, Fields.empty, ty.code_lt, a.code_lt, b.code_lt, c.code_lt, d.code_lt]
  · rw [build_08 rfl]
    simp [build08, Fields.empty]
theorem RoundTrip.bextz (ty : Ty) (a b c d : XReg) : RoundTrip.Statement (.bextz ty a b c d) := by
  intro h w hw he
  refine decode_of_fields he hw rfl ⟨rfl, rfl⟩ rfl (by simp [Fields.empty]) (by simp [Fields.empty]) ?_ ?_
  · simp [Fits, ModFits, immBits_i, immBits_l, Fields.empty, ty.code_lt, a.code_lt, b.code_lt, c.code_lt, d.code_lt]
  · rw [build_08 rfl]
    simp [build08, Fields.empty]
theorem RoundTrip.bins (ty : Ty) (a b c d : XReg) : RoundTrip.Statement (.bins ty a b c d) := by
  intro h w hw he
  refine decode_of_fields he hw rfl ⟨rfl, rfl⟩ rfl (by simp [Fields.empty]) (by simp [Fields.empty]) ?_ ?_
  · simp [Fits, ModFits, immBits_i, immBits_l, Fields.empty, ty.code_lt, a.code_lt, b.code_lt, c.code_lt, d.code_lt]
  · rw [build_08 rfl]
    simp [build08, Fields.empty]
theorem RoundTrip.clz (ty : Ty) (a b : XReg) : RoundTrip.Statement (.clz ty a b) := by
  intro h w hw he
  refine decode_of_fields he hw rfl ⟨rfl, rfl⟩ rfl (by simp [Fields.empty]) (by simp [Fields.empty]) ?_ ?_
  · simp [Fits, ModFits, immBits_i, immBits_l, Fields.empty, ty.code_lt, a.code_lt, b.code_lt]
  · rw [build_08 rfl]
    simp [build08, Fields.empty]
theorem RoundTrip.ctz (ty : Ty) (a b : XReg) : RoundTrip.Statement (.ctz ty a b) := by
  intro h w hw he
  refine decode_of_fields he hw rfl ⟨rfl, rfl⟩ rfl (by simp [Fields.empty]) (by simp [Fields.empty]) ?_ ?_
  · simp [Fits, ModFits, immBits_i, immBits_l, Fields.empty, ty.code_lt, a.code_lt, b.code_lt]
  · rw [build_08 rfl]
    simp [build08, Fields.empty]
theorem RoundTrip.popc (ty : Ty) (a b : XReg) : RoundTrip.Statement (.popc ty a b) := by
  intro h w hw he
  refine decode_of_fields he hw rfl ⟨rfl, rfl⟩ rfl (by simp [Fields.empty]) (by simp [Fields.empty]) ?_ ?_
  · simp [Fits, ModFits, immBits_i, immBits_l, Fields.empty, ty.code_lt, a.code_lt, b.code_lt]
  · rw [build_08 rfl]
    simp [build08, Fields.empty]
theorem RoundTrip.bswap (ty : Ty) (a b : XReg) : RoundTrip.Statement (.bswap ty a b) := by
  intro h w hw he
  refine decode_of_fields he hw rfl ⟨rfl, rfl⟩ rfl (by simp [Fields.empty]) (by simp [Fields.empty]) ?_ ?_
  · simp [Fits, ModFits, immBits_i, immBits_l, Fields.empty, ty.code_lt, a.code_lt, b.code_lt]
  · rw [build_08 rfl]
    simp [build08, Fields.empty]
theorem RoundTrip.lea (a b c : XReg) (isc : BitVec 3) : RoundTrip.Statement (.lea a b c isc) := by
  intro h w hw he
  refine decode_of_fields he hw rfl ⟨rfl, rfl⟩ rfl (by simp [Fields.empty]) (by simp [Fields.empty]) ?_ ?_
  · simp [Fits, ModFits, immBits_i, immBits_l, Fields.empty, a.code_lt, b.code_lt, c.code_lt, isc_lt, (show Ty.i64.code = 3 from rfl)]
  · rw [build_09 rfl]
    simp [build09, Fields.empty]
theorem RoundTrip.cmpEq (ty : Ty) (a : PReg) (b c : XReg) : RoundTrip.Statement (.cmpEq ty a b c) := by
  intro h w hw he
  refine decode_of_fields he hw rfl ⟨rfl, rfl⟩ rfl (by simp [Fields.empty]) (by simp [Fields.empty]) ?_ ?_
  · simp [Fits, ModFits, immBits_i, immBits_l, Fields.empty, ty.code_lt, bv_lt a 128, b.code_lt, c.code_lt]
  · rw [build_0A rfl]
    simp [build0A, Fields.empty]
theorem RoundTrip.cmpNe (ty : Ty) (a : PReg) (b c : XReg) : RoundTrip.Statement (.cmpNe ty a b c) := by
  intro h w hw he
  refine decode_of_fields he hw rfl ⟨rfl, rfl⟩ rfl (by simp [Fields.empty]) (by simp [Fields.empty]) ?_ ?_
  · simp [Fits, ModFits, immBits_i, immBits_l, Fields.empty, ty.code_lt, bv_lt a 128, b.code_lt, c.code_lt]
  · rw [build_0A rfl]
    simp [build0A, Fields.empty]
theorem RoundTrip.cmpLt (ty : Ty) (a : PReg) (b c : XReg) : RoundTrip.Statement (.cmpLt ty a b c) := by
  intro h w hw he
  refine decode_of_fields he hw rfl ⟨rfl, rfl⟩ rfl (by simp [Fields.empty]) (by simp [Fields.empty]) ?_ ?_
  · simp [Fits, ModFits, immBits_i, immBits_l, Fields.empty, ty.code_lt, bv_lt a 128, b.code_lt, c.code_lt]
  · rw [build_0A rfl]
    simp [build0A, Fields.empty]
theorem RoundTrip.cmpLe (ty : Ty) (a : PReg) (b c : XReg) : RoundTrip.Statement (.cmpLe ty a b c) := by
  intro h w hw he
  refine decode_of_fields he hw rfl ⟨rfl, rfl⟩ rfl (by simp [Fields.empty]) (by simp [Fields.empty]) ?_ ?_
  · simp [Fits, ModFits, immBits_i, immBits_l, Fields.empty, ty.code_lt, bv_lt a 128, b.code_lt, c.code_lt]
  · rw [build_0A rfl]
    simp [build0A, Fields.empty]
theorem RoundTrip.cmpGt (ty : Ty) (a : PReg) (b c : XReg) : RoundTrip.Statement (.cmpGt ty a b c) := by
  intro h w hw he
  refine decode_of_fields he hw rfl ⟨rfl, rfl⟩ rfl (by simp [Fields.empty]) (by simp [Fields.empty]) ?_ ?_
  · simp [Fits, ModFits, immBits_i, immBits_l, Fields.empty, ty.code_lt, bv_lt a 128, b.code_lt, c.code_lt]
  · rw [build_0A rfl]
    simp [build0A, Fields.empty]
theorem RoundTrip.cmpGe (ty : Ty) (a : PReg) (b c : XReg) : RoundTrip.Statement (.cmpGe ty a b c) := by
  intro h w hw he
  refine decode_of_fields he hw rfl ⟨rfl, rfl⟩ rfl (by simp [Fields.empty]) (by simp [Fields.empty]) ?_ ?_
  · simp [Fits, ModFits, immBits_i, immBits_l, Fields.empty, ty.code_lt, bv_lt a 128, b.code_lt, c.code_lt]
  · rw [build_0A rfl]
    simp [build0A, Fields.empty]
theorem RoundTrip.cmpEqImm (ty : Ty) (a : PReg) (b : XReg) (imm : Word) : RoundTrip.Statement (.cmpEqImm ty a b imm) := by
  intro h w hw he
  have hw' : (fitsI h imm && ty.isInt) = true := hw
  simp only [Bool.and_eq_true] at hw'
  have hi := hw'.1
  refine decode_of_fields he hw rfl ⟨rfl, rfl⟩ rfl (by simp [Fields.empty]) (by simp [Fields.empty]) ?_ ?_
  · simp [Fits, ModFits, immBits_i, immBits_l, Fields.empty, ty.code_lt, bv_lt a 128, b.code_lt, rawI_lt, hw']
  · rw [build_0B rfl]
    simp [build0B, Fields.empty, immI_rawI hi, hw']
theorem RoundTrip.cmpNeImm (ty : Ty) (a : PReg) (b : XReg) (imm : Word) : RoundTrip.Statement (.cmpNeImm ty a b imm) := by
  intro h w hw he
  have hw' : (fitsI h imm && ty.isInt) = true := hw
  simp only [Bool.and_eq_true] at hw'
  have hi := hw'.1
  refine decode_of_fields he hw rfl ⟨rfl, rfl⟩ rfl (by simp [Fields.empty]) (by simp [Fields.empty]) ?_ ?_
  · simp [Fits, ModFits, immBits_i, immBits_l, Fields.empty, ty.code_lt, bv_lt a 128, b.code_lt, rawI_lt, hw']
  · rw [build_0B rfl]
    simp [build0B, Fields.empty, immI_rawI hi, hw']
theorem RoundTrip.cmpLtImm (ty : Ty) (a : PReg) (b : XReg) (imm : Word) : RoundTrip.Statement (.cmpLtImm ty a b imm) := by
  intro h w hw he
  have hw' : (fitsI h imm && ty.isInt) = true := hw
  simp only [Bool.and_eq_true] at hw'
  have hi := hw'.1
  refine decode_of_fields he hw rfl ⟨rfl, rfl⟩ rfl (by simp [Fields.empty]) (by simp [Fields.empty]) ?_ ?_
  · simp [Fits, ModFits, immBits_i, immBits_l, Fields.empty, ty.code_lt, bv_lt a 128, b.code_lt, rawI_lt, hw']
  · rw [build_0B rfl]
    simp [build0B, Fields.empty, immI_rawI hi, hw']
theorem RoundTrip.cmpLeImm (ty : Ty) (a : PReg) (b : XReg) (imm : Word) : RoundTrip.Statement (.cmpLeImm ty a b imm) := by
  intro h w hw he
  have hw' : (fitsI h imm && ty.isInt) = true := hw
  simp only [Bool.and_eq_true] at hw'
  have hi := hw'.1
  refine decode_of_fields he hw rfl ⟨rfl, rfl⟩ rfl (by simp [Fields.empty]) (by simp [Fields.empty]) ?_ ?_
  · simp [Fits, ModFits, immBits_i, immBits_l, Fields.empty, ty.code_lt, bv_lt a 128, b.code_lt, rawI_lt, hw']
  · rw [build_0B rfl]
    simp [build0B, Fields.empty, immI_rawI hi, hw']
theorem RoundTrip.cmpGtImm (ty : Ty) (a : PReg) (b : XReg) (imm : Word) : RoundTrip.Statement (.cmpGtImm ty a b imm) := by
  intro h w hw he
  have hw' : (fitsI h imm && ty.isInt) = true := hw
  simp only [Bool.and_eq_true] at hw'
  have hi := hw'.1
  refine decode_of_fields he hw rfl ⟨rfl, rfl⟩ rfl (by simp [Fields.empty]) (by simp [Fields.empty]) ?_ ?_
  · simp [Fits, ModFits, immBits_i, immBits_l, Fields.empty, ty.code_lt, bv_lt a 128, b.code_lt, rawI_lt, hw']
  · rw [build_0B rfl]
    simp [build0B, Fields.empty, immI_rawI hi, hw']
theorem RoundTrip.cmpGeImm (ty : Ty) (a : PReg) (b : XReg) (imm : Word) : RoundTrip.Statement (.cmpGeImm ty a b imm) := by
  intro h w hw he
  have hw' : (fitsI h imm && ty.isInt) = true := hw
  simp only [Bool.and_eq_true] at hw'
  have hi := hw'.1
  refine decode_of_fields he hw rfl ⟨rfl, rfl⟩ rfl (by simp [Fields.empty]) (by simp [Fields.empty]) ?_ ?_
  · simp [Fits, ModFits, immBits_i, immBits_l, Fields.empty, ty.code_lt, bv_lt a 128, b.code_lt, rawI_lt, hw']
  · rw [build_0B rfl]
    simp [build0B, Fields.empty, immI_rawI hi, hw']
theorem RoundTrip.pand (a b c : PReg) : RoundTrip.Statement (.pand a b c) := by
  intro h w hw he
  refine decode_of_fields he hw rfl ⟨rfl, rfl⟩ rfl (by simp [Fields.empty]) (by simp [Fields.empty]) ?_ ?_
  · simp [Fits, ModFits, immBits_i, immBits_l, Fields.empty, bv_lt a 128, bv_lt b 128, bv_lt c 128]
  · rw [build_0C rfl]
    simp [build0C, Fields.empty]
theorem RoundTrip.por (a b c : PReg) : RoundTrip.Statement (.por a b c) := by
  intro h w hw he
  refine decode_of_fields he hw rfl ⟨rfl, rfl⟩ rfl (by simp [Fields.empty]) (by simp [Fields.empty]) ?_ ?_
  · simp [Fits, ModFits, immBits_i, immBits_l, Fields.empty, bv_lt a 128, bv_lt b 128, bv_lt c 128]
  · rw [build_0C rfl]
    simp [build0C, Fields.empty]
theorem RoundTrip.pxor (a b c : PReg) : RoundTrip.Statement (.pxor a b c) := by
  intro h w hw he
  refine decode_of_fields he hw rfl ⟨rfl, rfl⟩ rfl (by simp [Fields.empty]) (by simp [Fields.empty]) ?_ ?_
  · simp [Fits, ModFits, immBits_i, immBits_l, Fields.empty, bv_lt a 128, bv_lt b 128, bv_lt c 128]
  · rw [build_0C rfl]
    simp [build0C, Fields.empty]
theorem RoundTrip.pandn (a b c : PReg) : RoundTrip.Statement (.pandn a b c) := by
  intro h w hw he
  refine decode_of_fields he hw rfl ⟨rfl, rfl⟩ rfl (by simp [Fields.empty]) (by simp [Fields.empty]) ?_ ?_
  · simp [Fits, ModFits, immBits_i, immBits_l, Fields.empty, bv_lt a 128, bv_lt b 128, bv_lt c 128]
  · rw [build_0C rfl]
    simp [build0C, Fields.empty]
theorem RoundTrip.pnot (a b : PReg) : RoundTrip.Statement (.pnot a b) := by
  intro h w hw he
  refine decode_of_fields he hw rfl ⟨rfl, rfl⟩ rfl (by simp [Fields.empty]) (by simp [Fields.empty]) ?_ ?_
  · simp [Fits, ModFits, immBits_i, immBits_l, Fields.empty, bv_lt a 128, bv_lt b 128]
  · rw [build_0C rfl]
    simp [build0C, Fields.empty]
theorem RoundTrip.sel (a : XReg) (b : PReg) (c d : XReg) : RoundTrip.Statement (.sel a b c d) := by
  intro h w hw he
  refine decode_of_fields he hw rfl ⟨rfl, rfl⟩ rfl (by simp [Fields.empty]) (by simp [Fields.empty]) ?_ ?_
  · simp [Fits, ModFits, immBits_i, immBits_l, Fields.empty, a.code_lt, bv_lt b 128, c.code_lt, d.code_lt, (show Ty.b64.code = 19 from rfl)]
  · rw [build_0D rfl]
    simp [build0D, Fields.empty]
theorem RoundTrip.movXX (a b : XReg) : RoundTrip.Statement (.movXX a b) := by
  intro h w hw he
  refine decode_of_fields he hw rfl ⟨rfl, rfl⟩ rfl (by simp [Fields.empty]) (by simp [Fields.empty]) ?_ ?_
  · simp [Fits, ModFits, immBits_i, immBits_l, Fields.empty, a.code_lt, b.code_lt, (show Ty.b64.code = 19 from rfl)]
  · rw [build_0E rfl]
    simp [build0E, Fields.empty]
theorem RoundTrip.movXP (a : XReg) (b : PReg) : RoundTrip.Statement (.movXP a b) := by
  intro h w hw he
  refine decode_of_fields he hw rfl ⟨rfl, rfl⟩ rfl (by simp [Fields.empty]) (by simp [Fields.empty]) ?_ ?_
  · simp [Fits, ModFits, immBits_i, immBits_l, Fields.empty, a.code_lt, bv_lt b 128, (show Ty.b64.code = 19 from rfl)]
  · rw [build_0E rfl]
    simp [build0E, Fields.empty]
theorem RoundTrip.movPX (a : PReg) (b : XReg) : RoundTrip.Statement (.movPX a b) := by
  intro h w hw he
  refine decode_of_fields he hw rfl ⟨rfl, rfl⟩ rfl (by simp [Fields.empty]) (by simp [Fields.empty]) ?_ ?_
  · simp [Fits, ModFits, immBits_i, immBits_l, Fields.empty, bv_lt a 128, b.code_lt, (show Ty.b64.code = 19 from rfl)]
  · rw [build_0E rfl]
    simp [build0E, Fields.empty]
theorem RoundTrip.li (a : XReg) (imm : Word) : RoundTrip.Statement (.li a imm) := by
  intro h w hw he
  have hw' : (fitsL h imm) = true := hw
  have hi := hw'
  refine decode_of_fields he hw rfl ⟨rfl, rfl⟩ rfl (by simp [Fields.empty]) (by simp [Fields.empty]) ?_ ?_
  · simp [Fits, ModFits, immBits_i, immBits_l, Fields.empty, a.code_lt, rawL_lt, hw']
  · rw [build_0F rfl]
    simp [build0F, Fields.empty, immL_rawL hi, hw']
theorem RoundTrip.khash (a b : XReg) : RoundTrip.Statement (.khash a b) := by
  intro h w hw he
  refine decode_of_fields he hw rfl ⟨rfl, rfl⟩ rfl (by simp [Fields.empty]) (by simp [Fields.empty]) ?_ ?_
  · simp [Fits, ModFits, immBits_i, immBits_l, Fields.empty, a.code_lt, b.code_lt]
  · rw [build_10 rfl]
    simp [build10, Fields.empty]
theorem RoundTrip.br (a : PReg) (imm : Word) : RoundTrip.Statement (.br a imm) := by
  intro h w hw he
  have hw' : (fitsL h imm) = true := hw
  have hi := hw'
  refine decode_of_fields he hw rfl ⟨rfl, rfl⟩ rfl (by simp [Fields.empty]) (by simp [Fields.empty]) ?_ ?_
  · simp [Fits, ModFits, immBits_i, immBits_l, Fields.empty, bv_lt a 128, rawL_lt, hw']
  · rw [build_18 rfl]
    simp [build18, Fields.empty, immL_rawL hi, hw']
theorem RoundTrip.brn (a : PReg) (imm : Word) : RoundTrip.Statement (.brn a imm) := by
  intro h w hw he
  have hw' : (fitsL h imm) = true := hw
  have hi := hw'
  refine decode_of_fields he hw rfl ⟨rfl, rfl⟩ rfl (by simp [Fields.empty]) (by simp [Fields.empty]) ?_ ?_
  · simp [Fits, ModFits, immBits_i, immBits_l, Fields.empty, bv_lt a 128, rawL_lt, hw']
  · rw [build_18 rfl]
    simp [build18, Fields.empty, immL_rawL hi, hw']
theorem RoundTrip.jr (b : XReg) : RoundTrip.Statement (.jr b) := by
  intro h w hw he
  refine decode_of_fields he hw rfl ⟨rfl, rfl⟩ rfl (by simp [Fields.empty]) (by simp [Fields.empty]) ?_ ?_
  · simp [Fits, ModFits, immBits_i, immBits_l, Fields.empty, b.code_lt]
  · rw [build_19 rfl]
    simp [build19, Fields.empty]
theorem RoundTrip.call (a : XReg) (imm : Word) : RoundTrip.Statement (.call a imm) := by
  intro h w hw he
  have hw' : (fitsL h imm) = true := hw
  have hi := hw'
  refine decode_of_fields he hw rfl ⟨rfl, rfl⟩ rfl (by simp [Fields.empty]) (by simp [Fields.empty]) ?_ ?_
  · simp [Fits, ModFits, immBits_i, immBits_l, Fields.empty, a.code_lt, rawL_lt, hw']
  · rw [build_1A rfl]
    simp [build1A, Fields.empty, immL_rawL hi, hw']
theorem RoundTrip.callr (a b : XReg) : RoundTrip.Statement (.callr a b) := by
  intro h w hw he
  refine decode_of_fields he hw rfl ⟨rfl, rfl⟩ rfl (by simp [Fields.empty]) (by simp [Fields.empty]) ?_ ?_
  · simp [Fits, ModFits, immBits_i, immBits_l, Fields.empty, a.code_lt, b.code_lt]
  · rw [build_1B rfl]
    simp [build1B, Fields.empty]
theorem RoundTrip.ret (b : XReg) : RoundTrip.Statement (.ret b) := by
  intro h w hw he
  refine decode_of_fields he hw rfl ⟨rfl, rfl⟩ rfl (by simp [Fields.empty]) (by simp [Fields.empty]) ?_ ?_
  · simp [Fits, ModFits, immBits_i, immBits_l, Fields.empty, b.code_lt]
  · rw [build_1B rfl]
    simp [build1B, Fields.empty]
theorem RoundTrip.loop (a : XReg) (imm : Word) : RoundTrip.Statement (.loop a imm) := by
  intro h w hw he
  have hw' : (fitsI h imm) = true := hw
  have hi := hw'
  refine decode_of_fields he hw rfl ⟨rfl, rfl⟩ rfl (by simp [Fields.empty]) (by simp [Fields.empty]) ?_ ?_
  · simp [Fits, ModFits, immBits_i, immBits_l, Fields.empty, a.code_lt, rawI_lt, hw']
  · rw [build_1C rfl]
    simp [build1C, Fields.empty, immI_rawI hi, hw']
theorem RoundTrip.rep (count : BitVec 6) (mask : BitVec 4) : RoundTrip.Statement (.rep count mask) := by
  intro h w hw he
  refine decode_of_fields he hw rfl ⟨rfl, rfl⟩ rfl (by simp [Fields.empty]) (by simp [Fields.empty]) ?_ ?_
  · simp [Fits, ModFits, immBits_i, immBits_l, Fields.empty, bv_lt count 64, bv_lt mask 16]
  · rw [build_1D rfl]
    simp [build1D, Fields.empty]
theorem RoundTrip.ixset (b : XReg) (imm : Word) : RoundTrip.Statement (.ixset b imm) := by
  intro h w hw he
  have hw' : (fitsI h imm) = true := hw
  have hi := hw'
  refine decode_of_fields he hw rfl ⟨rfl, rfl⟩ rfl (by simp [Fields.empty]) (by simp [Fields.empty]) ?_ ?_
  · simp [Fits, ModFits, immBits_i, immBits_l, Fields.empty, b.code_lt, rawI_lt, hw']
  · rw [build_1E rfl]
    simp [build1E, Fields.empty, immI_rawI hi, hw']
theorem RoundTrip.ixadd (b : XReg) (imm : Word) : RoundTrip.Statement (.ixadd b imm) := by
  intro h w hw he
  have hw' : (fitsI h imm) = true := hw
  have hi := hw'
  refine decode_of_fields he hw rfl ⟨rfl, rfl⟩ rfl (by simp [Fields.empty]) (by simp [Fields.empty]) ?_ ?_
  · simp [Fits, ModFits, immBits_i, immBits_l, Fields.empty, b.code_lt, rawI_lt, hw']
  · rw [build_1E rfl]
    simp [build1E, Fields.empty, immI_rawI hi, hw']
theorem RoundTrip.ixget (a : XReg) : RoundTrip.Statement (.ixget a) := by
  intro h w hw he
  refine decode_of_fields he hw rfl ⟨rfl, rfl⟩ rfl (by simp [Fields.empty]) (by simp [Fields.empty]) ?_ ?_
  · simp [Fits, ModFits, immBits_i, immBits_l, Fields.empty, a.code_lt, imm0_lt]
  · rw [build_1E rfl]
    simp [build1E, Fields.empty, immI_zero]
theorem RoundTrip.mfts (a : XReg) (b : TReg) : RoundTrip.Statement (.mfts a b) := by
  intro h w hw he
  refine decode_of_fields he hw rfl ⟨rfl, rfl⟩ rfl (by simp [Fields.empty]) (by simp [Fields.empty]) ?_ ?_
  · simp [Fits, ModFits, immBits_i, immBits_l, Fields.empty, a.code_lt, b.code_lt]
  · rw [build_1F rfl]
    simp [build1F, Fields.empty]
theorem RoundTrip.mtts (a : TReg) (b : XReg) : RoundTrip.Statement (.mtts a b) := by
  intro h w hw he
  refine decode_of_fields he hw rfl ⟨rfl, rfl⟩ rfl (by simp [Fields.empty]) (by simp [Fields.empty]) ?_ ?_
  · simp [Fits, ModFits, immBits_i, immBits_l, Fields.empty, a.code_lt, b.code_lt]
  · rw [build_1F rfl]
    simp [build1F, Fields.empty]
theorem RoundTrip.rdcyc (a : XReg) : RoundTrip.Statement (.rdcyc a) := by
  intro h w hw he
  refine decode_of_fields he hw rfl ⟨rfl, rfl⟩ rfl (by simp [Fields.empty]) (by simp [Fields.empty]) ?_ ?_
  · simp [Fits, ModFits, immBits_i, immBits_l, Fields.empty, a.code_lt]
  · rw [build_20 rfl]
    simp [build20, Fields.empty]
theorem RoundTrip.brk (imm : Word) : RoundTrip.Statement (.brk imm) := by
  intro h w hw he
  have hw' : (fitsL h imm) = true := hw
  have hi := hw'
  refine decode_of_fields he hw rfl ⟨rfl, rfl⟩ rfl (by simp [Fields.empty]) (by simp [Fields.empty]) ?_ ?_
  · simp [Fits, ModFits, immBits_i, immBits_l, Fields.empty, rawL_lt, hw']
  · rw [build_21 rfl]
    simp [build21, Fields.empty, immL_rawL hi, hw']
theorem RoundTrip.trap (imm : Word) : RoundTrip.Statement (.trap imm) := by
  intro h w hw he
  have hw' : (fitsL h imm) = true := hw
  have hi := hw'
  refine decode_of_fields he hw rfl ⟨rfl, rfl⟩ rfl (by simp [Fields.empty]) (by simp [Fields.empty]) ?_ ?_
  · simp [Fits, ModFits, immBits_i, immBits_l, Fields.empty, rawL_lt, hw']
  · rw [build_22 rfl]
    simp [build22, Fields.empty, immL_rawL hi, hw']
theorem RoundTrip.ld (ty : Ty) (a : DReg) (b : XReg) (imm : Word) : RoundTrip.Statement (.ld ty a b imm) := by
  intro h w hw he
  have hw' : (fitsI h imm && a.fits ty && ty.loads) = true := hw
  simp only [Bool.and_eq_true] at hw'
  have hi := hw'.1.1
  refine decode_of_fields he hw rfl ⟨rfl, rfl⟩ rfl (by simp [Fields.empty]) (by simp [Fields.empty]) ?_ ?_
  · simp [Fits, ModFits, immBits_i, immBits_l, Fields.empty, ty.code_lt, a.code_lt, b.code_lt, rawI_lt, hw']
  · rw [build_40 rfl]
    simp [build40, Fields.empty, immI_rawI hi, hw', dreg_code]
theorem RoundTrip.ldIndexed (ty : Ty) (a : DReg) (b c : XReg) (isc : BitVec 3) : RoundTrip.Statement (.ldIndexed ty a b c isc) := by
  intro h w hw he
  have hw' : (a.fits ty && ty.loads && isc.toNat < 5) = true := hw
  simp only [Bool.and_eq_true] at hw'
  refine decode_of_fields he hw rfl ⟨rfl, rfl⟩ rfl (by simp [Fields.empty]) (by simp [Fields.empty]) ?_ ?_
  · simp [Fits, ModFits, immBits_i, immBits_l, Fields.empty, ty.code_lt, a.code_lt, b.code_lt, c.code_lt, isc_lt, hw']
  · rw [build_41 rfl]
    simp [build41, Fields.empty, hw', dreg_code]
theorem RoundTrip.ldLs (ty : Ty) (a : DReg) (b : XReg) (imm : Word) : RoundTrip.Statement (.ldLs ty a b imm) := by
  intro h w hw he
  have hw' : (fitsI h imm && a.fits ty && ty.loads) = true := hw
  simp only [Bool.and_eq_true] at hw'
  have hi := hw'.1.1
  refine decode_of_fields he hw rfl ⟨rfl, rfl⟩ rfl (by simp [Fields.empty]) (by simp [Fields.empty]) ?_ ?_
  · simp [Fits, ModFits, immBits_i, immBits_l, Fields.empty, ty.code_lt, a.code_lt, b.code_lt, rawI_lt, hw']
  · rw [build_42 rfl]
    simp [build42, Fields.empty, immI_rawI hi, hw', dreg_code]
theorem RoundTrip.ldHandleDisp (ty : Ty) (a : DReg) (b : XReg) (imm : Word) : RoundTrip.Statement (.ldHandleDisp ty a b imm) := by
  intro h w hw he
  have hw' : (fitsI h imm && a.fits ty && ty.loads) = true := hw
  simp only [Bool.and_eq_true] at hw'
  have hi := hw'.1.1
  refine decode_of_fields he hw rfl ⟨rfl, rfl⟩ rfl (by simp [Fields.empty]) (by simp [Fields.empty]) ?_ ?_
  · simp [Fits, ModFits, immBits_i, immBits_l, Fields.empty, ty.code_lt, a.code_lt, b.code_lt, rawI_lt, hw']
  · rw [build_43 rfl]
    simp [build43, Fields.empty, immI_rawI hi, hw', dreg_code]
theorem RoundTrip.ldHandleReg (ty : Ty) (a : DReg) (b c : XReg) : RoundTrip.Statement (.ldHandleReg ty a b c) := by
  intro h w hw he
  have hw' : (a.fits ty && ty.loads) = true := hw
  simp only [Bool.and_eq_true] at hw'
  refine decode_of_fields he hw rfl ⟨rfl, rfl⟩ rfl (by simp [Fields.empty]) (by simp [Fields.empty]) ?_ ?_
  · simp [Fits, ModFits, immBits_i, immBits_l, Fields.empty, ty.code_lt, a.code_lt, b.code_lt, c.code_lt, hw']
  · rw [build_43 rfl]
    simp [build43, Fields.empty, hw', dreg_code]
theorem RoundTrip.st (ty : Ty) (op : MOp) (t : Bool) (a : DReg) (b : XReg) (imm : Word) : RoundTrip.Statement (.st ty op t a b imm) := by
  intro h w hw he
  have hw' : (fitsI h imm && a.fits ty && storeOk ty op t) = true := hw
  simp only [Bool.and_eq_true] at hw'
  have hi := hw'.1.1
  refine decode_of_fields he hw rfl ⟨rfl, rfl⟩ rfl (by simp [Fields.empty]) (by simp [Fields.empty]) ?_ ?_
  · simp [Fits, ModFits, immBits_i, immBits_l, Fields.empty, ty.code_lt, op.code_lt, a.code_lt, b.code_lt, rawI_lt, hw']
  · rw [build_44 rfl]
    simp [build44, Fields.empty, immI_rawI hi, hw', dreg_code]
theorem RoundTrip.stIndexed (ty : Ty) (op : MOp) (t : Bool) (a : DReg) (b c : XReg) (isc : BitVec 3) : RoundTrip.Statement (.stIndexed ty op t a b c isc) := by
  intro h w hw he
  have hw' : (a.fits ty && storeOk ty op t && isc.toNat < 5) = true := hw
  simp only [Bool.and_eq_true] at hw'
  refine decode_of_fields he hw rfl ⟨rfl, rfl⟩ rfl (by simp [Fields.empty]) (by simp [Fields.empty]) ?_ ?_
  · simp [Fits, ModFits, immBits_i, immBits_l, Fields.empty, ty.code_lt, op.code_lt, a.code_lt, b.code_lt, c.code_lt, isc_lt, hw']
  · rw [build_45 rfl]
    simp [build45, Fields.empty, hw', dreg_code]
theorem RoundTrip.stLs (ty : Ty) (a : DReg) (b : XReg) (imm : Word) : RoundTrip.Statement (.stLs ty a b imm) := by
  intro h w hw he
  have hw' : (fitsI h imm && a.fits ty && ty.loads) = true := hw
  simp only [Bool.and_eq_true] at hw'
  have hi := hw'.1.1
  refine decode_of_fields he hw rfl ⟨rfl, rfl⟩ rfl (by simp [Fields.empty]) (by simp [Fields.empty]) ?_ ?_
  · simp [Fits, ModFits, immBits_i, immBits_l, Fields.empty, ty.code_lt, a.code_lt, b.code_lt, rawI_lt, hw']
  · rw [build_46 rfl]
    simp [build46, Fields.empty, immI_rawI hi, hw', dreg_code]
theorem RoundTrip.stHandleDisp (ty : Ty) (a : DReg) (b : XReg) (imm : Word) : RoundTrip.Statement (.stHandleDisp ty a b imm) := by
  intro h w hw he
  have hw' : (fitsI h imm && a.fits ty && ty.loads) = true := hw
  simp only [Bool.and_eq_true] at hw'
  have hi := hw'.1.1
  refine decode_of_fields he hw rfl ⟨rfl, rfl⟩ rfl (by simp [Fields.empty]) (by simp [Fields.empty]) ?_ ?_
  · simp [Fits, ModFits, immBits_i, immBits_l, Fields.empty, ty.code_lt, a.code_lt, b.code_lt, rawI_lt, hw']
  · rw [build_47 rfl]
    simp [build47, Fields.empty, immI_rawI hi, hw', dreg_code]
theorem RoundTrip.stHandleReg (ty : Ty) (a : DReg) (b c : XReg) : RoundTrip.Statement (.stHandleReg ty a b c) := by
  intro h w hw he
  have hw' : (a.fits ty && ty.loads) = true := hw
  simp only [Bool.and_eq_true] at hw'
  refine decode_of_fields he hw rfl ⟨rfl, rfl⟩ rfl (by simp [Fields.empty]) (by simp [Fields.empty]) ?_ ?_
  · simp [Fits, ModFits, immBits_i, immBits_l, Fields.empty, ty.code_lt, a.code_lt, b.code_lt, c.code_lt, hw']
  · rw [build_47 rfl]
    simp [build47, Fields.empty, hw', dreg_code]
theorem RoundTrip.fetch (ty : Ty) (op : MOp) (a b c : XReg) : RoundTrip.Statement (.fetch ty op a b c) := by
  intro h w hw he
  refine decode_of_fields he hw rfl ⟨rfl, rfl⟩ rfl (by simp [Fields.empty]) (by simp [Fields.empty]) ?_ ?_
  · simp [Fits, ModFits, immBits_i, immBits_l, Fields.empty, ty.code_lt, op.code_lt, a.code_lt, b.code_lt, c.code_lt]
  · rw [build_48 rfl]
    simp [build48, Fields.empty]
theorem RoundTrip.gather (ty : Ty) (a : VReg) (b : XReg) (c : VReg) (idx : Idx) : RoundTrip.Statement (.gather ty a b c idx) := by
  intro h w hw he
  have hw' : (a.plain && c.plain && (ty.loads && ty != .b128) && idx.isc.toNat < 5) = true := hw
  simp only [Bool.and_eq_true] at hw'
  refine decode_of_fields he hw rfl ⟨rfl, rfl⟩ rfl (by simp [Fields.empty]) (by simp [Fields.empty]) ?_ ?_
  · simp [Fits, ModFits, immBits_i, immBits_l, Fields.empty, ty.code_lt, a.code_lt, b.code_lt, c.code_lt, idx_lt idx, hw']
  · rw [build_49 rfl]
    simp [build49, Fields.empty, idx_code, hw']
theorem RoundTrip.scatter (ty : Ty) (op : MOp) (t : Bool) (a : VReg) (b : XReg) (c : VReg) (idx : Idx) : RoundTrip.Statement (.scatter ty op t a b c idx) := by
  intro h w hw he
  have hw' : (a.plain && c.plain && (storeOk ty op t && ty != .b128) && idx.isc.toNat < 5) = true := hw
  simp only [Bool.and_eq_true] at hw'
  refine decode_of_fields he hw rfl ⟨rfl, rfl⟩ rfl (by simp [Fields.empty]) (by simp [Fields.empty]) ?_ ?_
  · simp [Fits, ModFits, immBits_i, immBits_l, Fields.empty, ty.code_lt, op.code_lt, a.code_lt, b.code_lt, c.code_lt, idx_lt idx, hw']
  · rw [build_4A rfl]
    simp [build4A, Fields.empty, idx_code, hw']
theorem RoundTrip.ldt (ty : Ty) (a : VReg) (b c : XReg) : RoundTrip.Statement (.ldt ty a b c) := by
  intro h w hw he
  have hw' : (a.plain && ldtOk ty a) = true := hw
  simp only [Bool.and_eq_true] at hw'
  refine decode_of_fields he hw rfl ⟨rfl, rfl⟩ rfl (by simp [Fields.empty]) (by simp [Fields.empty]) ?_ ?_
  · simp [Fits, ModFits, immBits_i, immBits_l, Fields.empty, ty.code_lt, a.code_lt, b.code_lt, c.code_lt, hw']
  · rw [build_4B rfl]
    simp [build4B, Fields.empty, hw']
theorem RoundTrip.unpk (ty ty2 : Ty) (rm : Rm) (a b : VReg) (c : XReg) : RoundTrip.Statement (.unpk ty ty2 rm a b c) := by
  intro h w hw he
  have hw' : (a.plain && b.plain && ((ty == .f16 || ty == .bf16 || ty == .f32) && ty2.unpacks)) = true := hw
  simp only [Bool.and_eq_true] at hw'
  refine decode_of_fields he hw rfl ⟨rfl, rfl⟩ rfl (by simp [Fields.empty]) (by simp [Fields.empty]) ?_ ?_
  · simp [Fits, ModFits, immBits_i, immBits_l, Fields.empty, ty.code_lt, ty2.code_lt, rm.code_lt, a.code_lt, b.code_lt, c.code_lt, hw']
  · rw [build_4C rfl]
    simp [build4C, Fields.empty, hw']
theorem RoundTrip.prefetch (b : XReg) (imm : Word) : RoundTrip.Statement (.prefetch b imm) := by
  intro h w hw he
  have hw' : (fitsI h imm) = true := hw
  have hi := hw'
  refine decode_of_fields he hw rfl ⟨rfl, rfl⟩ rfl (by simp [Fields.empty]) (by simp [Fields.empty]) ?_ ?_
  · simp [Fits, ModFits, immBits_i, immBits_l, Fields.empty, b.code_lt, rawI_lt, hw']
  · rw [build_4D rfl]
    simp [build4D, Fields.empty, immI_rawI hi, hw']
theorem RoundTrip.drain (sc : Scope) (b c : XReg) : RoundTrip.Statement (.drain sc b c) := by
  intro h w hw he
  refine decode_of_fields he hw rfl ⟨rfl, rfl⟩ rfl (by simp [Fields.empty]) (by simp [Fields.empty]) ?_ ?_
  · simp [Fits, ModFits, immBits_i, immBits_l, Fields.empty, sc.code_lt, b.code_lt, c.code_lt]
  · rw [build_4E rfl]
    simp [build4E, Fields.empty]
theorem RoundTrip.drainApply (sc : Scope) (b c : XReg) : RoundTrip.Statement (.drainApply sc b c) := by
  intro h w hw he
  refine decode_of_fields he hw rfl ⟨rfl, rfl⟩ rfl (by simp [Fields.empty]) (by simp [Fields.empty]) ?_ ?_
  · simp [Fits, ModFits, immBits_i, immBits_l, Fields.empty, sc.code_lt, b.code_lt, c.code_lt]
  · rw [build_4E rfl]
    simp [build4E, Fields.empty]
theorem RoundTrip.fenceRel (sc : Scope) : RoundTrip.Statement (.fenceRel sc) := by
  intro h w hw he
  refine decode_of_fields he hw rfl ⟨rfl, rfl⟩ rfl (by simp [Fields.empty]) (by simp [Fields.empty]) ?_ ?_
  · simp [Fits, ModFits, immBits_i, immBits_l, Fields.empty, sc.code_lt]
  · rw [build_51 rfl]
    simp [build51, Fields.empty]
theorem RoundTrip.fenceAcq (sc : Scope) : RoundTrip.Statement (.fenceAcq sc) := by
  intro h w hw he
  refine decode_of_fields he hw rfl ⟨rfl, rfl⟩ rfl (by simp [Fields.empty]) (by simp [Fields.empty]) ?_ ?_
  · simp [Fits, ModFits, immBits_i, immBits_l, Fields.empty, sc.code_lt]
  · rw [build_51 rfl]
    simp [build51, Fields.empty]
theorem RoundTrip.fenceAr (sc : Scope) : RoundTrip.Statement (.fenceAr sc) := by
  intro h w hw he
  refine decode_of_fields he hw rfl ⟨rfl, rfl⟩ rfl (by simp [Fields.empty]) (by simp [Fields.empty]) ?_ ?_
  · simp [Fits, ModFits, immBits_i, immBits_l, Fields.empty, sc.code_lt]
  · rw [build_51 rfl]
    simp [build51, Fields.empty]
theorem RoundTrip.fenceSc (sc : Scope) : RoundTrip.Statement (.fenceSc sc) := by
  intro h w hw he
  refine decode_of_fields he hw rfl ⟨rfl, rfl⟩ rfl (by simp [Fields.empty]) (by simp [Fields.empty]) ?_ ?_
  · simp [Fits, ModFits, immBits_i, immBits_l, Fields.empty, sc.code_lt]
  · rw [build_51 rfl]
    simp [build51, Fields.empty]
theorem RoundTrip.fenceX (ea eb : Engine) : RoundTrip.Statement (.fenceX ea eb) := by
  intro h w hw he
  refine decode_of_fields he hw rfl ⟨rfl, rfl⟩ rfl (by simp [Fields.empty]) (by simp [Fields.empty]) ?_ ?_
  · simp [Fits, ModFits, immBits_i, immBits_l, Fields.empty, engines_lt, engines_lt, engines_fit]
  · rw [build_51 rfl]
    simp [build51, Fields.empty, engOf_mod]
theorem RoundTrip.bar (sc : Scope) (b : XReg) (imm : BitVec 23) : RoundTrip.Statement (.bar sc b imm) := by
  intro h w hw he
  have hw' : ((sc != .thread)) = true := hw
  refine decode_of_fields he hw rfl ⟨rfl, rfl⟩ rfl (by simp [Fields.empty]) (by simp [Fields.empty]) ?_ ?_
  · simp [Fits, ModFits, immBits_i, immBits_l, Fields.empty, sc.code_lt, b.code_lt, bar_fits, hw']
  · rw [build_52 rfl]
    simp [build52, Fields.empty, imm.isLt, hw']
theorem RoundTrip.hgive (b c : XReg) : RoundTrip.Statement (.hgive b c) := by
  intro h w hw he
  refine decode_of_fields he hw rfl ⟨rfl, rfl⟩ rfl (by simp [Fields.empty]) (by simp [Fields.empty]) ?_ ?_
  · simp [Fits, ModFits, immBits_i, immBits_l, Fields.empty, b.code_lt, c.code_lt]
  · rw [build_53 rfl]
    simp [build53, Fields.empty]
theorem RoundTrip.htake (a b : XReg) : RoundTrip.Statement (.htake a b) := by
  intro h w hw he
  refine decode_of_fields he hw rfl ⟨rfl, rfl⟩ rfl (by simp [Fields.empty]) (by simp [Fields.empty]) ?_ ?_
  · simp [Fits, ModFits, immBits_i, immBits_l, Fields.empty, a.code_lt, b.code_lt]
  · rw [build_53 rfl]
    simp [build53, Fields.empty]
theorem RoundTrip.vaddF (ty : Ty) (rm : Rm) (a b c : VReg) : RoundTrip.Statement (.vaddF ty rm a b c) := by
  intro h w hw he
  refine decode_of_fields he hw rfl ⟨rfl, rfl⟩ rfl (by simp [Fields.empty]) (by simp [Fields.empty]) ?_ ?_
  · simp [Fits, ModFits, immBits_i, immBits_l, Fields.empty, ty.code_lt, rm.code_lt, a.code_lt, b.code_lt, c.code_lt]
  · rw [build_71 rfl]
    simp [build71, Fields.empty]
theorem RoundTrip.vsubF (ty : Ty) (rm : Rm) (a b c : VReg) : RoundTrip.Statement (.vsubF ty rm a b c) := by
  intro h w hw he
  refine decode_of_fields he hw rfl ⟨rfl, rfl⟩ rfl (by simp [Fields.empty]) (by simp [Fields.empty]) ?_ ?_
  · simp [Fits, ModFits, immBits_i, immBits_l, Fields.empty, ty.code_lt, rm.code_lt, a.code_lt, b.code_lt, c.code_lt]
  · rw [build_71 rfl]
    simp [build71, Fields.empty]
theorem RoundTrip.vmulF (ty : Ty) (rm : Rm) (a b c : VReg) : RoundTrip.Statement (.vmulF ty rm a b c) := by
  intro h w hw he
  refine decode_of_fields he hw rfl ⟨rfl, rfl⟩ rfl (by simp [Fields.empty]) (by simp [Fields.empty]) ?_ ?_
  · simp [Fits, ModFits, immBits_i, immBits_l, Fields.empty, ty.code_lt, rm.code_lt, a.code_lt, b.code_lt, c.code_lt]
  · rw [build_71 rfl]
    simp [build71, Fields.empty]
theorem RoundTrip.vdiv (ty : Ty) (rm : Rm) (a b c : VReg) : RoundTrip.Statement (.vdiv ty rm a b c) := by
  intro h w hw he
  refine decode_of_fields he hw rfl ⟨rfl, rfl⟩ rfl (by simp [Fields.empty]) (by simp [Fields.empty]) ?_ ?_
  · simp [Fits, ModFits, immBits_i, immBits_l, Fields.empty, ty.code_lt, rm.code_lt, a.code_lt, b.code_lt, c.code_lt]
  · rw [build_71 rfl]
    simp [build71, Fields.empty]
theorem RoundTrip.vminF (ty : Ty) (a b c : VReg) : RoundTrip.Statement (.vminF ty a b c) := by
  intro h w hw he
  refine decode_of_fields he hw rfl ⟨rfl, rfl⟩ rfl (by simp [Fields.empty]) (by simp [Fields.empty]) ?_ ?_
  · simp [Fits, ModFits, immBits_i, immBits_l, Fields.empty, ty.code_lt, a.code_lt, b.code_lt, c.code_lt]
  · rw [build_71 rfl]
    simp [build71, Fields.empty]
theorem RoundTrip.vmaxF (ty : Ty) (a b c : VReg) : RoundTrip.Statement (.vmaxF ty a b c) := by
  intro h w hw he
  refine decode_of_fields he hw rfl ⟨rfl, rfl⟩ rfl (by simp [Fields.empty]) (by simp [Fields.empty]) ?_ ?_
  · simp [Fits, ModFits, immBits_i, immBits_l, Fields.empty, ty.code_lt, a.code_lt, b.code_lt, c.code_lt]
  · rw [build_71 rfl]
    simp [build71, Fields.empty]
theorem RoundTrip.vabsF (ty : Ty) (a b : VReg) : RoundTrip.Statement (.vabsF ty a b) := by
  intro h w hw he
  refine decode_of_fields he hw rfl ⟨rfl, rfl⟩ rfl (by simp [Fields.empty]) (by simp [Fields.empty]) ?_ ?_
  · simp [Fits, ModFits, immBits_i, immBits_l, Fields.empty, ty.code_lt, a.code_lt, b.code_lt]
  · rw [build_71 rfl]
    simp [build71, Fields.empty]
theorem RoundTrip.vneg (ty : Ty) (a b : VReg) : RoundTrip.Statement (.vneg ty a b) := by
  intro h w hw he
  refine decode_of_fields he hw rfl ⟨rfl, rfl⟩ rfl (by simp [Fields.empty]) (by simp [Fields.empty]) ?_ ?_
  · simp [Fits, ModFits, immBits_i, immBits_l, Fields.empty, ty.code_lt, a.code_lt, b.code_lt]
  · rw [build_71 rfl]
    simp [build71, Fields.empty]
theorem RoundTrip.vsqrt (ty : Ty) (rm : Rm) (a b : VReg) : RoundTrip.Statement (.vsqrt ty rm a b) := by
  intro h w hw he
  refine decode_of_fields he hw rfl ⟨rfl, rfl⟩ rfl (by simp [Fields.empty]) (by simp [Fields.empty]) ?_ ?_
  · simp [Fits, ModFits, immBits_i, immBits_l, Fields.empty, ty.code_lt, rm.code_lt, a.code_lt, b.code_lt]
  · rw [build_71 rfl]
    simp [build71, Fields.empty]
theorem RoundTrip.vfma (ty : Ty) (rm : Rm) (a b c d : VReg) : RoundTrip.Statement (.vfma ty rm a b c d) := by
  intro h w hw he
  refine decode_of_fields he hw rfl ⟨rfl, rfl⟩ rfl (by simp [Fields.empty]) (by simp [Fields.empty]) ?_ ?_
  · simp [Fits, ModFits, immBits_i, immBits_l, Fields.empty, ty.code_lt, rm.code_lt, a.code_lt, b.code_lt, c.code_lt, d.code_lt]
  · rw [build_72 rfl]
    simp [build72, Fields.empty]
theorem RoundTrip.vfms (ty : Ty) (rm : Rm) (a b c d : VReg) : RoundTrip.Statement (.vfms ty rm a b c d) := by
  intro h w hw he
  refine decode_of_fields he hw rfl ⟨rfl, rfl⟩ rfl (by simp [Fields.empty]) (by simp [Fields.empty]) ?_ ?_
  · simp [Fits, ModFits, immBits_i, immBits_l, Fields.empty, ty.code_lt, rm.code_lt, a.code_lt, b.code_lt, c.code_lt, d.code_lt]
  · rw [build_72 rfl]
    simp [build72, Fields.empty]
theorem RoundTrip.vfnma (ty : Ty) (rm : Rm) (a b c d : VReg) : RoundTrip.Statement (.vfnma ty rm a b c d) := by
  intro h w hw he
  refine decode_of_fields he hw rfl ⟨rfl, rfl⟩ rfl (by simp [Fields.empty]) (by simp [Fields.empty]) ?_ ?_
  · simp [Fits, ModFits, immBits_i, immBits_l, Fields.empty, ty.code_lt, rm.code_lt, a.code_lt, b.code_lt, c.code_lt, d.code_lt]
  · rw [build_72 rfl]
    simp [build72, Fields.empty]
theorem RoundTrip.vaddI (ty : Ty) (a b c : VReg) : RoundTrip.Statement (.vaddI ty a b c) := by
  intro h w hw he
  refine decode_of_fields he hw rfl ⟨rfl, rfl⟩ rfl (by simp [Fields.empty]) (by simp [Fields.empty]) ?_ ?_
  · simp [Fits, ModFits, immBits_i, immBits_l, Fields.empty, ty.code_lt, a.code_lt, b.code_lt, c.code_lt]
  · rw [build_73 rfl]
    simp [build73, Fields.empty]
theorem RoundTrip.vsubI (ty : Ty) (a b c : VReg) : RoundTrip.Statement (.vsubI ty a b c) := by
  intro h w hw he
  refine decode_of_fields he hw rfl ⟨rfl, rfl⟩ rfl (by simp [Fields.empty]) (by simp [Fields.empty]) ?_ ?_
  · simp [Fits, ModFits, immBits_i, immBits_l, Fields.empty, ty.code_lt, a.code_lt, b.code_lt, c.code_lt]
  · rw [build_73 rfl]
    simp [build73, Fields.empty]
theorem RoundTrip.vmulI (ty : Ty) (a b c : VReg) : RoundTrip.Statement (.vmulI ty a b c) := by
  intro h w hw he
  refine decode_of_fields he hw rfl ⟨rfl, rfl⟩ rfl (by simp [Fields.empty]) (by simp [Fields.empty]) ?_ ?_
  · simp [Fits, ModFits, immBits_i, immBits_l, Fields.empty, ty.code_lt, a.code_lt, b.code_lt, c.code_lt]
  · rw [build_73 rfl]
    simp [build73, Fields.empty]
theorem RoundTrip.vminI (ty : Ty) (a b c : VReg) : RoundTrip.Statement (.vminI ty a b c) := by
  intro h w hw he
  refine decode_of_fields he hw rfl ⟨rfl, rfl⟩ rfl (by simp [Fields.empty]) (by simp [Fields.empty]) ?_ ?_
  · simp [Fits, ModFits, immBits_i, immBits_l, Fields.empty, ty.code_lt, a.code_lt, b.code_lt, c.code_lt]
  · rw [build_73 rfl]
    simp [build73, Fields.empty]
theorem RoundTrip.vmaxI (ty : Ty) (a b c : VReg) : RoundTrip.Statement (.vmaxI ty a b c) := by
  intro h w hw he
  refine decode_of_fields he hw rfl ⟨rfl, rfl⟩ rfl (by simp [Fields.empty]) (by simp [Fields.empty]) ?_ ?_
  · simp [Fits, ModFits, immBits_i, immBits_l, Fields.empty, ty.code_lt, a.code_lt, b.code_lt, c.code_lt]
  · rw [build_73 rfl]
    simp [build73, Fields.empty]
theorem RoundTrip.vabsI (ty : Ty) (a b : VReg) : RoundTrip.Statement (.vabsI ty a b) := by
  intro h w hw he
  refine decode_of_fields he hw rfl ⟨rfl, rfl⟩ rfl (by simp [Fields.empty]) (by simp [Fields.empty]) ?_ ?_
  · simp [Fits, ModFits, immBits_i, immBits_l, Fields.empty, ty.code_lt, a.code_lt, b.code_lt]
  · rw [build_73 rfl]
    simp [build73, Fields.empty]
theorem RoundTrip.vadds (ty : Ty) (a b c : VReg) : RoundTrip.Statement (.vadds ty a b c) := by
  intro h w hw he
  refine decode_of_fields he hw rfl ⟨rfl, rfl⟩ rfl (by simp [Fields.empty]) (by simp [Fields.empty]) ?_ ?_
  · simp [Fits, ModFits, immBits_i, immBits_l, Fields.empty, ty.code_lt, a.code_lt, b.code_lt, c.code_lt]
  · rw [build_73 rfl]
    simp [build73, Fields.empty]
theorem RoundTrip.vsubs (ty : Ty) (a b c : VReg) : RoundTrip.Statement (.vsubs ty a b c) := by
  intro h w hw he
  refine decode_of_fields he hw rfl ⟨rfl, rfl⟩ rfl (by simp [Fields.empty]) (by simp [Fields.empty]) ?_ ?_
  · simp [Fits, ModFits, immBits_i, immBits_l, Fields.empty, ty.code_lt, a.code_lt, b.code_lt, c.code_lt]
  · rw [build_73 rfl]
    simp [build73, Fields.empty]
theorem RoundTrip.vand (ty : Ty) (a b c : VReg) : RoundTrip.Statement (.vand ty a b c) := by
  intro h w hw he
  refine decode_of_fields he hw rfl ⟨rfl, rfl⟩ rfl (by simp [Fields.empty]) (by simp [Fields.empty]) ?_ ?_
  · simp [Fits, ModFits, immBits_i, immBits_l, Fields.empty, ty.code_lt, a.code_lt, b.code_lt, c.code_lt]
  · rw [build_73 rfl]
    simp [build73, Fields.empty]
theorem RoundTrip.vor (ty : Ty) (a b c : VReg) : RoundTrip.Statement (.vor ty a b c) := by
  intro h w hw he
  refine decode_of_fields he hw rfl ⟨rfl, rfl⟩ rfl (by simp [Fields.empty]) (by simp [Fields.empty]) ?_ ?_
  · simp [Fits, ModFits, immBits_i, immBits_l, Fields.empty, ty.code_lt, a.code_lt, b.code_lt, c.code_lt]
  · rw [build_73 rfl]
    simp [build73, Fields.empty]
theorem RoundTrip.vxor (ty : Ty) (a b c : VReg) : RoundTrip.Statement (.vxor ty a b c) := by
  intro h w hw he
  refine decode_of_fields he hw rfl ⟨rfl, rfl⟩ rfl (by simp [Fields.empty]) (by simp [Fields.empty]) ?_ ?_
  · simp [Fits, ModFits, immBits_i, immBits_l, Fields.empty, ty.code_lt, a.code_lt, b.code_lt, c.code_lt]
  · rw [build_73 rfl]
    simp [build73, Fields.empty]
theorem RoundTrip.vsll (ty : Ty) (a b c : VReg) : RoundTrip.Statement (.vsll ty a b c) := by
  intro h w hw he
  refine decode_of_fields he hw rfl ⟨rfl, rfl⟩ rfl (by simp [Fields.empty]) (by simp [Fields.empty]) ?_ ?_
  · simp [Fits, ModFits, immBits_i, immBits_l, Fields.empty, ty.code_lt, a.code_lt, b.code_lt, c.code_lt]
  · rw [build_73 rfl]
    simp [build73, Fields.empty]
theorem RoundTrip.vsrl (ty : Ty) (a b c : VReg) : RoundTrip.Statement (.vsrl ty a b c) := by
  intro h w hw he
  refine decode_of_fields he hw rfl ⟨rfl, rfl⟩ rfl (by simp [Fields.empty]) (by simp [Fields.empty]) ?_ ?_
  · simp [Fits, ModFits, immBits_i, immBits_l, Fields.empty, ty.code_lt, a.code_lt, b.code_lt, c.code_lt]
  · rw [build_73 rfl]
    simp [build73, Fields.empty]
theorem RoundTrip.vsra (ty : Ty) (a b c : VReg) : RoundTrip.Statement (.vsra ty a b c) := by
  intro h w hw he
  refine decode_of_fields he hw rfl ⟨rfl, rfl⟩ rfl (by simp [Fields.empty]) (by simp [Fields.empty]) ?_ ?_
  · simp [Fits, ModFits, immBits_i, immBits_l, Fields.empty, ty.code_lt, a.code_lt, b.code_lt, c.code_lt]
  · rw [build_73 rfl]
    simp [build73, Fields.empty]
theorem RoundTrip.vexp (ty : Ty) (rm : Rm) (a b : VReg) : RoundTrip.Statement (.vexp ty rm a b) := by
  intro h w hw he
  refine decode_of_fields he hw rfl ⟨rfl, rfl⟩ rfl (by simp [Fields.empty]) (by simp [Fields.empty]) ?_ ?_
  · simp [Fits, ModFits, immBits_i, immBits_l, Fields.empty, ty.code_lt, rm.code_lt, a.code_lt, b.code_lt]
  · rw [build_74 rfl]
    simp [build74, Fields.empty]
theorem RoundTrip.vlog (ty : Ty) (rm : Rm) (a b : VReg) : RoundTrip.Statement (.vlog ty rm a b) := by
  intro h w hw he
  refine decode_of_fields he hw rfl ⟨rfl, rfl⟩ rfl (by simp [Fields.empty]) (by simp [Fields.empty]) ?_ ?_
  · simp [Fits, ModFits, immBits_i, immBits_l, Fields.empty, ty.code_lt, rm.code_lt, a.code_lt, b.code_lt]
  · rw [build_74 rfl]
    simp [build74, Fields.empty]
theorem RoundTrip.vrcp (ty : Ty) (rm : Rm) (a b : VReg) : RoundTrip.Statement (.vrcp ty rm a b) := by
  intro h w hw he
  refine decode_of_fields he hw rfl ⟨rfl, rfl⟩ rfl (by simp [Fields.empty]) (by simp [Fields.empty]) ?_ ?_
  · simp [Fits, ModFits, immBits_i, immBits_l, Fields.empty, ty.code_lt, rm.code_lt, a.code_lt, b.code_lt]
  · rw [build_74 rfl]
    simp [build74, Fields.empty]
theorem RoundTrip.vrsqrt (ty : Ty) (rm : Rm) (a b : VReg) : RoundTrip.Statement (.vrsqrt ty rm a b) := by
  intro h w hw he
  refine decode_of_fields he hw rfl ⟨rfl, rfl⟩ rfl (by simp [Fields.empty]) (by simp [Fields.empty]) ?_ ?_
  · simp [Fits, ModFits, immBits_i, immBits_l, Fields.empty, ty.code_lt, rm.code_lt, a.code_lt, b.code_lt]
  · rw [build_74 rfl]
    simp [build74, Fields.empty]
theorem RoundTrip.vtanh (ty : Ty) (rm : Rm) (a b : VReg) : RoundTrip.Statement (.vtanh ty rm a b) := by
  intro h w hw he
  refine decode_of_fields he hw rfl ⟨rfl, rfl⟩ rfl (by simp [Fields.empty]) (by simp [Fields.empty]) ?_ ?_
  · simp [Fits, ModFits, immBits_i, immBits_l, Fields.empty, ty.code_lt, rm.code_lt, a.code_lt, b.code_lt]
  · rw [build_74 rfl]
    simp [build74, Fields.empty]
theorem RoundTrip.vsig (ty : Ty) (rm : Rm) (a b : VReg) : RoundTrip.Statement (.vsig ty rm a b) := by
  intro h w hw he
  refine decode_of_fields he hw rfl ⟨rfl, rfl⟩ rfl (by simp [Fields.empty]) (by simp [Fields.empty]) ?_ ?_
  · simp [Fits, ModFits, immBits_i, immBits_l, Fields.empty, ty.code_lt, rm.code_lt, a.code_lt, b.code_lt]
  · rw [build_74 rfl]
    simp [build74, Fields.empty]
theorem RoundTrip.vcmpEq (ty : Ty) (a b c : VReg) : RoundTrip.Statement (.vcmpEq ty a b c) := by
  intro h w hw he
  have hw' : (a.plain && b.plain && c.plain && (ty.isInt || ty.isFloat)) = true := hw
  simp only [Bool.and_eq_true] at hw'
  refine decode_of_fields he hw rfl ⟨rfl, rfl⟩ rfl (by simp [Fields.empty]) (by simp [Fields.empty]) ?_ ?_
  · simp [Fits, ModFits, immBits_i, immBits_l, Fields.empty, ty.code_lt, a.code_lt, b.code_lt, c.code_lt, hw']
  · rw [build_75 rfl]
    simp [build75, Fields.empty, hw']
theorem RoundTrip.vcmpNe (ty : Ty) (a b c : VReg) : RoundTrip.Statement (.vcmpNe ty a b c) := by
  intro h w hw he
  have hw' : (a.plain && b.plain && c.plain && (ty.isInt || ty.isFloat)) = true := hw
  simp only [Bool.and_eq_true] at hw'
  refine decode_of_fields he hw rfl ⟨rfl, rfl⟩ rfl (by simp [Fields.empty]) (by simp [Fields.empty]) ?_ ?_
  · simp [Fits, ModFits, immBits_i, immBits_l, Fields.empty, ty.code_lt, a.code_lt, b.code_lt, c.code_lt, hw']
  · rw [build_75 rfl]
    simp [build75, Fields.empty, hw']
theorem RoundTrip.vcmpLt (ty : Ty) (a b c : VReg) : RoundTrip.Statement (.vcmpLt ty a b c) := by
  intro h w hw he
  have hw' : (a.plain && b.plain && c.plain && (ty.isInt || ty.isFloat)) = true := hw
  simp only [Bool.and_eq_true] at hw'
  refine decode_of_fields he hw rfl ⟨rfl, rfl⟩ rfl (by simp [Fields.empty]) (by simp [Fields.empty]) ?_ ?_
  · simp [Fits, ModFits, immBits_i, immBits_l, Fields.empty, ty.code_lt, a.code_lt, b.code_lt, c.code_lt, hw']
  · rw [build_75 rfl]
    simp [build75, Fields.empty, hw']
theorem RoundTrip.vcmpLe (ty : Ty) (a b c : VReg) : RoundTrip.Statement (.vcmpLe ty a b c) := by
  intro h w hw he
  have hw' : (a.plain && b.plain && c.plain && (ty.isInt || ty.isFloat)) = true := hw
  simp only [Bool.and_eq_true] at hw'
  refine decode_of_fields he hw rfl ⟨rfl, rfl⟩ rfl (by simp [Fields.empty]) (by simp [Fields.empty]) ?_ ?_
  · simp [Fits, ModFits, immBits_i, immBits_l, Fields.empty, ty.code_lt, a.code_lt, b.code_lt, c.code_lt, hw']
  · rw [build_75 rfl]
    simp [build75, Fields.empty, hw']
theorem RoundTrip.vcmpGt (ty : Ty) (a b c : VReg) : RoundTrip.Statement (.vcmpGt ty a b c) := by
  intro h w hw he
  have hw' : (a.plain && b.plain && c.plain && (ty.isInt || ty.isFloat)) = true := hw
  simp only [Bool.and_eq_true] at hw'
  refine decode_of_fields he hw rfl ⟨rfl, rfl⟩ rfl (by simp [Fields.empty]) (by simp [Fields.empty]) ?_ ?_
  · simp [Fits, ModFits, immBits_i, immBits_l, Fields.empty, ty.code_lt, a.code_lt, b.code_lt, c.code_lt, hw']
  · rw [build_75 rfl]
    simp [build75, Fields.empty, hw']
theorem RoundTrip.vcmpGe (ty : Ty) (a b c : VReg) : RoundTrip.Statement (.vcmpGe ty a b c) := by
  intro h w hw he
  have hw' : (a.plain && b.plain && c.plain && (ty.isInt || ty.isFloat)) = true := hw
  simp only [Bool.and_eq_true] at hw'
  refine decode_of_fields he hw rfl ⟨rfl, rfl⟩ rfl (by simp [Fields.empty]) (by simp [Fields.empty]) ?_ ?_
  · simp [Fits, ModFits, immBits_i, immBits_l, Fields.empty, ty.code_lt, a.code_lt, b.code_lt, c.code_lt, hw']
  · rw [build_75 rfl]
    simp [build75, Fields.empty, hw']
theorem RoundTrip.vsel (ty : Ty) (a b c d : VReg) : RoundTrip.Statement (.vsel ty a b c d) := by
  intro h w hw he
  have hw' : (a.plain && b.plain && c.plain && d.plain && ty.isRaw) = true := hw
  simp only [Bool.and_eq_true] at hw'
  refine decode_of_fields he hw rfl ⟨rfl, rfl⟩ rfl (by simp [Fields.empty]) (by simp [Fields.empty]) ?_ ?_
  · simp [Fits, ModFits, immBits_i, immBits_l, Fields.empty, ty.code_lt, a.code_lt, b.code_lt, c.code_lt, d.code_lt, hw']
  · rw [build_76 rfl]
    simp [build76, Fields.empty, hw']
theorem RoundTrip.vperm (ty : Ty) (a b c : VReg) : RoundTrip.Statement (.vperm ty a b c) := by
  intro h w hw he
  have hw' : (a.plain && b.plain && c.plain && ty.isRaw) = true := hw
  simp only [Bool.and_eq_true] at hw'
  refine decode_of_fields he hw rfl ⟨rfl, rfl⟩ rfl (by simp [Fields.empty]) (by simp [Fields.empty]) ?_ ?_
  · simp [Fits, ModFits, immBits_i, immBits_l, Fields.empty, ty.code_lt, a.code_lt, b.code_lt, c.code_lt, hw']
  · rw [build_77 rfl]
    simp [build77, Fields.empty, hw']
theorem RoundTrip.vshuf (ty : Ty) (a b c d : VReg) : RoundTrip.Statement (.vshuf ty a b c d) := by
  intro h w hw he
  have hw' : (a.plain && b.plain && c.plain && d.plain && ty.isRaw) = true := hw
  simp only [Bool.and_eq_true] at hw'
  refine decode_of_fields he hw rfl ⟨rfl, rfl⟩ rfl (by simp [Fields.empty]) (by simp [Fields.empty]) ?_ ?_
  · simp [Fits, ModFits, immBits_i, immBits_l, Fields.empty, ty.code_lt, a.code_lt, b.code_lt, c.code_lt, d.code_lt, hw']
  · rw [build_77 rfl]
    simp [build77, Fields.empty, hw']
theorem RoundTrip.vbcast (ty : Ty) (a : VReg) (b : XReg) : RoundTrip.Statement (.vbcast ty a b) := by
  intro h w hw he
  have hw' : (a.plain && ty.isRaw) = true := hw
  simp only [Bool.and_eq_true] at hw'
  refine decode_of_fields he hw rfl ⟨rfl, rfl⟩ rfl (by simp [Fields.empty]) (by simp [Fields.empty]) ?_ ?_
  · simp [Fits, ModFits, immBits_i, immBits_l, Fields.empty, ty.code_lt, a.code_lt, b.code_lt, hw']
  · rw [build_77 rfl]
    simp [build77, Fields.empty, hw']
theorem RoundTrip.vrot (ty : Ty) (a b : VReg) (c : XReg) : RoundTrip.Statement (.vrot ty a b c) := by
  intro h w hw he
  have hw' : (a.plain && b.plain && ty.isRaw) = true := hw
  simp only [Bool.and_eq_true] at hw'
  refine decode_of_fields he hw rfl ⟨rfl, rfl⟩ rfl (by simp [Fields.empty]) (by simp [Fields.empty]) ?_ ?_
  · simp [Fits, ModFits, immBits_i, immBits_l, Fields.empty, ty.code_lt, a.code_lt, b.code_lt, c.code_lt, hw']
  · rw [build_77 rfl]
    simp [build77, Fields.empty, hw']
theorem RoundTrip.vredadd (ty : Ty) (rm : Rm) (a : XReg) (b : VReg) : RoundTrip.Statement (.vredadd ty rm a b) := by
  intro h w hw he
  have hw' : (b.plain && (ty.isFloat || (ty.isInt && rm == .rne))) = true := hw
  simp only [Bool.and_eq_true] at hw'
  refine decode_of_fields he hw rfl ⟨rfl, rfl⟩ rfl (by simp [Fields.empty]) (by simp [Fields.empty]) ?_ ?_
  · simp [Fits, ModFits, immBits_i, immBits_l, Fields.empty, ty.code_lt, rm.code_lt, a.code_lt, b.code_lt, hw']
  · rw [build_78 rfl]
    simp [build78, Fields.empty, hw']
theorem RoundTrip.vredmax (ty : Ty) (a : XReg) (b : VReg) : RoundTrip.Statement (.vredmax ty a b) := by
  intro h w hw he
  have hw' : (b.plain && (ty.isInt || ty.isFloat)) = true := hw
  simp only [Bool.and_eq_true] at hw'
  refine decode_of_fields he hw rfl ⟨rfl, rfl⟩ rfl (by simp [Fields.empty]) (by simp [Fields.empty]) ?_ ?_
  · simp [Fits, ModFits, immBits_i, immBits_l, Fields.empty, ty.code_lt, a.code_lt, b.code_lt, hw']
  · rw [build_78 rfl]
    simp [build78, Fields.empty, hw']
theorem RoundTrip.vredmin (ty : Ty) (a : XReg) (b : VReg) : RoundTrip.Statement (.vredmin ty a b) := by
  intro h w hw he
  have hw' : (b.plain && (ty.isInt || ty.isFloat)) = true := hw
  simp only [Bool.and_eq_true] at hw'
  refine decode_of_fields he hw rfl ⟨rfl, rfl⟩ rfl (by simp [Fields.empty]) (by simp [Fields.empty]) ?_ ?_
  · simp [Fits, ModFits, immBits_i, immBits_l, Fields.empty, ty.code_lt, a.code_lt, b.code_lt, hw']
  · rw [build_78 rfl]
    simp [build78, Fields.empty, hw']
theorem RoundTrip.cvt (ty ty2 : Ty) (rm : Rm) (a b : VReg) (c : XReg) : RoundTrip.Statement (.cvt ty ty2 rm a b c) := by
  intro h w hw he
  refine decode_of_fields he hw rfl ⟨rfl, rfl⟩ rfl (by simp [Fields.empty]) (by simp [Fields.empty]) ?_ ?_
  · simp [Fits, ModFits, immBits_i, immBits_l, Fields.empty, ty.code_lt, ty2.code_lt, rm.code_lt, a.code_lt, b.code_lt, c.code_lt]
  · rw [build_79 rfl]
    simp [build79, Fields.empty]
theorem RoundTrip.cvtn (ty2 : Ty) (rm : Rm) (a b : VReg) (c d : XReg) : RoundTrip.Statement (.cvtn ty2 rm a b c d) := by
  intro h w hw he
  have hw' : (a.plain && b.plain && (ty2 == .f32 || ty2 == .f16 || ty2 == .bf16)) = true := hw
  simp only [Bool.and_eq_true] at hw'
  refine decode_of_fields he hw rfl ⟨rfl, rfl⟩ rfl (by simp [Fields.empty]) (by simp [Fields.empty]) ?_ ?_
  · simp [Fits, ModFits, immBits_i, immBits_l, Fields.empty, ty2.code_lt, rm.code_lt, a.code_lt, b.code_lt, c.code_lt, d.code_lt, (show Ty.b8.code = 16 from rfl), hw']
  · rw [build_79 rfl]
    simp [build79, Fields.empty, hw']
theorem RoundTrip.vquant (ty2 : Ty) (rm : Rm) (a b : VReg) (c d : XReg) : RoundTrip.Statement (.vquant ty2 rm a b c d) := by
  intro h w hw he
  have hw' : (a.plain && b.plain && (ty2 == .f32 || ty2 == .f16 || ty2 == .bf16)) = true := hw
  simp only [Bool.and_eq_true] at hw'
  refine decode_of_fields he hw rfl ⟨rfl, rfl⟩ rfl (by simp [Fields.empty]) (by simp [Fields.empty]) ?_ ?_
  · simp [Fits, ModFits, immBits_i, immBits_l, Fields.empty, ty2.code_lt, rm.code_lt, a.code_lt, b.code_lt, c.code_lt, d.code_lt, (show Ty.b8.code = 16 from rfl), hw']
  · rw [build_7A rfl]
    simp [build7A, Fields.empty, hw']
theorem RoundTrip.xmax (ty : Ty) (a : XReg) (b : VReg) : RoundTrip.Statement (.xmax ty a b) := by
  intro h w hw he
  have hw' : (b.plain && (ty == .f32 || ty == .f16 || ty == .bf16 || ty == .i32 || ty == .n32)) = true := hw
  simp only [Bool.and_eq_true] at hw'
  refine decode_of_fields he hw rfl ⟨rfl, rfl⟩ rfl (by simp [Fields.empty]) (by simp [Fields.empty]) ?_ ?_
  · simp [Fits, ModFits, immBits_i, immBits_l, Fields.empty, ty.code_lt, a.code_lt, b.code_lt, hw']
  · rw [build_7B rfl]
    simp [build7B, Fields.empty, hw']
theorem RoundTrip.sbupd (b : VReg) (c d : XReg) : RoundTrip.Statement (.sbupd b c d) := by
  intro h w hw he
  have hw' : (b.plain) = true := hw
  refine decode_of_fields he hw rfl ⟨rfl, rfl⟩ rfl (by simp [Fields.empty]) (by simp [Fields.empty]) ?_ ?_
  · simp [Fits, ModFits, immBits_i, immBits_l, Fields.empty, b.code_lt, c.code_lt, d.code_lt, (show Ty.f32.code = 9 from rfl), hw']
  · rw [build_7C rfl]
    simp [build7C, Fields.empty, hw']
theorem RoundTrip.vhash (ty : Ty) (a b : VReg) (c : XReg) : RoundTrip.Statement (.vhash ty a b c) := by
  intro h w hw he
  have hw' : (a.plain && b.plain && (ty == .b32 || ty == .b64)) = true := hw
  simp only [Bool.and_eq_true] at hw'
  refine decode_of_fields he hw rfl ⟨rfl, rfl⟩ rfl (by simp [Fields.empty]) (by simp [Fields.empty]) ?_ ?_
  · simp [Fits, ModFits, immBits_i, immBits_l, Fields.empty, ty.code_lt, a.code_lt, b.code_lt, c.code_lt, hw']
  · rw [build_7D rfl]
    simp [build7D, Fields.empty, hw']
theorem RoundTrip.vbcmp (a : XReg) (b c : VReg) (d : XReg) : RoundTrip.Statement (.vbcmp a b c d) := by
  intro h w hw he
  have hw' : (b.plain && c.plain) = true := hw
  simp only [Bool.and_eq_true] at hw'
  refine decode_of_fields he hw rfl ⟨rfl, rfl⟩ rfl (by simp [Fields.empty]) (by simp [Fields.empty]) ?_ ?_
  · simp [Fits, ModFits, immBits_i, immBits_l, Fields.empty, a.code_lt, b.code_lt, c.code_lt, d.code_lt, (show Ty.b8.code = 16 from rfl), hw']
  · rw [build_7D rfl]
    simp [build7D, Fields.empty, hw']
theorem RoundTrip.vmov (a b : VReg) : RoundTrip.Statement (.vmov a b) := by
  intro h w hw he
  have hw' : (a.plain && b.plain) = true := hw
  simp only [Bool.and_eq_true] at hw'
  refine decode_of_fields he hw rfl ⟨rfl, rfl⟩ rfl (by simp [Fields.empty]) (by simp [Fields.empty]) ?_ ?_
  · simp [Fits, ModFits, immBits_i, immBits_l, Fields.empty, a.code_lt, b.code_lt, (show Ty.b64.code = 19 from rfl), hw']
  · rw [build_7E rfl]
    simp [build7E, Fields.empty, hw']
theorem RoundTrip.vins (ty : Ty) (a : VReg) (b c : XReg) : RoundTrip.Statement (.vins ty a b c) := by
  intro h w hw he
  have hw' : (a.plain && (ty.isInt || ty.isFloat || ty.isRaw)) = true := hw
  simp only [Bool.and_eq_true] at hw'
  refine decode_of_fields he hw rfl ⟨rfl, rfl⟩ rfl (by simp [Fields.empty]) (by simp [Fields.empty]) ?_ ?_
  · simp [Fits, ModFits, immBits_i, immBits_l, Fields.empty, ty.code_lt, a.code_lt, b.code_lt, c.code_lt, hw']
  · rw [build_7E rfl]
    simp [build7E, Fields.empty, hw']
theorem RoundTrip.vext (ty : Ty) (a : XReg) (b : VReg) (c : XReg) : RoundTrip.Statement (.vext ty a b c) := by
  intro h w hw he
  have hw' : (b.plain && (ty.isInt || ty.isFloat || ty.isRaw)) = true := hw
  simp only [Bool.and_eq_true] at hw'
  refine decode_of_fields he hw rfl ⟨rfl, rfl⟩ rfl (by simp [Fields.empty]) (by simp [Fields.empty]) ?_ ?_
  · simp [Fits, ModFits, immBits_i, immBits_l, Fields.empty, ty.code_lt, a.code_lt, b.code_lt, c.code_lt, hw']
  · rw [build_7E rfl]
    simp [build7E, Fields.empty, hw']
theorem RoundTrip.mma (ty ty2 : Ty) (a : AReg) (b c d : XReg) : RoundTrip.Statement (.mma ty ty2 a b c d) := by
  intro h w hw he
  have hw' : ((accOk ty ty2 && tileOk (ty == .f64) a)) = true := hw
  simp only [Bool.and_eq_true] at hw'
  refine decode_of_fields he hw rfl ⟨rfl, rfl⟩ rfl (by simp [Fields.empty]) (by simp [Fields.empty]) ?_ ?_
  · simp [Fits, ModFits, immBits_i, immBits_l, Fields.empty, ty.code_lt, ty2.code_lt, bv_lt a 128, b.code_lt, c.code_lt, d.code_lt, hw']
  · rw [build_A0 rfl]
    simp [buildA0, Fields.empty, hw']
theorem RoundTrip.mmas (ty2 : Ty) (a : AReg) (b c d e : XReg) (imm : BitVec 18) : RoundTrip.Statement (.mmas ty2 a b c d e imm) := by
  intro h w hw he
  have hw' : (h.extended && (accOk .f32 ty2 && imm.toNat < 4)) = true := hw
  simp only [Bool.and_eq_true] at hw'
  refine decode_of_fields he hw rfl ⟨rfl, rfl⟩ rfl (by simp [Fields.empty]) (by simp [Fields.empty]) ?_ ?_
  · simp [Fits, ModFits, immBits_i, immBits_l, Fields.empty, ty2.code_lt, bv_lt a 128, b.code_lt, c.code_lt, d.code_lt, e.code_lt, bv_lt imm 262144, (show Ty.f32.code = 9 from rfl), Hdr.extended_ne, hw']
  · rw [build_A1 rfl]
    simp [buildA1, Fields.empty, hw']
theorem RoundTrip.mmt (ty : Ty) (a : AReg) (b c d e f : XReg) (imm : BitVec 18) : RoundTrip.Statement (.mmt ty a b c d e f imm) := by
  intro h w hw he
  have hw' : (h.extended && ((ty == .f32 || ty == .f64) && tileOk (ty == .f64) a && imm.toNat < 2048)) = true := hw
  simp only [Bool.and_eq_true] at hw'
  refine decode_of_fields he hw rfl ⟨rfl, rfl⟩ rfl (by simp [Fields.empty]) (by simp [Fields.empty]) ?_ ?_
  · simp [Fits, ModFits, immBits_i, immBits_l, Fields.empty, ty.code_lt, bv_lt a 128, b.code_lt, c.code_lt, d.code_lt, e.code_lt, f.code_lt, bv_lt imm 262144, Hdr.extended_ne, hw']
  · rw [build_A2 rfl]
    simp [buildA2, Fields.empty, hw']
theorem RoundTrip.azero (a : AReg) : RoundTrip.Statement (.azero a) := by
  intro h w hw he
  refine decode_of_fields he hw rfl ⟨rfl, rfl⟩ rfl (by simp [Fields.empty]) (by simp [Fields.empty]) ?_ ?_
  · simp [Fits, ModFits, immBits_i, immBits_l, Fields.empty, bv_lt a 128]
  · rw [build_A3 rfl]
    simp [buildA3, Fields.empty]
theorem RoundTrip.aspill (a : XReg) (b : AReg) : RoundTrip.Statement (.aspill a b) := by
  intro h w hw he
  refine decode_of_fields he hw rfl ⟨rfl, rfl⟩ rfl (by simp [Fields.empty]) (by simp [Fields.empty]) ?_ ?_
  · simp [Fits, ModFits, immBits_i, immBits_l, Fields.empty, a.code_lt, bv_lt b 128]
  · rw [build_A3 rfl]
    simp [buildA3, Fields.empty]
theorem RoundTrip.afill (a : AReg) (b : XReg) : RoundTrip.Statement (.afill a b) := by
  intro h w hw he
  refine decode_of_fields he hw rfl ⟨rfl, rfl⟩ rfl (by simp [Fields.empty]) (by simp [Fields.empty]) ?_ ?_
  · simp [Fits, ModFits, immBits_i, immBits_l, Fields.empty, bv_lt a 128, b.code_lt]
  · rw [build_A3 rfl]
    simp [buildA3, Fields.empty]
theorem RoundTrip.aadd (ty : Ty) (rm : Rm) (a b c : AReg) : RoundTrip.Statement (.aadd ty rm a b c) := by
  intro h w hw he
  have hw' : (((ty == .f32 || ty == .f64) && tileOk (ty == .f64) a && tileOk (ty == .f64) b && tileOk (ty == .f64) c)) = true := hw
  simp only [Bool.and_eq_true] at hw'
  refine decode_of_fields he hw rfl ⟨rfl, rfl⟩ rfl (by simp [Fields.empty]) (by simp [Fields.empty]) ?_ ?_
  · simp [Fits, ModFits, immBits_i, immBits_l, Fields.empty, ty.code_lt, rm.code_lt, bv_lt a 128, bv_lt b 128, bv_lt c 128, hw']
  · rw [build_A3 rfl]
    simp [buildA3, Fields.empty, hw']
theorem RoundTrip.aread (ty : Ty) (pair : Bool) (rm : Rm) (a : VReg) (b : AReg) (c d : XReg) : RoundTrip.Statement (.aread ty pair rm a b c d) := by
  intro h w hw he
  have hw' : (a.plain && (areadOk ty pair d && tileOk pair b)) = true := hw
  simp only [Bool.and_eq_true] at hw'
  refine decode_of_fields he hw rfl ⟨rfl, rfl⟩ rfl (by simp [Fields.empty]) (by simp [Fields.empty]) ?_ ?_
  · simp [Fits, ModFits, immBits_i, immBits_l, Fields.empty, ty.code_lt, rm.code_lt, a.code_lt, bv_lt b 128, c.code_lt, d.code_lt, pair_lt, hw']
  · rw [build_A3 rfl]
    simp [buildA3, Fields.empty, hw']
theorem RoundTrip.skset (b c : XReg) : RoundTrip.Statement (.skset b c) := by
  intro h w hw he
  refine decode_of_fields he hw rfl ⟨rfl, rfl⟩ rfl (by simp [Fields.empty]) (by simp [Fields.empty]) ?_ ?_
  · simp [Fits, ModFits, immBits_i, immBits_l, Fields.empty, b.code_lt, c.code_lt]
  · rw [build_A4 rfl]
    simp [buildA4, Fields.empty]
theorem RoundTrip.skget (a : XReg) : RoundTrip.Statement (.skget a) := by
  intro h w hw he
  refine decode_of_fields he hw rfl ⟨rfl, rfl⟩ rfl (by simp [Fields.empty]) (by simp [Fields.empty]) ?_ ?_
  · simp [Fits, ModFits, immBits_i, immBits_l, Fields.empty, a.code_lt]
  · rw [build_A4 rfl]
    simp [buildA4, Fields.empty]
theorem RoundTrip.topk (ty : Ty) (a b c d : XReg) : RoundTrip.Statement (.topk ty a b c d) := by
  intro h w hw he
  refine decode_of_fields he hw rfl ⟨rfl, rfl⟩ rfl (by simp [Fields.empty]) (by simp [Fields.empty]) ?_ ?_
  · simp [Fits, ModFits, immBits_i, immBits_l, Fields.empty, ty.code_lt, a.code_lt, b.code_lt, c.code_lt, d.code_lt]
  · rw [build_A5 rfl]
    simp [buildA5, Fields.empty]
theorem RoundTrip.mvh (ty ty2 : Ty) (a : AReg) (b c d e : XReg) (imm : BitVec 18) : RoundTrip.Statement (.mvh ty ty2 a b c d e imm) := by
  intro h w hw he
  have hw' : (h.extended && (accOk ty ty2 && tileOk (ty == .f64) a && imm.toNat < 512)) = true := hw
  simp only [Bool.and_eq_true] at hw'
  refine decode_of_fields he hw rfl ⟨rfl, rfl⟩ rfl (by simp [Fields.empty]) (by simp [Fields.empty]) ?_ ?_
  · simp [Fits, ModFits, immBits_i, immBits_l, Fields.empty, ty.code_lt, ty2.code_lt, bv_lt a 128, b.code_lt, c.code_lt, d.code_lt, e.code_lt, bv_lt imm 262144, Hdr.extended_ne, hw']
  · rw [build_A6 rfl]
    simp [buildA6, Fields.empty, hw']
theorem RoundTrip.sbld (b c : XReg) : RoundTrip.Statement (.sbld b c) := by
  intro h w hw he
  refine decode_of_fields he hw rfl ⟨rfl, rfl⟩ rfl (by simp [Fields.empty]) (by simp [Fields.empty]) ?_ ?_
  · simp [Fits, ModFits, immBits_i, immBits_l, Fields.empty, b.code_lt, c.code_lt]
  · rw [build_A7 rfl]
    simp [buildA7, Fields.empty]
theorem RoundTrip.sbst (b c : XReg) : RoundTrip.Statement (.sbst b c) := by
  intro h w hw he
  refine decode_of_fields he hw rfl ⟨rfl, rfl⟩ rfl (by simp [Fields.empty]) (by simp [Fields.empty]) ?_ ?_
  · simp [Fits, ModFits, immBits_i, immBits_l, Fields.empty, b.code_lt, c.code_lt]
  · rw [build_A7 rfl]
    simp [buildA7, Fields.empty]
theorem RoundTrip.sopen (ty : Ty) (a : SReg) (b : XReg) : RoundTrip.Statement (.sopen ty a b) := by
  intro h w hw he
  refine decode_of_fields he hw rfl ⟨rfl, rfl⟩ rfl (by simp [Fields.empty]) (by simp [Fields.empty]) ?_ ?_
  · simp [Fits, ModFits, immBits_i, immBits_l, Fields.empty, ty.code_lt, sreg_lt a, b.code_lt]
  · rw [build_C0 rfl]
    simp [buildC0, Fields.empty]
theorem RoundTrip.sadv (a : SReg) (b : XReg) : RoundTrip.Statement (.sadv a b) := by
  intro h w hw he
  refine decode_of_fields he hw rfl ⟨rfl, rfl⟩ rfl (by simp [Fields.empty]) (by simp [Fields.empty]) ?_ ?_
  · simp [Fits, ModFits, immBits_i, immBits_l, Fields.empty, sreg_lt a, b.code_lt]
  · rw [build_C0 rfl]
    simp [buildC0, Fields.empty]
theorem RoundTrip.stend (a : PReg) (b : SReg) : RoundTrip.Statement (.stend a b) := by
  intro h w hw he
  refine decode_of_fields he hw rfl ⟨rfl, rfl⟩ rfl (by simp [Fields.empty]) (by simp [Fields.empty]) ?_ ?_
  · simp [Fits, ModFits, immBits_i, immBits_l, Fields.empty, bv_lt a 128, sreg_lt b]
  · rw [build_C0 rfl]
    simp [buildC0, Fields.empty]
theorem RoundTrip.sclose (a : SReg) : RoundTrip.Statement (.sclose a) := by
  intro h w hw he
  refine decode_of_fields he hw rfl ⟨rfl, rfl⟩ rfl (by simp [Fields.empty]) (by simp [Fields.empty]) ?_ ?_
  · simp [Fits, ModFits, immBits_i, immBits_l, Fields.empty, sreg_lt a]
  · rw [build_C0 rfl]
    simp [buildC0, Fields.empty]
theorem RoundTrip.fopen (ty : Ty) (a : SReg) (b : XReg) : RoundTrip.Statement (.fopen ty a b) := by
  intro h w hw he
  refine decode_of_fields he hw rfl ⟨rfl, rfl⟩ rfl (by simp [Fields.empty]) (by simp [Fields.empty]) ?_ ?_
  · simp [Fits, ModFits, immBits_i, immBits_l, Fields.empty, ty.code_lt, sreg_lt a, b.code_lt]
  · rw [build_C0 rfl]
    simp [buildC0, Fields.empty]
theorem RoundTrip.cpyLl (a : CReg) (b c d e : XReg) (imm : BitVec 18) : RoundTrip.Statement (.cpyLl a b c d e imm) := by
  intro h w hw he
  have hw' : (h.extended && wpOk e imm) = true := hw
  simp only [Bool.and_eq_true] at hw'
  refine decode_of_fields he hw rfl ⟨rfl, rfl⟩ rfl (by simp [Fields.empty]) (by simp [Fields.empty]) ?_ ?_
  · simp [Fits, ModFits, immBits_i, immBits_l, Fields.empty, bv_lt a 128, b.code_lt, c.code_lt, d.code_lt, e.code_lt, bv_lt imm 262144, Hdr.extended_ne, hw']
  · rw [build_C1 rfl]
    simp [buildC1, Fields.empty, hw']
theorem RoundTrip.cpyGl (a : CReg) (b c d e : XReg) (imm : BitVec 18) : RoundTrip.Statement (.cpyGl a b c d e imm) := by
  intro h w hw he
  have hw' : (h.extended && wpOk e imm) = true := hw
  simp only [Bool.and_eq_true] at hw'
  refine decode_of_fields he hw rfl ⟨rfl, rfl⟩ rfl (by simp [Fields.empty]) (by simp [Fields.empty]) ?_ ?_
  · simp [Fits, ModFits, immBits_i, immBits_l, Fields.empty, bv_lt a 128, b.code_lt, c.code_lt, d.code_lt, e.code_lt, bv_lt imm 262144, Hdr.extended_ne, hw']
  · rw [build_C1 rfl]
    simp [buildC1, Fields.empty, hw']
theorem RoundTrip.cpyLg (ty : Ty) (op : MOp) (t : Bool) (a : CReg) (b c d e : XReg) (imm : BitVec 18) : RoundTrip.Statement (.cpyLg ty op t a b c d e imm) := by
  intro h w hw he
  have hw' : (h.extended && (storeOk ty op t && ty != .b128 && wpOk e imm)) = true := hw
  simp only [Bool.and_eq_true] at hw'
  refine decode_of_fields he hw rfl ⟨rfl, rfl⟩ rfl (by simp [Fields.empty]) (by simp [Fields.empty]) ?_ ?_
  · simp [Fits, ModFits, immBits_i, immBits_l, Fields.empty, ty.code_lt, op.code_lt, bv_lt a 128, b.code_lt, c.code_lt, d.code_lt, e.code_lt, bv_lt imm 262144, Hdr.extended_ne, hw']
  · rw [build_C1 rfl]
    simp [buildC1, Fields.empty, hw']
theorem RoundTrip.cpyDist (a : CReg) (c d e : XReg) (imm : BitVec 18) : RoundTrip.Statement (.cpyDist a c d e imm) := by
  intro h w hw he
  have hw' : (h.extended && wpOk e imm) = true := hw
  simp only [Bool.and_eq_true] at hw'
  refine decode_of_fields he hw rfl ⟨rfl, rfl⟩ rfl (by simp [Fields.empty]) (by simp [Fields.empty]) ?_ ?_
  · simp [Fits, ModFits, immBits_i, immBits_l, Fields.empty, bv_lt a 128, c.code_lt, d.code_lt, e.code_lt, bv_lt imm 262144, Hdr.extended_ne, hw']
  · rw [build_C1 rfl]
    simp [buildC1, Fields.empty, hw']
theorem RoundTrip.cpwp (a : XReg) (b : CReg) : RoundTrip.Statement (.cpwp a b) := by
  intro h w hw he
  refine decode_of_fields he hw rfl ⟨rfl, rfl⟩ rfl (by simp [Fields.empty]) (by simp [Fields.empty]) ?_ ?_
  · simp [Fits, ModFits, immBits_i, immBits_l, Fields.empty, a.code_lt, bv_lt b 128]
  · rw [build_C2 rfl]
    simp [buildC2, Fields.empty]
theorem RoundTrip.cpwait (a : XReg) (b : CReg) : RoundTrip.Statement (.cpwait a b) := by
  intro h w hw he
  refine decode_of_fields he hw rfl ⟨rfl, rfl⟩ rfl (by simp [Fields.empty]) (by simp [Fields.empty]) ?_ ?_
  · simp [Fits, ModFits, immBits_i, immBits_l, Fields.empty, a.code_lt, bv_lt b 128]
  · rw [build_C2 rfl]
    simp [buildC2, Fields.empty]
theorem RoundTrip.dpat (b : CReg) (c : XReg) : RoundTrip.Statement (.dpat b c) := by
  intro h w hw he
  refine decode_of_fields he hw rfl ⟨rfl, rfl⟩ rfl (by simp [Fields.empty]) (by simp [Fields.empty]) ?_ ?_
  · simp [Fits, ModFits, immBits_i, immBits_l, Fields.empty, bv_lt b 128, c.code_lt]
  · rw [build_C2 rfl]
    simp [buildC2, Fields.empty]
theorem RoundTrip.get (a b c d e : XReg) : RoundTrip.Statement (.get a b c d e) := by
  intro h w hw he
  have hw' : (h.extended) = true := hw
  refine decode_of_fields he hw rfl ⟨rfl, rfl⟩ rfl (by simp [Fields.empty]) (by simp [Fields.empty]) ?_ ?_
  · simp [Fits, ModFits, immBits_i, immBits_l, Fields.empty, a.code_lt, b.code_lt, c.code_lt, d.code_lt, e.code_lt, Hdr.extended_ne, hw']
  · rw [build_C3 rfl]
    simp [buildC3, Fields.empty, hw']
theorem RoundTrip.put (ty : Ty) (op : MOp) (a b c d e : XReg) : RoundTrip.Statement (.put ty op a b c d e) := by
  intro h w hw he
  have hw' : (h.extended && (storeOk ty op false && ty != .b128)) = true := hw
  simp only [Bool.and_eq_true] at hw'
  refine decode_of_fields he hw rfl ⟨rfl, rfl⟩ rfl (by simp [Fields.empty]) (by simp [Fields.empty]) ?_ ?_
  · simp [Fits, ModFits, immBits_i, immBits_l, Fields.empty, ty.code_lt, op.code_lt, a.code_lt, b.code_lt, c.code_lt, d.code_lt, e.code_lt, Hdr.extended_ne, hw']
  · rw [build_C3 rfl]
    simp [buildC3, Fields.empty, hw']
theorem RoundTrip.coll (ty : Ty) (op : MOp) (a b c d e f : XReg) : RoundTrip.Statement (.coll ty op a b c d e f) := by
  intro h w hw he
  have hw' : (h.extended && collOk ty op) = true := hw
  simp only [Bool.and_eq_true] at hw'
  refine decode_of_fields he hw rfl ⟨rfl, rfl⟩ rfl (by simp [Fields.empty]) (by simp [Fields.empty]) ?_ ?_
  · simp [Fits, ModFits, immBits_i, immBits_l, Fields.empty, ty.code_lt, op.code_lt, a.code_lt, b.code_lt, c.code_lt, d.code_lt, e.code_lt, f.code_lt, Hdr.extended_ne, hw']
  · rw [build_C4 rfl]
    simp [buildC4, Fields.empty, hw']
theorem RoundTrip.post (a b c : XReg) : RoundTrip.Statement (.post a b c) := by
  intro h w hw he
  have hw' : (h.extended) = true := hw
  refine decode_of_fields he hw rfl ⟨rfl, rfl⟩ rfl (by simp [Fields.empty]) (by simp [Fields.empty]) ?_ ?_
  · simp [Fits, ModFits, immBits_i, immBits_l, Fields.empty, a.code_lt, b.code_lt, c.code_lt, Hdr.extended_ne, hw']
  · rw [build_D1 rfl]
    simp [buildD1, Fields.empty, hw']
theorem RoundTrip.spawn (a b c : XReg) : RoundTrip.Statement (.spawn a b c) := by
  intro h w hw he
  have hw' : (h.extended) = true := hw
  refine decode_of_fields he hw rfl ⟨rfl, rfl⟩ rfl (by simp [Fields.empty]) (by simp [Fields.empty]) ?_ ?_
  · simp [Fits, ModFits, immBits_i, immBits_l, Fields.empty, a.code_lt, b.code_lt, c.code_lt, Hdr.extended_ne, hw']
  · rw [build_D1 rfl]
    simp [buildD1, Fields.empty, hw']
theorem RoundTrip.ctwait (b : XReg) : RoundTrip.Statement (.ctwait b) := by
  intro h w hw he
  refine decode_of_fields he hw rfl ⟨rfl, rfl⟩ rfl (by simp [Fields.empty]) (by simp [Fields.empty]) ?_ ?_
  · simp [Fits, ModFits, immBits_i, immBits_l, Fields.empty, b.code_lt]
  · rw [build_D2 rfl]
    simp [buildD2, Fields.empty]
theorem RoundTrip.ctadd (b c d : XReg) : RoundTrip.Statement (.ctadd b c d) := by
  intro h w hw he
  refine decode_of_fields he hw rfl ⟨rfl, rfl⟩ rfl (by simp [Fields.empty]) (by simp [Fields.empty]) ?_ ?_
  · simp [Fits, ModFits, immBits_i, immBits_l, Fields.empty, b.code_lt, c.code_lt, d.code_lt]
  · rw [build_D2 rfl]
    simp [buildD2, Fields.empty]
theorem RoundTrip.ctcancel (b : XReg) : RoundTrip.Statement (.ctcancel b) := by
  intro h w hw he
  refine decode_of_fields he hw rfl ⟨rfl, rfl⟩ rfl (by simp [Fields.empty]) (by simp [Fields.empty]) ?_ ?_
  · simp [Fits, ModFits, immBits_i, immBits_l, Fields.empty, b.code_lt]
  · rw [build_D2 rfl]
    simp [buildD2, Fields.empty]
theorem RoundTrip.ctread (a b c : XReg) : RoundTrip.Statement (.ctread a b c) := by
  intro h w hw he
  refine decode_of_fields he hw rfl ⟨rfl, rfl⟩ rfl (by simp [Fields.empty]) (by simp [Fields.empty]) ?_ ?_
  · simp [Fits, ModFits, immBits_i, immBits_l, Fields.empty, a.code_lt, b.code_lt, c.code_lt]
  · rw [build_D2 rfl]
    simp [buildD2, Fields.empty]
theorem RoundTrip.msend (b c d : XReg) : RoundTrip.Statement (.msend b c d) := by
  intro h w hw he
  refine decode_of_fields he hw rfl ⟨rfl, rfl⟩ rfl (by simp [Fields.empty]) (by simp [Fields.empty]) ?_ ?_
  · simp [Fits, ModFits, immBits_i, immBits_l, Fields.empty, b.code_lt, c.code_lt, d.code_lt]
  · rw [build_D3 rfl]
    simp [buildD3, Fields.empty]
theorem RoundTrip.mrecv (a b c : XReg) : RoundTrip.Statement (.mrecv a b c) := by
  intro h w hw he
  refine decode_of_fields he hw rfl ⟨rfl, rfl⟩ rfl (by simp [Fields.empty]) (by simp [Fields.empty]) ?_ ?_
  · simp [Fits, ModFits, immBits_i, immBits_l, Fields.empty, a.code_lt, b.code_lt, c.code_lt]
  · rw [build_D3 rfl]
    simp [buildD3, Fields.empty]
theorem RoundTrip.fqrd (a b : XReg) : RoundTrip.Statement (.fqrd a b) := by
  intro h w hw he
  refine decode_of_fields he hw rfl ⟨rfl, rfl⟩ rfl (by simp [Fields.empty]) (by simp [Fields.empty]) ?_ ?_
  · simp [Fits, ModFits, immBits_i, immBits_l, Fields.empty, a.code_lt, b.code_lt]
  · rw [build_D4 rfl]
    simp [buildD4, Fields.empty]
theorem RoundTrip.mset (a : MReg) (b : XReg) : RoundTrip.Statement (.mset a b) := by
  intro h w hw he
  refine decode_of_fields he hw rfl ⟨rfl, rfl⟩ rfl (by simp [Fields.empty]) (by simp [Fields.empty]) ?_ ?_
  · simp [Fits, ModFits, immBits_i, immBits_l, Fields.empty, bv_lt a 128, b.code_lt]
  · rw [build_D5 rfl]
    simp [buildD5, Fields.empty]
theorem RoundTrip.mref (a : MReg) (b c : XReg) : RoundTrip.Statement (.mref a b c) := by
  intro h w hw he
  refine decode_of_fields he hw rfl ⟨rfl, rfl⟩ rfl (by simp [Fields.empty]) (by simp [Fields.empty]) ?_ ?_
  · simp [Fits, ModFits, immBits_i, immBits_l, Fields.empty, bv_lt a 128, b.code_lt, c.code_lt]
  · rw [build_D5 rfl]
    simp [buildD5, Fields.empty]
theorem RoundTrip.mclr (a : MReg) : RoundTrip.Statement (.mclr a) := by
  intro h w hw he
  refine decode_of_fields he hw rfl ⟨rfl, rfl⟩ rfl (by simp [Fields.empty]) (by simp [Fields.empty]) ?_ ?_
  · simp [Fits, ModFits, immBits_i, immBits_l, Fields.empty, bv_lt a 128]
  · rw [build_D5 rfl]
    simp [buildD5, Fields.empty]
theorem RoundTrip.mrd (a : XReg) (b : MReg) (c : XReg) : RoundTrip.Statement (.mrd a b c) := by
  intro h w hw he
  refine decode_of_fields he hw rfl ⟨rfl, rfl⟩ rfl (by simp [Fields.empty]) (by simp [Fields.empty]) ?_ ?_
  · simp [Fits, ModFits, immBits_i, immBits_l, Fields.empty, a.code_lt, bv_lt b 128, c.code_lt]
  · rw [build_D5 rfl]
    simp [buildD5, Fields.empty]
theorem RoundTrip.hset (a : HReg) (b c : XReg) : RoundTrip.Statement (.hset a b c) := by
  intro h w hw he
  refine decode_of_fields he hw rfl ⟨rfl, rfl⟩ rfl (by simp [Fields.empty]) (by simp [Fields.empty]) ?_ ?_
  · simp [Fits, ModFits, immBits_i, immBits_l, Fields.empty, bv_lt a 128, b.code_lt, c.code_lt, (show Ty.f64.code = 8 from rfl)]
  · rw [build_D6 rfl]
    simp [buildD6, Fields.empty]
theorem RoundTrip.hmul (rm : Rm) (a : HReg) (b c : XReg) : RoundTrip.Statement (.hmul rm a b c) := by
  intro h w hw he
  refine decode_of_fields he hw rfl ⟨rfl, rfl⟩ rfl (by simp [Fields.empty]) (by simp [Fields.empty]) ?_ ?_
  · simp [Fits, ModFits, immBits_i, immBits_l, Fields.empty, rm.code_lt, bv_lt a 128, b.code_lt, c.code_lt, (show Ty.f64.code = 8 from rfl)]
  · rw [build_D6 rfl]
    simp [buildD6, Fields.empty]
theorem RoundTrip.hdiv (rm : Rm) (a : HReg) (b c : XReg) : RoundTrip.Statement (.hdiv rm a b c) := by
  intro h w hw he
  refine decode_of_fields he hw rfl ⟨rfl, rfl⟩ rfl (by simp [Fields.empty]) (by simp [Fields.empty]) ?_ ?_
  · simp [Fits, ModFits, immBits_i, immBits_l, Fields.empty, rm.code_lt, bv_lt a 128, b.code_lt, c.code_lt, (show Ty.f64.code = 8 from rfl)]
  · rw [build_D6 rfl]
    simp [buildD6, Fields.empty]
theorem RoundTrip.hprod (rm : Rm) (a b c : HReg) : RoundTrip.Statement (.hprod rm a b c) := by
  intro h w hw he
  refine decode_of_fields he hw rfl ⟨rfl, rfl⟩ rfl (by simp [Fields.empty]) (by simp [Fields.empty]) ?_ ?_
  · simp [Fits, ModFits, immBits_i, immBits_l, Fields.empty, rm.code_lt, bv_lt a 128, bv_lt b 128, bv_lt c 128, (show Ty.f64.code = 8 from rfl)]
  · rw [build_D6 rfl]
    simp [buildD6, Fields.empty]
theorem RoundTrip.hscale (a : HReg) (b : XReg) : RoundTrip.Statement (.hscale a b) := by
  intro h w hw he
  refine decode_of_fields he hw rfl ⟨rfl, rfl⟩ rfl (by simp [Fields.empty]) (by simp [Fields.empty]) ?_ ?_
  · simp [Fits, ModFits, immBits_i, immBits_l, Fields.empty, bv_lt a 128, b.code_lt, (show Ty.f64.code = 8 from rfl)]
  · rw [build_D6 rfl]
    simp [buildD6, Fields.empty]
theorem RoundTrip.hrd (rm : Rm) (a : XReg) (b : HReg) (c : XReg) : RoundTrip.Statement (.hrd rm a b c) := by
  intro h w hw he
  refine decode_of_fields he hw rfl ⟨rfl, rfl⟩ rfl (by simp [Fields.empty]) (by simp [Fields.empty]) ?_ ?_
  · simp [Fits, ModFits, immBits_i, immBits_l, Fields.empty, rm.code_lt, a.code_lt, bv_lt b 128, c.code_lt, (show Ty.f64.code = 8 from rfl)]
  · rw [build_D6 rfl]
    simp [buildD6, Fields.empty]
theorem RoundTrip.hwr (rm : Rm) (a : HReg) (b c : XReg) : RoundTrip.Statement (.hwr rm a b c) := by
  intro h w hw he
  refine decode_of_fields he hw rfl ⟨rfl, rfl⟩ rfl (by simp [Fields.empty]) (by simp [Fields.empty]) ?_ ?_
  · simp [Fits, ModFits, immBits_i, immBits_l, Fields.empty, rm.code_lt, bv_lt a 128, b.code_lt, c.code_lt, (show Ty.f64.code = 8 from rfl)]
  · rw [build_D6 rfl]
    simp [buildD6, Fields.empty]
theorem RoundTrip.hdeg (a : HReg) (b : XReg) : RoundTrip.Statement (.hdeg a b) := by
  intro h w hw he
  refine decode_of_fields he hw rfl ⟨rfl, rfl⟩ rfl (by simp [Fields.empty]) (by simp [Fields.empty]) ?_ ?_
  · simp [Fits, ModFits, immBits_i, immBits_l, Fields.empty, bv_lt a 128, b.code_lt, (show Ty.f64.code = 8 from rfl)]
  · rw [build_D6 rfl]
    simp [buildD6, Fields.empty]
theorem RoundTrip.svCtab (b c d : XReg) : RoundTrip.Statement (.svCtab b c d) := by
  intro h w hw he
  refine decode_of_fields he hw rfl ⟨rfl, rfl⟩ rfl (by simp [Fields.empty]) (by simp [Fields.empty]) ?_ ?_
  · simp [Fits, ModFits, immBits_i, immBits_l, Fields.empty, b.code_lt, c.code_lt, d.code_lt]
  · rw [build_E0 rfl]
    simp [buildE0, Fields.empty]
theorem RoundTrip.svQrec (b c : XReg) : RoundTrip.Statement (.svQrec b c) := by
  intro h w hw he
  refine decode_of_fields he hw rfl ⟨rfl, rfl⟩ rfl (by simp [Fields.empty]) (by simp [Fields.empty]) ?_ ?_
  · simp [Fits, ModFits, immBits_i, immBits_l, Fields.empty, b.code_lt, c.code_lt]
  · rw [build_E0 rfl]
    simp [buildE0, Fields.empty]
theorem RoundTrip.svQprio (b c : XReg) : RoundTrip.Statement (.svQprio b c) := by
  intro h w hw he
  refine decode_of_fields he hw rfl ⟨rfl, rfl⟩ rfl (by simp [Fields.empty]) (by simp [Fields.empty]) ?_ ?_
  · simp [Fits, ModFits, immBits_i, immBits_l, Fields.empty, b.code_lt, c.code_lt]
  · rw [build_E0 rfl]
    simp [buildE0, Fields.empty]
theorem RoundTrip.svGstart (b c : XReg) : RoundTrip.Statement (.svGstart b c) := by
  intro h w hw he
  refine decode_of_fields he hw rfl ⟨rfl, rfl⟩ rfl (by simp [Fields.empty]) (by simp [Fields.empty]) ?_ ?_
  · simp [Fits, ModFits, immBits_i, immBits_l, Fields.empty, b.code_lt, c.code_lt]
  · rw [build_E0 rfl]
    simp [buildE0, Fields.empty]
theorem RoundTrip.svTeardown (b : XReg) : RoundTrip.Statement (.svTeardown b) := by
  intro h w hw he
  refine decode_of_fields he hw rfl ⟨rfl, rfl⟩ rfl (by simp [Fields.empty]) (by simp [Fields.empty]) ?_ ?_
  · simp [Fits, ModFits, immBits_i, immBits_l, Fields.empty, b.code_lt]
  · rw [build_E0 rfl]
    simp [buildE0, Fields.empty]
theorem RoundTrip.svRht (b c : XReg) : RoundTrip.Statement (.svRht b c) := by
  intro h w hw he
  refine decode_of_fields he hw rfl ⟨rfl, rfl⟩ rfl (by simp [Fields.empty]) (by simp [Fields.empty]) ?_ ?_
  · simp [Fits, ModFits, immBits_i, immBits_l, Fields.empty, b.code_lt, c.code_lt]
  · rw [build_E0 rfl]
    simp [buildE0, Fields.empty]
theorem RoundTrip.svDph (b c : XReg) : RoundTrip.Statement (.svDph b c) := by
  intro h w hw he
  refine decode_of_fields he hw rfl ⟨rfl, rfl⟩ rfl (by simp [Fields.empty]) (by simp [Fields.empty]) ?_ ?_
  · simp [Fits, ModFits, immBits_i, immBits_l, Fields.empty, b.code_lt, c.code_lt]
  · rw [build_E0 rfl]
    simp [buildE0, Fields.empty]
theorem RoundTrip.svPtbr (b c : XReg) : RoundTrip.Statement (.svPtbr b c) := by
  intro h w hw he
  refine decode_of_fields he hw rfl ⟨rfl, rfl⟩ rfl (by simp [Fields.empty]) (by simp [Fields.empty]) ?_ ?_
  · simp [Fits, ModFits, immBits_i, immBits_l, Fields.empty, b.code_lt, c.code_lt]
  · rw [build_E0 rfl]
    simp [buildE0, Fields.empty]
theorem RoundTrip.svPtw (b c : XReg) : RoundTrip.Statement (.svPtw b c) := by
  intro h w hw he
  refine decode_of_fields he hw rfl ⟨rfl, rfl⟩ rfl (by simp [Fields.empty]) (by simp [Fields.empty]) ?_ ?_
  · simp [Fits, ModFits, immBits_i, immBits_l, Fields.empty, b.code_lt, c.code_lt]
  · rw [build_E0 rfl]
    simp [buildE0, Fields.empty]
theorem RoundTrip.svTinv (b c : XReg) : RoundTrip.Statement (.svTinv b c) := by
  intro h w hw he
  refine decode_of_fields he hw rfl ⟨rfl, rfl⟩ rfl (by simp [Fields.empty]) (by simp [Fields.empty]) ?_ ?_
  · simp [Fits, ModFits, immBits_i, immBits_l, Fields.empty, b.code_lt, c.code_lt]
  · rw [build_E0 rfl]
    simp [buildE0, Fields.empty]
theorem RoundTrip.svPres (b c : XReg) : RoundTrip.Statement (.svPres b c) := by
  intro h w hw he
  refine decode_of_fields he hw rfl ⟨rfl, rfl⟩ rfl (by simp [Fields.empty]) (by simp [Fields.empty]) ?_ ?_
  · simp [Fits, ModFits, immBits_i, immBits_l, Fields.empty, b.code_lt, c.code_lt]
  · rw [build_E0 rfl]
    simp [buildE0, Fields.empty]
theorem RoundTrip.svPref (b c : XReg) : RoundTrip.Statement (.svPref b c) := by
  intro h w hw he
  refine decode_of_fields he hw rfl ⟨rfl, rfl⟩ rfl (by simp [Fields.empty]) (by simp [Fields.empty]) ?_ ?_
  · simp [Fits, ModFits, immBits_i, immBits_l, Fields.empty, b.code_lt, c.code_lt]
  · rw [build_E0 rfl]
    simp [buildE0, Fields.empty]
theorem RoundTrip.svMigr (b c d : XReg) : RoundTrip.Statement (.svMigr b c d) := by
  intro h w hw he
  refine decode_of_fields he hw rfl ⟨rfl, rfl⟩ rfl (by simp [Fields.empty]) (by simp [Fields.empty]) ?_ ?_
  · simp [Fits, ModFits, immBits_i, immBits_l, Fields.empty, b.code_lt, c.code_lt, d.code_lt]
  · rw [build_E0 rfl]
    simp [buildE0, Fields.empty]
theorem RoundTrip.svHint (b c d : XReg) : RoundTrip.Statement (.svHint b c d) := by
  intro h w hw he
  refine decode_of_fields he hw rfl ⟨rfl, rfl⟩ rfl (by simp [Fields.empty]) (by simp [Fields.empty]) ?_ ?_
  · simp [Fits, ModFits, immBits_i, immBits_l, Fields.empty, b.code_lt, c.code_lt, d.code_lt]
  · rw [build_E0 rfl]
    simp [buildE0, Fields.empty]
theorem RoundTrip.svFq (b c d : XReg) : RoundTrip.Statement (.svFq b c d) := by
  intro h w hw he
  refine decode_of_fields he hw rfl ⟨rfl, rfl⟩ rfl (by simp [Fields.empty]) (by simp [Fields.empty]) ?_ ?_
  · simp [Fits, ModFits, immBits_i, immBits_l, Fields.empty, b.code_lt, c.code_lt, d.code_lt]
  · rw [build_E0 rfl]
    simp [buildE0, Fields.empty]
theorem RoundTrip.svSfq (b c : XReg) : RoundTrip.Statement (.svSfq b c) := by
  intro h w hw he
  refine decode_of_fields he hw rfl ⟨rfl, rfl⟩ rfl (by simp [Fields.empty]) (by simp [Fields.empty]) ?_ ?_
  · simp [Fits, ModFits, immBits_i, immBits_l, Fields.empty, b.code_lt, c.code_lt]
  · rw [build_E0 rfl]
    simp [buildE0, Fields.empty]
theorem RoundTrip.svFlue (c : XReg) : RoundTrip.Statement (.svFlue c) := by
  intro h w hw he
  refine decode_of_fields he hw rfl ⟨rfl, rfl⟩ rfl (by simp [Fields.empty]) (by simp [Fields.empty]) ?_ ?_
  · simp [Fits, ModFits, immBits_i, immBits_l, Fields.empty, c.code_lt]
  · rw [build_E0 rfl]
    simp [buildE0, Fields.empty]
theorem RoundTrip.svVac (c d : XReg) : RoundTrip.Statement (.svVac c d) := by
  intro h w hw he
  refine decode_of_fields he hw rfl ⟨rfl, rfl⟩ rfl (by simp [Fields.empty]) (by simp [Fields.empty]) ?_ ?_
  · simp [Fits, ModFits, immBits_i, immBits_l, Fields.empty, c.code_lt, d.code_lt]
  · rw [build_E0 rfl]
    simp [buildE0, Fields.empty]
theorem RoundTrip.svVrel (b : XReg) : RoundTrip.Statement (.svVrel b) := by
  intro h w hw he
  refine decode_of_fields he hw rfl ⟨rfl, rfl⟩ rfl (by simp [Fields.empty]) (by simp [Fields.empty]) ?_ ?_
  · simp [Fits, ModFits, immBits_i, immBits_l, Fields.empty, b.code_lt]
  · rw [build_E0 rfl]
    simp [buildE0, Fields.empty]
theorem RoundTrip.svPdk (b c : XReg) : RoundTrip.Statement (.svPdk b c) := by
  intro h w hw he
  refine decode_of_fields he hw rfl ⟨rfl, rfl⟩ rfl (by simp [Fields.empty]) (by simp [Fields.empty]) ?_ ?_
  · simp [Fits, ModFits, immBits_i, immBits_l, Fields.empty, b.code_lt, c.code_lt]
  · rw [build_E0 rfl]
    simp [buildE0, Fields.empty]
theorem RoundTrip.svKill (b : XReg) : RoundTrip.Statement (.svKill b) := by
  intro h w hw he
  refine decode_of_fields he hw rfl ⟨rfl, rfl⟩ rfl (by simp [Fields.empty]) (by simp [Fields.empty]) ?_ ?_
  · simp [Fits, ModFits, immBits_i, immBits_l, Fields.empty, b.code_lt]
  · rw [build_E0 rfl]
    simp [buildE0, Fields.empty]
theorem RoundTrip.svPrel (b : XReg) : RoundTrip.Statement (.svPrel b) := by
  intro h w hw he
  refine decode_of_fields he hw rfl ⟨rfl, rfl⟩ rfl (by simp [Fields.empty]) (by simp [Fields.empty]) ?_ ?_
  · simp [Fits, ModFits, immBits_i, immBits_l, Fields.empty, b.code_lt]
  · rw [build_E0 rfl]
    simp [buildE0, Fields.empty]
theorem RoundTrip.svLspr (b c d : XReg) : RoundTrip.Statement (.svLspr b c d) := by
  intro h w hw he
  refine decode_of_fields he hw rfl ⟨rfl, rfl⟩ rfl (by simp [Fields.empty]) (by simp [Fields.empty]) ?_ ?_
  · simp [Fits, ModFits, immBits_i, immBits_l, Fields.empty, b.code_lt, c.code_lt, d.code_lt]
  · rw [build_E0 rfl]
    simp [buildE0, Fields.empty]
theorem RoundTrip.svSpb (b c : XReg) : RoundTrip.Statement (.svSpb b c) := by
  intro h w hw he
  refine decode_of_fields he hw rfl ⟨rfl, rfl⟩ rfl (by simp [Fields.empty]) (by simp [Fields.empty]) ?_ ?_
  · simp [Fits, ModFits, immBits_i, immBits_l, Fields.empty, b.code_lt, c.code_lt]
  · rw [build_E0 rfl]
    simp [buildE0, Fields.empty]
theorem RoundTrip.svHtab (b c d : XReg) : RoundTrip.Statement (.svHtab b c d) := by
  intro h w hw he
  refine decode_of_fields he hw rfl ⟨rfl, rfl⟩ rfl (by simp [Fields.empty]) (by simp [Fields.empty]) ?_ ?_
  · simp [Fits, ModFits, immBits_i, immBits_l, Fields.empty, b.code_lt, c.code_lt, d.code_lt]
  · rw [build_E0 rfl]
    simp [buildE0, Fields.empty]
theorem RoundTrip.svYov (b c d : XReg) : RoundTrip.Statement (.svYov b c d) := by
  intro h w hw he
  refine decode_of_fields he hw rfl ⟨rfl, rfl⟩ rfl (by simp [Fields.empty]) (by simp [Fields.empty]) ?_ ?_
  · simp [Fits, ModFits, immBits_i, immBits_l, Fields.empty, b.code_lt, c.code_lt, d.code_lt]
  · rw [build_E0 rfl]
    simp [buildE0, Fields.empty]
theorem RoundTrip.nop : RoundTrip.Statement .nop := by
  intro h w hw he
  refine decode_of_fields he hw rfl ⟨rfl, rfl⟩ rfl (by simp [Fields.empty]) (by simp [Fields.empty]) ?_ ?_
  · simp [Fits, ModFits, immBits_i, immBits_l, Fields.empty]
  · rw [build_01 rfl]
    simp [build01, Fields.empty]
theorem RoundTrip.commit : RoundTrip.Statement .commit := by
  intro h w hw he
  refine decode_of_fields he hw rfl ⟨rfl, rfl⟩ rfl (by simp [Fields.empty]) (by simp [Fields.empty]) ?_ ?_
  · simp [Fits, ModFits, immBits_i, immBits_l, Fields.empty]
  · rw [build_50 rfl]
    simp [build50, Fields.empty]
theorem RoundTrip.vmodeShort : RoundTrip.Statement .vmodeShort := by
  intro h w hw he
  refine decode_of_fields he hw rfl ⟨rfl, rfl⟩ rfl (by simp [Fields.empty]) (by simp [Fields.empty]) ?_ ?_
  · simp [Fits, ModFits, immBits_i, immBits_l, Fields.empty]
  · rw [build_70 rfl]
    simp [build70, Fields.empty]
theorem RoundTrip.vmodeLong : RoundTrip.Statement .vmodeLong := by
  intro h w hw he
  refine decode_of_fields he hw rfl ⟨rfl, rfl⟩ rfl (by simp [Fields.empty]) (by simp [Fields.empty]) ?_ ?_
  · simp [Fits, ModFits, immBits_i, immBits_l, Fields.empty]
  · rw [build_70 rfl]
    simp [build70, Fields.empty]
theorem RoundTrip.done : RoundTrip.Statement .done := by
  intro h w hw he
  refine decode_of_fields he hw rfl ⟨rfl, rfl⟩ rfl (by simp [Fields.empty]) (by simp [Fields.empty]) ?_ ?_
  · simp [Fits, ModFits, immBits_i, immBits_l, Fields.empty]
  · rw [build_D0 rfl]
    simp [buildD0, Fields.empty]
theorem RoundTrip.yield : RoundTrip.Statement .yield := by
  intro h w hw he
  refine decode_of_fields he hw rfl ⟨rfl, rfl⟩ rfl (by simp [Fields.empty]) (by simp [Fields.empty]) ?_ ?_
  · simp [Fits, ModFits, immBits_i, immBits_l, Fields.empty]
  · rw [build_D0 rfl]
    simp [buildD0, Fields.empty]
theorem RoundTrip.wfw : RoundTrip.Statement .wfw := by
  intro h w hw he
  refine decode_of_fields he hw rfl ⟨rfl, rfl⟩ rfl (by simp [Fields.empty]) (by simp [Fields.empty]) ?_ ?_
  · simp [Fits, ModFits, immBits_i, immBits_l, Fields.empty]
  · rw [build_D0 rfl]
    simp [buildD0, Fields.empty]
theorem RoundTrip.lend : RoundTrip.Statement .lend := by
  intro h w hw he
  refine decode_of_fields he hw rfl ⟨rfl, rfl⟩ rfl (by simp [Fields.empty]) (by simp [Fields.empty]) ?_ ?_
  · simp [Fits, ModFits, immBits_i, immBits_l, Fields.empty]
  · rw [build_D0 rfl]
    simp [buildD0, Fields.empty]
theorem RoundTrip.tret : RoundTrip.Statement .tret := by
  intro h w hw he
  refine decode_of_fields he hw rfl ⟨rfl, rfl⟩ rfl (by simp [Fields.empty]) (by simp [Fields.empty]) ?_ ?_
  · simp [Fits, ModFits, immBits_i, immBits_l, Fields.empty]
  · rw [build_D4 rfl]
    simp [buildD4, Fields.empty]
theorem RoundTrip.powerOn : RoundTrip.Statement .powerOn := fun _ _ _ he => nomatch he
theorem RoundTrip.bootStepComplete : RoundTrip.Statement .bootStepComplete := fun _ _ _ he => nomatch he
theorem RoundTrip.powerOff : RoundTrip.Statement .powerOff := fun _ _ _ he => nomatch he
theorem RoundTrip.issueThrottlingEntry : RoundTrip.Statement .issueThrottlingEntry := fun _ _ _ he => nomatch he
theorem RoundTrip.issueThrottlingExit : RoundTrip.Statement .issueThrottlingExit := fun _ _ _ he => nomatch he
theorem RoundTrip.overtempPowerOff : RoundTrip.Statement .overtempPowerOff := fun _ _ _ he => nomatch he
theorem RoundTrip.flitReceive : RoundTrip.Statement .flitReceive := fun _ _ _ he => nomatch he
theorem RoundTrip.stopFlagClear : RoundTrip.Statement .stopFlagClear := fun _ _ _ he => nomatch he
theorem RoundTrip.ackReceive : RoundTrip.Statement .ackReceive := fun _ _ _ he => nomatch he
theorem RoundTrip.nakReceive : RoundTrip.Statement .nakReceive := fun _ _ _ he => nomatch he
theorem RoundTrip.ackTimeout : RoundTrip.Statement .ackTimeout := fun _ _ _ he => nomatch he
theorem RoundTrip.alternateResend : RoundTrip.Statement .alternateResend := fun _ _ _ he => nomatch he
theorem RoundTrip.portUp : RoundTrip.Statement .portUp := fun _ _ _ he => nomatch he
theorem RoundTrip.putUpdateReceive : RoundTrip.Statement .putUpdateReceive := fun _ _ _ he => nomatch he
theorem RoundTrip.getRequestServe : RoundTrip.Statement .getRequestServe := fun _ _ _ he => nomatch he
theorem RoundTrip.getRowWrite : RoundTrip.Statement .getRowWrite := fun _ _ _ he => nomatch he
theorem RoundTrip.putAckReceive : RoundTrip.Statement .putAckReceive := fun _ _ _ he => nomatch he
theorem RoundTrip.negativeAckReceive : RoundTrip.Statement .negativeAckReceive := fun _ _ _ he => nomatch he
theorem RoundTrip.spawnArrival : RoundTrip.Statement .spawnArrival := fun _ _ _ he => nomatch he
theorem RoundTrip.spawnAnswerReceive : RoundTrip.Statement .spawnAnswerReceive := fun _ _ _ he => nomatch he
theorem RoundTrip.collectiveMessageArrival : RoundTrip.Statement .collectiveMessageArrival := fun _ _ _ he => nomatch he
theorem RoundTrip.collectiveReceiveStep : RoundTrip.Statement .collectiveReceiveStep := fun _ _ _ he => nomatch he
theorem RoundTrip.poolWindowAccess : RoundTrip.Statement .poolWindowAccess := fun _ _ _ he => nomatch he
theorem RoundTrip.memoryWindowWrite : RoundTrip.Statement .memoryWindowWrite := fun _ _ _ he => nomatch he
theorem RoundTrip.memoryWindowRead : RoundTrip.Statement .memoryWindowRead := fun _ _ _ he => nomatch he
theorem RoundTrip.watchArm : RoundTrip.Statement .watchArm := fun _ _ _ he => nomatch he
theorem RoundTrip.registerWrite : RoundTrip.Statement .registerWrite := fun _ _ _ he => nomatch he
theorem RoundTrip.quote : RoundTrip.Statement .quote := fun _ _ _ he => nomatch he
theorem RoundTrip.idcert : RoundTrip.Statement .idcert := fun _ _ _ he => nomatch he
theorem RoundTrip.keyxch : RoundTrip.Statement .keyxch := fun _ _ _ he => nomatch he
theorem RoundTrip.keyimport : RoundTrip.Statement .keyimport := fun _ _ _ he => nomatch he
theorem RoundTrip.keygen : RoundTrip.Statement .keygen := fun _ _ _ he => nomatch he
theorem RoundTrip.keyerase : RoundTrip.Statement .keyerase := fun _ _ _ he => nomatch he
theorem RoundTrip.liferead : RoundTrip.Statement .liferead := fun _ _ _ he => nomatch he
theorem RoundTrip.redfishRequest : RoundTrip.Statement .redfishRequest := fun _ _ _ he => nomatch he
theorem RoundTrip.lifetimeRecordWrite : RoundTrip.Statement .lifetimeRecordWrite := fun _ _ _ he => nomatch he
theorem RoundTrip.dispatcherCycle : RoundTrip.Statement .dispatcherCycle := fun _ _ _ he => nomatch he
theorem RoundTrip.heldInsertEntry : RoundTrip.Statement .heldInsertEntry := fun _ _ _ he => nomatch he
theorem RoundTrip.recordArrivalAtManger : RoundTrip.Statement .recordArrivalAtManger := fun _ _ _ he => nomatch he
theorem RoundTrip.mangerCancel : RoundTrip.Statement .mangerCancel := fun _ _ _ he => nomatch he
theorem RoundTrip.counterOperation : RoundTrip.Statement .counterOperation := fun _ _ _ he => nomatch he
theorem RoundTrip.nodeReadyInsert : RoundTrip.Statement .nodeReadyInsert := fun _ _ _ he => nomatch he
theorem RoundTrip.deferredPhaseClose : RoundTrip.Statement .deferredPhaseClose := fun _ _ _ he => nomatch he
theorem RoundTrip.vacateGraceExpiry : RoundTrip.Statement .vacateGraceExpiry := fun _ _ _ he => nomatch he
theorem RoundTrip.rectangleEmpty : RoundTrip.Statement .rectangleEmpty := fun _ _ _ he => nomatch he
theorem RoundTrip.exactRestore : RoundTrip.Statement .exactRestore := fun _ _ _ he => nomatch he
theorem RoundTrip.teardownComplete : RoundTrip.Statement .teardownComplete := fun _ _ _ he => nomatch he
theorem RoundTrip.windowHashCompare : RoundTrip.Statement .windowHashCompare := fun _ _ _ he => nomatch he
theorem RoundTrip.barrelIssue : RoundTrip.Statement .barrelIssue := fun _ _ _ he => nomatch he
theorem RoundTrip.coprocessorDispatch : RoundTrip.Statement .coprocessorDispatch := fun _ _ _ he => nomatch he
theorem RoundTrip.coprocessorComplete : RoundTrip.Statement .coprocessorComplete := fun _ _ _ he => nomatch he
theorem RoundTrip.copFaultDetect : RoundTrip.Statement .copFaultDetect := fun _ _ _ he => nomatch he
theorem RoundTrip.groupEnd : RoundTrip.Statement .groupEnd := fun _ _ _ he => nomatch he
theorem RoundTrip.mmtChunkComplete : RoundTrip.Statement .mmtChunkComplete := fun _ _ _ he => nomatch he
theorem RoundTrip.longContextGrant : RoundTrip.Statement .longContextGrant := fun _ _ _ he => nomatch he
theorem RoundTrip.scaleSetArrival : RoundTrip.Statement .scaleSetArrival := fun _ _ _ he => nomatch he
theorem RoundTrip.xmaxExchangeComplete : RoundTrip.Statement .xmaxExchangeComplete := fun _ _ _ he => nomatch he
theorem RoundTrip.mailboxArrival : RoundTrip.Statement .mailboxArrival := fun _ _ _ he => nomatch he
theorem RoundTrip.mailboxRetry : RoundTrip.Statement .mailboxRetry := fun _ _ _ he => nomatch he
theorem RoundTrip.copyBlockDelivery : RoundTrip.Statement .copyBlockDelivery := fun _ _ _ he => nomatch he
theorem RoundTrip.copyPendResume : RoundTrip.Statement .copyPendResume := fun _ _ _ he => nomatch he
theorem RoundTrip.stallHighwaterMoveout : RoundTrip.Statement .stallHighwaterMoveout := fun _ _ _ he => nomatch he
theorem RoundTrip.stallAgeMoveout : RoundTrip.Statement .stallAgeMoveout := fun _ _ _ he => nomatch he
theorem RoundTrip.shedAgeMoveout : RoundTrip.Statement .shedAgeMoveout := fun _ _ _ he => nomatch he
theorem RoundTrip.shedFillMoveout : RoundTrip.Statement .shedFillMoveout := fun _ _ _ he => nomatch he
theorem RoundTrip.shedMoveRetry : RoundTrip.Statement .shedMoveRetry := fun _ _ _ he => nomatch he
theorem RoundTrip.yardEntry : RoundTrip.Statement .yardEntry := fun _ _ _ he => nomatch he
theorem RoundTrip.movedReroute : RoundTrip.Statement .movedReroute := fun _ _ _ he => nomatch he
theorem RoundTrip.yardFillApply : RoundTrip.Statement .yardFillApply := fun _ _ _ he => nomatch he
theorem RoundTrip.yardSpill : RoundTrip.Statement .yardSpill := fun _ _ _ he => nomatch he
theorem RoundTrip.yardRefill : RoundTrip.Statement .yardRefill := fun _ _ _ he => nomatch he
theorem RoundTrip.yardFull : RoundTrip.Statement .yardFull := fun _ _ _ he => nomatch he
theorem RoundTrip.yardFullClear : RoundTrip.Statement .yardFullClear := fun _ _ _ he => nomatch he
theorem RoundTrip.releaseApply : RoundTrip.Statement .releaseApply := fun _ _ _ he => nomatch he
theorem RoundTrip.commitPrepare : RoundTrip.Statement .commitPrepare := fun _ _ _ he => nomatch he
theorem RoundTrip.prepareAnswer : RoundTrip.Statement .prepareAnswer := fun _ _ _ he => nomatch he
theorem RoundTrip.commitFlip : RoundTrip.Statement .commitFlip := fun _ _ _ he => nomatch he
theorem RoundTrip.flipAcknowledge : RoundTrip.Statement .flipAcknowledge := fun _ _ _ he => nomatch he
theorem RoundTrip.taskAbort : RoundTrip.Statement .taskAbort := fun _ _ _ he => nomatch he
theorem RoundTrip.abortNoticeArrival : RoundTrip.Statement .abortNoticeArrival := fun _ _ _ he => nomatch he
theorem RoundTrip.sosAcknowledge : RoundTrip.Statement .sosAcknowledge := fun _ _ _ he => nomatch he
theorem RoundTrip.loadResultReturn : RoundTrip.Statement .loadResultReturn := fun _ _ _ he => nomatch he
theorem RoundTrip.fetchHomeStep : RoundTrip.Statement .fetchHomeStep := fun _ _ _ he => nomatch he
theorem RoundTrip.mergeFaultRecordArrival : RoundTrip.Statement .mergeFaultRecordArrival := fun _ _ _ he => nomatch he
theorem RoundTrip.pageFaultService : RoundTrip.Statement .pageFaultService := fun _ _ _ he => nomatch he
theorem RoundTrip.migrationComplete : RoundTrip.Statement .migrationComplete := fun _ _ _ he => nomatch he
theorem RoundTrip.fluePageVisit : RoundTrip.Statement .fluePageVisit := fun _ _ _ he => nomatch he
theorem RoundTrip.fluePassEnd : RoundTrip.Statement .fluePassEnd := fun _ _ _ he => nomatch he
theorem RoundTrip.sectorRead : RoundTrip.Statement .sectorRead := fun _ _ _ he => nomatch he
theorem RoundTrip.scrub : RoundTrip.Statement .scrub := fun _ _ _ he => nomatch he
theorem RoundTrip.paddockKill : RoundTrip.Statement .paddockKill := fun _ _ _ he => nomatch he
theorem RoundTrip.paddockKillReport : RoundTrip.Statement .paddockKillReport := fun _ _ _ he => nomatch he
theorem RoundTrip.barrierGenerationOpen : RoundTrip.Statement .barrierGenerationOpen := fun _ _ _ he => nomatch he
theorem RoundTrip.postArrival : RoundTrip.Statement .postArrival := fun _ _ _ he => nomatch he
theorem RoundTrip.barrierArrival : RoundTrip.Statement .barrierArrival := fun _ _ _ he => nomatch he
theorem RoundTrip.xmaxContributionArrival : RoundTrip.Statement .xmaxContributionArrival := fun _ _ _ he => nomatch he
theorem RoundTrip.drainRequestArrival : RoundTrip.Statement .drainRequestArrival := fun _ _ _ he => nomatch he

end Sys2Proof.Laws
end

