-- ==== Sys2Proof/Tests/Slice0.lean ====
section
/-! SUPPORT. Tests: words of the spec's encodings, ill-formed terms, single steps, and for each statement with hypotheses
states that meet them, clause by clause at the ends of their ranges. -/

namespace Sys2Proof.Tests

open Sys2Proof Sys2Proof.Machine

set_option Elab.async false

/-- Each word, of so many bits, decodes to its instruction. -/
def decodesAll (l : List (Nat × Nat × Instr)) : Bool := l.all fun x => decodeTableWord x.1 x.2.1 == some x.2.2

/-- None of the instructions is well formed under the header. -/
def allBad (h : Hdr) (l : List Instr) : Bool := l.all fun i => !i.wf h

def short : Hdr := ⟨.w64, false⟩
def long : Hdr := ⟨.w96, false⟩
def r (n : Nat) : XReg := .dir (BitVec.ofNat 6 n)
def v (n : Nat) : VReg := .v (BitVec.ofNat 5 n)

/-- One thread on core 0, in its context's one page, which fetches `nop`; it may access the store's first half. -/
def base : State :=
  let s := State.reset.withFetchWord 64 0xC
  { s with cores := put s.cores 0 { s.coreAt 0 with lspr := put [] 0 0x0007FF0070000000 } }

/-- The thread has issued the instruction, at a phase. -/
def issued (i : Instr) (p : Nat) : State :=
  { base with agenda := [], cur := ⟨0, 0, { Issue.none with instr := i, phase := p, pc := 0x10000 }⟩ }

/-- The instruction is in a pipe, with the scalar operands that it entered with. -/
def piped (i : Instr) (l : List (Nat × Word)) : State :=
  { base with
    agenda := []
    cur := ⟨0, 0, { Issue.none with instr := i, pc := 0x10000, pipe := true, xs := l.map fun x => (r x.1, x.2) }⟩ }

/-- Scalar registers are set. -/
def regs (s : State) (l : List (Nat × Word)) : State :=
  s.modMyCore fun c => { c with rf := l.foldl (fun m x => put m x.1 x.2) c.rf }

/-- The state with an event that happens. -/
def now (s : State) (e : Ev) : State := { s with ev := e }

/-- The thread is changed. -/
def modded (s : State) (f : Thread → Thread) : State := s.modMe f

/-- The thread's token. -/
def me : BitVec 40 := base.token 0 0

/-- An answer is good, with what is asked of it. -/
def okAnd {ε α : Type} (x : Except ε α) (p : α → Bool) : Bool :=
  match x with
  | .ok a => p a
  | .error _ => false

/-- A translation has succeeded, or has met an entry that is absent. -/
def found : Tr → Bool
  | .ok .. => true
  | _ => false
def absent : Tr → Bool
  | .absent .. => true
  | _ => false

/-! ### Decoding: a word of each instruction, from the encoding tables of the spec -/

theorem test_decode_opc01_to_03 : decodesAll [
    (64, 0x0000000000000008, .nop),
    (64, 0x00006010C1010010, .add .n32 (.dir 1) (.dir 2) (.rel 3)),
    (64, 0x00006010C1010810, .sub .n32 (.dir 1) (.dir 2) (.rel 3)),
    (64, 0x00006010C1011010, .mul .n32 (.dir 1) (.dir 2) (.rel 3)),
    (64, 0x00006010C1011810, .mulh .n32 (.dir 1) (.dir 2) (.rel 3)),
    (64, 0x00006010C1012010, .div .n32 (.dir 1) (.dir 2) (.rel 3)),
    (64, 0x00006010C1012810, .rem .n32 (.dir 1) (.dir 2) (.rel 3)),
    (64, 0x00006010C1013010, .min .n32 (.dir 1) (.dir 2) (.rel 3)),
    (64, 0x00006010C1013810, .max .n32 (.dir 1) (.dir 2) (.rel 3)),
    (64, 0x000010001F814010, .abs .i16 (.dir 1) (.dir 63)),
    (64, 0xFFFFF600EF820018, .addImm .i64 (.dir 2) (.rel 31) (-5)),
    (64, 0xFFFFF600EF820818, .subImm .i64 (.dir 2) (.rel 31) (-5)),
    (64, 0xFFFFF600EF821018, .mulImm .i64 (.dir 2) (.rel 31) (-5)),
    (64, 0xFFFFF600EF823018, .minImm .i64 (.dir 2) (.rel 31) (-5)),
    (64, 0xFFFFF600EF823818, .maxImm .i64 (.dir 2) (.rel 31) (-5))] = true := by decide

theorem test_decode_opc04_to_07 : decodesAll [
    (64, 0x00012000C1010020, .and .b32 (.dir 1) (.dir 2) (.dir 3)),
    (64, 0x00012000C1010820, .or .b32 (.dir 1) (.dir 2) (.dir 3)),
    (64, 0x00012000C1011020, .xor .b32 (.dir 1) (.dir 2) (.dir 3)),
    (64, 0x00012000C1011820, .andn .b32 (.dir 1) (.dir 2) (.dir 3)),
    (64, 0x00012000C1012020, .orn .b32 (.dir 1) (.dir 2) (.dir 3)),
    (64, 0x00012000C1012820, .xnor .b32 (.dir 1) (.dir 2) (.dir 3)),
    (64, 0x7FFFFE04C1010028, .andImm .b64 (.dir 1) (.dir 2) 4194303),
    (64, 0x7FFFFE04C1010828, .orImm .b64 (.dir 1) (.dir 2) 4194303),
    (64, 0x7FFFFE04C1011028, .xorImm .b64 (.dir 1) (.dir 2) 4194303),
    (64, 0x00005000C1010030, .sll .n16 (.dir 1) (.dir 2) (.dir 3)),
    (64, 0x00005000C1010830, .srl .n16 (.dir 1) (.dir 2) (.dir 3)),
    (64, 0x00005000C1011030, .sra .n16 (.dir 1) (.dir 2) (.dir 3)),
    (64, 0x00005000C1011830, .rol .n16 (.dir 1) (.dir 2) (.dir 3)),
    (64, 0x00005000C1012030, .ror .n16 (.dir 1) (.dir 2) (.dir 3)),
    (64, 0x0000420081010038, .sllImm .i32 (.dir 1) (.dir 2) 33),
    (64, 0x0000420081010838, .srlImm .i32 (.dir 1) (.dir 2) 33),
    (64, 0x0000420081011038, .sraImm .i32 (.dir 1) (.dir 2) 33),
    (64, 0x0000420081011838, .rolImm .i32 (.dir 1) (.dir 2) 33),
    (64, 0x0000420081012038, .rorImm .i32 (.dir 1) (.dir 2) 33)] = true := by decide

theorem test_decode_opc08_to_0B : decodesAll [
    (64, 0x00003080C1010040, .bext .i64 (.dir 1) (.dir 2) (.dir 3) (.dir 4)),
    (64, 0x00003080C1010840, .bextz .i64 (.dir 1) (.dir 2) (.dir 3) (.dir 4)),
    (64, 0x00003080C1011040, .bins .i64 (.dir 1) (.dir 2) (.dir 3) (.dir 4)),
    (64, 0x0000600001011840, .clz .n32 (.dir 1) (.dir 2)),
    (64, 0x0000600001012040, .ctz .n32 (.dir 1) (.dir 2)),
    (64, 0x0000600001012840, .popc .n32 (.dir 1) (.dir 2)),
    (64, 0x0000600001013040, .bswap .n32 (.dir 1) (.dir 2)),
    (64, 0x00200060C1010048, .lea (.dir 1) (.dir 2) (.dir 3) 4),
    (64, 0x00007000C1070050, .cmpEq .n64 7 (.dir 2) (.dir 3)),
    (64, 0x00007000C1070850, .cmpNe .n64 7 (.dir 2) (.dir 3)),
    (64, 0x00007000C1071050, .cmpLt .n64 7 (.dir 2) (.dir 3)),
    (64, 0x00007000C1071850, .cmpLe .n64 7 (.dir 2) (.dir 3)),
    (64, 0x00007000C1072050, .cmpGt .n64 7 (.dir 2) (.dir 3)),
    (64, 0x00007000C1072850, .cmpGe .n64 7 (.dir 2) (.dir 3)),
    (64, 0xFFFFFE0001010058, .cmpEqImm .i8 1 (.dir 2) (-1)),
    (64, 0xFFFFFE0001010858, .cmpNeImm .i8 1 (.dir 2) (-1)),
    (64, 0xFFFFFE0001011058, .cmpLtImm .i8 1 (.dir 2) (-1)),
    (64, 0xFFFFFE0001011858, .cmpLeImm .i8 1 (.dir 2) (-1)),
    (64, 0xFFFFFE0001012058, .cmpGtImm .i8 1 (.dir 2) (-1)),
    (64, 0xFFFFFE0001012858, .cmpGeImm .i8 1 (.dir 2) (-1))] = true := by decide

theorem test_decode_opc0C_to_10 : decodesAll [
    (64, 0x00000000C1010060, .pand 1 2 3),
    (64, 0x00000000C1010860, .por 1 2 3),
    (64, 0x00000000C1011060, .pxor 1 2 3),
    (64, 0x00000000C1011860, .pandn 1 2 3),
    (64, 0x0000000001012060, .pnot 1 2),
    (64, 0x000130A100830068, .sel (.dir 3) 1 (.dir 4) (.dir 5)),
    (64, 0x0001300002030070, .movXX (.dir 3) (.dir 4)),
    (64, 0x0001300001030870, .movXP (.dir 3) 2),
    (64, 0x0001300001821070, .movPX 2 (.dir 3)),
    (64, 0xFFFFFFFFFD830078, .li (.dir 3) (-5)),
    (64, 0x0000000002030080, .khash (.dir 3) (.dir 4))] = true := by decide

theorem test_decode_opc18_to_22 : decodesAll [
    (64, 0xFFFFFFFFFD0100C0, .br 1 (-6)),
    (64, 0x00000000038208C0, .brn 2 7),
    (64, 0x00000000028000C8, .jr (.dir 5)),
    (64, 0x00000000320100D0, .call (.dir 1) 100),
    (64, 0x00000000028100D8, .callr (.dir 1) (.dir 5)),
    (64, 0x00000000008008D8, .ret (.dir 1)),
    (64, 0xFFFFF000000900E0, .loop (.dir 9) (-8)),
    (64, 0x00000000014300E8, .rep 3 5),
    (64, 0xFFFFFE00010000F0, .ixset (.dir 2) (-1)),
    (64, 0x00000200000008F0, .ixadd (.dir 0) 1),
    (64, 0x00000000000410F0, .ixget (.dir 4)),
    (64, 0x00000000018500F8, .mfts (.dir 5) .tval),
    (64, 0x00000000048808F8, .mtts .stallhw (.dir 9)),
    (64, 0x0000000000060100, .rdcyc (.dir 6)),
    (64, 0xFFFFFFFFFF000108, .brk (-2)),
    (64, 0x0000000001800110, .trap 3)] = true := by decide

theorem test_decode_opc40_to_4A : decodesAll [
    (64, 0xFFFFF00242030200, .ld .f32 (.x (.dir 3)) (.dir 4) (-8)),
    (64, 0x0010028142030208, .ldIndexed .b128 (.v (.v 3)) (.dir 4) (.dir 5) 2),
    (64, 0x0000120102030210, .ldLs .n8 (.x (.dir 3)) (.dir 4) 9),
    (64, 0x00002000C2030218, .ldHandleDisp .i64 (.x (.dir 3)) (.dir 4) 16),
    (64, 0x0000100142030A18, .ldHandleReg .i16 (.x (.dir 3)) (.dir 4) (.dir 5)),
    (64, 0x0000091082030220, .st .i32 .addsI true (.x (.dir 3)) (.dir 4) 4),
    (64, 0x001824E142030228, .stIndexed .n64 .maxN false (.x (.dir 3)) (.dir 4) (.dir 5) 3),
    (64, 0x0000120102030230, .stLs .n8 (.x (.dir 3)) (.dir 4) 9),
    (64, 0x00002000C2030238, .stHandleDisp .i64 (.x (.dir 3)) (.dir 4) 16),
    (64, 0x0000100142030A38, .stHandleReg .i16 (.x (.dir 3)) (.dir 4) (.dir 5)),
    (64, 0x0002200142030240, .fetch .i32 .add (.dir 3) (.dir 4) (.dir 5)),
    (64, 0x0016012082010248, .gather .f32 (.v 1) (.dir 4) (.v 2) ⟨2, true, 2⟩),
    (64, 0x00238CC082010250, .scatter .n32 .addsN true (.v 1) (.dir 4) (.v 2) ⟨3, false, 4⟩)] = true := by decide

theorem test_decode_opc4B_to_53 : decodesAll [
    (64, 0x0001100182840258, .ldt .b16 (.v 4) (.dir 5) (.dir 6)),
    (64, 0x00C29000C1010260, .unpk .f32 .e4m3 .rtz (.v 1) (.v 2) (.dir 3)),
    (64, 0x0000800002000268, .prefetch (.dir 4) 64),
    (64, 0x0000500142000270, .drain .device (.dir 4) (.dir 5)),
    (64, 0x0000300142000A70, .drainApply .cluster (.dir 4) (.dir 5)),
    (64, 0x0000000000000280, .commit),
    (64, 0x0000500000000288, .fenceRel .device),
    (64, 0x0000100000000A88, .fenceAcq .thread),
    (64, 0x0000400000001288, .fenceAr .die),
    (64, 0x0000600000001A88, .fenceSc .system),
    (64, 0x0000320000002288, .fenceX .cp .gp),
    (64, 0x25AD0E0084800290, .bar .core (.dir 9) 1234567),
    (64, 0x0000000142000298, .hgive (.dir 4) (.dir 5)),
    (64, 0x0000000002030A98, .htake (.dir 3) (.dir 4))] = true := by decide

theorem test_decode_opc70_to_72 : decodesAll [
    (64, 0x0000000000000380, .vmodeShort),
    (64, 0x0000000000000B80, .vmodeLong),
    (64, 0x00068000C1010388, .vaddF .f64 .rup (.v 1) (.v 2) (.v 3)),
    (64, 0x00068000C1010B88, .vsubF .f64 .rup (.v 1) (.v 2) (.v 3)),
    (64, 0x00068000C1011388, .vmulF .f64 .rup (.v 1) (.v 2) (.v 3)),
    (64, 0x00068000C1011B88, .vdiv .f64 .rup (.v 1) (.v 2) (.v 3)),
    (64, 0x0000B000C1012388, .vminF .bf16 (.v 1) (.v 2) (.v 3)),
    (64, 0x0000A000C1012B88, .vmaxF .f16 (.v 1) (.v 2) (.v 3)),
    (64, 0x0000900017A13388, .vabsF .f32 (.w 1) (.w 15)),
    (64, 0x0000900031013B88, .vneg .f32 (.v 1) (.s 2)),
    (64, 0x0004900001014388, .vsqrt .f32 .rdn (.v 1) (.v 2)),
    (64, 0x000290E182840390, .vfma .f32 .rtz (.v 4) (.v 5) (.v 6) (.v 7)),
    (64, 0x000290E182840B90, .vfms .f32 .rtz (.v 4) (.v 5) (.v 6) (.v 7)),
    (64, 0x000290E182841390, .vfnma .f32 .rtz (.v 4) (.v 5) (.v 6) (.v 7))] = true := by decide

theorem test_decode_opc73_to_75_1 : decodesAll [
    (64, 0x00004000C1010398, .vaddI .n8 (.v 1) (.v 2) (.v 3)),
    (64, 0x00004000C1010B98, .vsubI .n8 (.v 1) (.v 2) (.v 3)),
    (64, 0x00004000C1011398, .vmulI .n8 (.v 1) (.v 2) (.v 3)),
    (64, 0x00004000C1011B98, .vminI .n8 (.v 1) (.v 2) (.v 3)),
    (64, 0x00004000C1012398, .vmaxI .n8 (.v 1) (.v 2) (.v 3)),
    (64, 0x0000200001012B98, .vabsI .i32 (.v 1) (.v 2)),
    (64, 0x00001000C1013398, .vadds .i16 (.v 1) (.v 2) (.v 3)),
    (64, 0x00001000C1013B98, .vsubs .i16 (.v 1) (.v 2) (.v 3)),
    (64, 0x00001000C1014398, .vand .i16 (.v 1) (.v 2) (.v 3)),
    (64, 0x00001000C1014B98, .vor .i16 (.v 1) (.v 2) (.v 3)),
    (64, 0x00001000C1015398, .vxor .i16 (.v 1) (.v 2) (.v 3)),
    (64, 0x00001000C1015B98, .vsll .i16 (.v 1) (.v 2) (.v 3)),
    (64, 0x00001000C1016398, .vsrl .i16 (.v 1) (.v 2) (.v 3)),
    (64, 0x00001000C1016B98, .vsra .i16 (.v 1) (.v 2) (.v 3)),
    (64, 0x000890000F8103A0, .vexp .f32 .rna (.v 1) (.v 31)),
    (64, 0x000890000F810BA0, .vlog .f32 .rna (.v 1) (.v 31)),
    (64, 0x000890000F8113A0, .vrcp .f32 .rna (.v 1) (.v 31)),
    (64, 0x000890000F811BA0, .vrsqrt .f32 .rna (.v 1) (.v 31)),
    (64, 0x000890000F8123A0, .vtanh .f32 .rna (.v 1) (.v 31)),
    (64, 0x000890000F812BA0, .vsig .f32 .rna (.v 1) (.v 31)),
    (64, 0x0000A000C10103A8, .vcmpEq .f16 (.v 1) (.v 2) (.v 3)),
    (64, 0x0000A000C1010BA8, .vcmpNe .f16 (.v 1) (.v 2) (.v 3)),
    (64, 0x0000A000C10113A8, .vcmpLt .f16 (.v 1) (.v 2) (.v 3)),
    (64, 0x0000A000C1011BA8, .vcmpLe .f16 (.v 1) (.v 2) (.v 3))] = true := by decide

theorem test_decode_opc73_to_75_2 : decodesAll [
    (64, 0x0000A000C10123A8, .vcmpGt .f16 (.v 1) (.v 2) (.v 3)),
    (64, 0x0000A000C1012BA8, .vcmpGe .f16 (.v 1) (.v 2) (.v 3))] = true := by decide

theorem test_decode_opc76_to_7E : decodesAll [
    (64, 0x00011080C10103B0, .vsel .b16 (.v 1) (.v 2) (.v 3) (.v 4)),
    (64, 0x00010000C10103B8, .vperm .b8 (.v 1) (.v 2) (.v 3)),
    (64, 0x00012080C1010BB8, .vshuf .b32 (.v 1) (.v 2) (.v 3) (.v 4)),
    (64, 0x00013000010113B8, .vbcast .b64 (.v 1) (.dir 2)),
    (64, 0x00012000C1011BB8, .vrot .b32 (.v 1) (.v 2) (.dir 3)),
    (64, 0x00068000010103C0, .vredadd .f64 .rup (.dir 1) (.v 2)),
    (64, 0x0000000001010BC0, .vredmax .i8 (.dir 1) (.v 2)),
    (64, 0x0000A000010113C0, .vredmin .f16 (.dir 1) (.v 2)),
    (64, 0x0092B000C10103C8, .cvt .bf16 .f32 .rtz (.v 1) (.v 2) (.dir 3)),
    (64, 0x00990080C1010BC8, .cvtn .f32 .rna (.v 1) (.v 2) (.dir 3) (.dir 4)),
    (64, 0x00B10080C10103D0, .vquant .bf16 .rne (.v 1) (.v 2) (.dir 3) (.dir 4)),
    (64, 0x00009000018603D8, .xmax .f32 (.dir 6) (.v 3)),
    (64, 0x00009080C10003E0, .sbupd (.v 2) (.dir 3) (.dir 4)),
    (64, 0x00013000C10103E8, .vhash .b64 (.v 1) (.v 2) (.dir 3)),
    (64, 0x00010080C1010BE8, .vbcmp (.dir 1) (.v 2) (.v 3) (.dir 4)),
    (64, 0x000130000F0103F0, .vmov (.v 1) (.v 30)),
    (64, 0x00005000C1010BF0, .vins .n16 (.v 1) (.dir 2) (.dir 3)),
    (64, 0x00000000C10113F0, .vext .i8 (.dir 1) (.v 2) (.dir 3))] = true := by decide

theorem test_decode_opcA0_to_A7 : decodesAll [
    (64, 0x00B090C142020500, .mma .f32 .bf16 2 (.dir 4) (.dir 5) (.dir 6)),
    (96, 0x0000800700C090C142020509, .mmas .e4m3 2 (.dir 4) (.dir 5) (.dir 6) (.dir 7) 2),
    (96, 0x01040407000080C142020511, .mmt .f64 2 (.dir 4) (.dir 5) (.dir 6) (.dir 7) (.dir 8) 1040),
    (64, 0x0000000000030518, .azero 3),
    (64, 0x0000000002030D18, .aspill (.dir 3) 4),
    (64, 0x0000000001841518, .afill 4 (.dir 3)),
    (64, 0x00029000C1011D18, .aadd .f32 .rtz 1 2 3),
    (64, 0x0086800141022518, .aread .f64 true .rup (.v 2) 2 (.dir 5) (.dir 0)),
    (64, 0x00000002C5000520, .skset (.dir 10) (.dir 11)),
    (64, 0x0000000000030D20, .skget (.dir 3)),
    (64, 0x0000A080C1010528, .topk .f16 (.dir 1) (.dir 2) (.dir 3) (.dir 4)),
    (96, 0x0040400500A09080C1010531, .mvh .f32 .f16 1 (.dir 2) (.dir 3) (.dir 4) (.dir 5) 257),
    (64, 0x0000000142000538, .sbld (.dir 4) (.dir 5)),
    (64, 0x0000000142000D38, .sbst (.dir 4) (.dir 5))] = true := by decide

theorem test_decode_opcC0_to_C4 : decodesAll [
    (64, 0x0000900002600600, .sopen .f32 0 (.dir 4)),
    (64, 0x0000000002610E00, .sadv 1 (.dir 4)),
    (64, 0x0000000033831600, .stend 3 7),
    (64, 0x0000000000621E00, .sclose 2),
    (64, 0x0000800002652600, .fopen .f64 5 (.dir 4)),
    (96, 0x0000400500000080C1010609, .cpyLl 1 (.dir 2) (.dir 3) (.dir 4) (.dir 5) 1),
    (96, 0x0000400500000080C1020E09, .cpyGl 2 (.dir 2) (.dir 3) (.dir 4) (.dir 5) 1),
    (96, 0x0000000000466080C1001609, .cpyLg .n32 .addsN true 0 (.dir 2) (.dir 3) (.dir 4) (.dir 0) 0),
    (96, 0x0000000000000080C0031E09, .cpyDist 3 (.dir 3) (.dir 4) (.dir 0) 0),
    (64, 0x0000000000830610, .cpwp (.dir 3) 1),
    (64, 0x0000000001030E10, .cpwait (.dir 3) 2),
    (64, 0x0000000101801610, .dpat 3 (.dir 4)),
    (96, 0x0000000E000001A3058A0619, .get (.dir 10) (.dir 11) (.dir 12) (.dir 13) (.dir 14)),
    (96, 0x0000000E001031A3058A0E19, .put .i64 .maxI (.dir 10) (.dir 11) (.dir 12) (.dir 13) (.dir 14)),
    (96, 0x0000078E000891A3058A0621, .coll .f32 .fadd (.dir 10) (.dir 11) (.dir 12) (.dir 13) (.dir 14) (.dir 15))] = true := by decide

theorem test_decode_opcD0_to_D6_1 : decodesAll [
    (64, 0x0000000000000680, .done),
    (64, 0x0000000000000E80, .yield),
    (64, 0x0000000000001680, .wfw),
    (64, 0x0000000000001E80, .lend),
    (96, 0x0000000000000000C1010689, .post (.dir 1) (.dir 2) (.dir 3)),
    (96, 0x0000000000000001420A0E89, .spawn (.dir 10) (.dir 4) (.dir 5)),
    (64, 0x0000000002800690, .ctwait (.dir 5)),
    (64, 0x000000E182800E90, .ctadd (.dir 5) (.dir 6) (.dir 7)),
    (64, 0x0000000002801690, .ctcancel (.dir 5)),
    (64, 0x0000000182811E90, .ctread (.dir 1) (.dir 5) (.dir 6)),
    (64, 0x000000E182800698, .msend (.dir 5) (.dir 6) (.dir 7)),
    (64, 0x0000000182810E98, .mrecv (.dir 1) (.dir 5) (.dir 6)),
    (64, 0x00000000000006A0, .tret),
    (64, 0x0000000002030EA0, .fqrd (.dir 3) (.dir 4)),
    (64, 0x00000000020106A8, .mset 1 (.dir 4)),
    (64, 0x0000000142020EA8, .mref 2 (.dir 4) (.dir 5)),
    (64, 0x00000000000316A8, .mclr 3),
    (64, 0x0000000141011EA8, .mrd (.dir 1) 2 (.dir 5)),
    (64, 0x00008002848006B0, .hset 0 (.dir 9) (.dir 10)),
    (64, 0x0004800305810EB0, .hmul .rdn 1 (.dir 11) (.dir 12)),
    (64, 0x00068003058216B0, .hdiv .rup 2 (.dir 11) (.dir 12)),
    (64, 0x00088000C1011EB0, .hprod .rna 1 2 3),
    (64, 0x00008000048326B0, .hscale 3 (.dir 9)),
    (64, 0x00028003408E2EB0, .hrd .rtz (.dir 14) 1 (.dir 13))] = true := by decide

theorem test_decode_opcD0_to_D6_2 : decodesAll [
    (64, 0x00008003868236B0, .hwr .rne 2 (.dir 13) (.dir 14)),
    (64, 0x0000800004803EB0, .hdeg 0 (.dir 9))] = true := by decide

theorem test_decode_opcE0_1 : decodesAll [
    (64, 0x0000006080800700, .svCtab (.dir 1) (.dir 2) (.dir 3)),
    (64, 0x0000000080800F00, .svQrec (.dir 1) (.dir 2)),
    (64, 0x0000000080801700, .svQprio (.dir 1) (.dir 2)),
    (64, 0x0000000080801F00, .svGstart (.dir 1) (.dir 2)),
    (64, 0x0000000000802700, .svTeardown (.dir 1)),
    (64, 0x0000000080802F00, .svRht (.dir 1) (.dir 2)),
    (64, 0x0000000080803700, .svDph (.dir 1) (.dir 2)),
    (64, 0x0000000080803F00, .svPtbr (.dir 1) (.dir 2)),
    (64, 0x0000000080804700, .svPtw (.dir 1) (.dir 2)),
    (64, 0x0000000080804F00, .svTinv (.dir 1) (.dir 2)),
    (64, 0x0000000080805700, .svPres (.dir 1) (.dir 2)),
    (64, 0x0000000080805F00, .svPref (.dir 1) (.dir 2)),
    (64, 0x0000006080806700, .svMigr (.dir 1) (.dir 2) (.dir 3)),
    (64, 0x0000006080806F00, .svHint (.dir 1) (.dir 2) (.dir 3)),
    (64, 0x0000006080807700, .svFq (.dir 1) (.dir 2) (.dir 3)),
    (64, 0x0000000080807F00, .svSfq (.dir 1) (.dir 2)),
    (64, 0x0000000080008700, .svFlue (.dir 2)),
    (64, 0x0000006080008F00, .svVac (.dir 2) (.dir 3)),
    (64, 0x0000000000809700, .svVrel (.dir 1)),
    (64, 0x0000000080809F00, .svPdk (.dir 1) (.dir 2)),
    (64, 0x000000000080A700, .svKill (.dir 1)),
    (64, 0x000000000080AF00, .svPrel (.dir 1)),
    (64, 0x000000608080B700, .svLspr (.dir 1) (.dir 2) (.dir 3)),
    (64, 0x000000008080BF00, .svSpb (.dir 1) (.dir 2))] = true := by decide

theorem test_decode_opcE0_2 : decodesAll [
    (64, 0x000000608080C700, .svHtab (.dir 1) (.dir 2) (.dir 3)),
    (64, 0x000000608080CF00, .svYov (.dir 1) (.dir 2) (.dir 3))] = true := by decide

/-! ### Well-formedness: one ill-formed term for each check -/

theorem test_wf_scalar : allBad short [.add .f32 (r 1) (r 2) (r 3), .abs .n32 (r 1) (r 2), .and .i32 (r 1) (r 2) (r 3),
    .sll .f32 (r 1) (r 2) (r 3), .bext .i32 (r 1) (r 2) (r 3) (r 4), .bswap .i8 (r 1) (r 2), .lea (r 1) (r 2) (r 3) 5,
    .cmpEq .b32 1 (r 2) (r 3), .addImm .i64 (r 1) (r 2) 0x400000, .li (r 1) 0x10000000000, .br 1 0x10000000000] = true
  ∧ allBad long [.addImm .i64 (r 1) (r 2) 0x40000000000000] = true ∧ allBad ⟨.w64, true⟩ [.rep 3 1] = true := by decide

theorem test_wf_memory : allBad short [.ld .b128 (.x (r 1)) (r 2) 0, .ld .i32 (.v (v 1)) (r 2) 0, .ld .b128 (.v (.s 1)) (r 2) 0,
    .ld .e4m3 (.x (r 1)) (r 2) 0, .st .i16 .rep false (.x (r 1)) (r 2) 0, .st .i32 .rep true (.x (r 1)) (r 2) 0,
    .st .i32 .addsN true (.x (r 1)) (r 2) 0, .st .f32 .add false (.x (r 1)) (r 2) 0, .st .i32 .or false (.x (r 1)) (r 2) 0,
    .ldIndexed .i32 (.x (r 1)) (r 2) (r 3) 5, .fetch .i32 .rowx (r 1) (r 2) (r 3), .fetch .b32 .ins (r 1) (r 2) (r 3),
    .gather .i32 (.s 1) (r 2) (v 3) ⟨2, false, 0⟩, .gather .b128 (v 1) (r 2) (v 3) ⟨2, false, 0⟩,
    .scatter .i32 .rep false (v 1) (r 2) (v 3) ⟨2, false, 5⟩, .ldt .b64 (v 1) (r 2) (r 3), .ldt .b32 (v 25) (r 2) (r 3),
    .unpk .f64 .e4m3 .rne (v 1) (v 2) (r 3), .unpk .f32 .f16 .rne (v 1) (v 2) (r 3), .bar .thread (r 1) 0] = true := by decide

theorem test_wf_vector : allBad short [.vaddF .i32 .rne (v 1) (v 2) (v 3), .vaddI .f32 (v 1) (v 2) (v 3), .vabsI .n8 (v 1) (v 2),
    .vand .f32 (v 1) (v 2) (v 3), .vexp .f64 .rne (v 1) (v 2), .vcmpEq .f32 (.s 1) (v 2) (v 3), .vcmpEq .b32 (v 1) (v 2) (v 3),
    .vsel .i32 (v 1) (v 2) (v 3) (v 4), .vredadd .i32 .rtz (r 1) (v 2), .vredmax .b32 (r 1) (v 2), .cvt .i8 .f32 .rne (v 1) (v 2) (r 3),
    .cvtn .f64 .rne (v 1) (v 2) (r 3) (r 4), .xmax .f64 (r 1) (v 2), .vhash .b16 (v 1) (v 2) (r 3), .vmov (.s 1) (v 2),
    .vins .b128 (v 1) (r 2) (r 3)] = true := by decide

theorem test_wf_matrix : allBad short [.mma .f32 .f64 2 (r 1) (r 2) (r 3), .mma .f64 .f64 1 (r 1) (r 2) (r 3),
    .mmas .f16 2 (r 1) (r 2) (r 3) (r 4) 0, .aadd .f16 .rne 0 2 4, .aread .f32 false .rne (v 1) 1 (r 2) (r 3),
    .aread .f64 true .rne (v 1) 1 (r 2) (.dir 0), .topk .i16 (r 1) (r 2) (r 3) (r 4), .sopen .i8 1 (r 2), .fopen .i32 1 (r 2)] = true
  ∧ allBad long [.mmas .f16 2 (r 1) (r 2) (r 3) (r 4) 4, .mmt .f32 1 (r 1) (r 2) (r 3) (r 4) (r 5) 2048,
    .mvh .f32 .f16 1 (r 1) (r 2) (r 3) (r 4) 512] = true := by decide

theorem test_wf_copies : allBad short [.get (r 1) (r 2) (r 3) (r 4) (r 5), .post (r 1) (r 2) (r 3)] = true
  ∧ allBad long [.cpyLl 0 (r 1) (r 2) (r 3) (r 4) 0, .cpyLl 0 (r 1) (r 2) (r 3) (r 4) 2, .put .i16 .rep (r 1) (r 2) (r 3) (r 4) (r 5),
    .coll .b32 .or (r 1) (r 2) (r 3) (r 4) (r 5) (r 6), .coll .f32 .add (r 1) (r 2) (r 3) (r 4) (r 5) (r 6),
    .coll .i32 .rep (r 1) (r 2) (r 3) (r 4) (r 5) (r 6)] = true := by decide

/-! ### Witnesses: what the hypotheses of each statement are met by, clause by clause -/

theorem test_witness_wordsDecode : (∀ e : Ev, e.instr ≠ Instr.nop) ∧ Instr.nop.wf short = true :=
  ⟨fun e => by cases e <;> exact nofun, rfl⟩

theorem test_witness_stepsKeepMemories : State.reset.memOk ∧ ∃ t, step State.reset = .next t :=
  ⟨⟨rfl, rfl, fun _ => rfl, rfl⟩, _, rfl⟩

theorem test_witness_instructionGoesOn : ({ base with stuck := some (.noMemory 0) } : State).stuck = some (.noMemory 0) := rfl

/-- A slot of the state may be polled: it is ready, and goes on with nothing. -/
def fresh (s : State) : Bool :=
  let t := s.thr 0 0
  s.ready 0 0 && t.trapReq.isNone && t.blocked.isNone && !t.repLive

theorem test_witness_stepRuns :
    let w := base.fetchAt 0 0 0x10000 me
    let q := w.1.repeated 0 0 ⟨.w64, true⟩ .nop 0x10000
    fresh base = true ∧ w.2 = .word .w64 0xC ∧ decodeWord .w64 0xC = some (⟨.w64, true⟩, .nop) ∧ q.2 = none
      ∧ prefixBad .nop q.2 = false ∧ (q.1.thr 0 0).issueCheck ⟨.w64, true⟩ .nop 0xC = none ∧ q.1.notYet 0 0 .nop = none := by
  decide +kernel

/-- The search of `base` in its barrel turn finds the thread's instruction. -/
def turn : Option (Nat × Nat × Next) :=
  ((now { base with agenda := [], issue := none } (.barrelIssue 0)).search 0
    ((List.range 16).map fun j => ((base.coreAt 0).rot.toNat + j) % 16)).2

theorem test_witness_barrelTurn : base.stuck = none ∧ base.agenda = [.barrelIssue 0]
    ∧ (match turn with
      | some (0, 0, .go iss) => iss.instr == .nop
      | _ => false) = true
    ∧ (match (base.poll 0 0).2 with
      | some _ => !((base.poll 0 0).1.thr 0 0).lend
      | none => false) = true := by decide +kernel

theorem test_witness_barrelSearch : base.ready 0 1 = false ∧ ∀ k ∈ [1, 2, 15], base.ready 0 k = false ∧ (base.thr 0 k).lend = false := by
  decide +kernel

/-- `base` with another word at the pc, whose fetch block a step reads, and with poisoned granules. -/
def fetching (w : Nat) (off : Nat) (psn : List Nat) : State :=
  let s := State.reset.withFetchWord 64 0
  { s with
    mem := Memory.writeN s.mem (0x100000 + off) (leBytes 16 w), poison := psn, agenda := []
    cores := put s.cores 0 { s.coreAt 0 with threads := put [] 0 { fetchThread with pc := BitVec.ofNat 57 (0x10000 + off) } } }

theorem test_witness_fetchChecks :
    let blk (w off : Nat) (psn : List Nat) (p : Nat → (Nat → Bool) → Bool) : Bool :=
      okAnd ((fetching w off psn).fetchBlock 0 0 (0x10000 + off) me).2 fun b =>
        p (b.v / 2 ^ (8 * off)) fun i => b.psn.getD (off / 4 + i) false
    blk 0xB 0 [] (fun w _ => w % 4 == 3) = true ∧ blk 0xA 20 [] (fun w _ => w % 4 == 2 && 32 < 20 + 16) = true
      ∧ blk 8 24 [] (fun w bad => w % 4 == 0 && !bad 0 && !bad 1) = true
      ∧ blk 8 0 [0x40000, 0x40001] (fun w bad => w % 4 == 0 && bad 0 && bad 1) = true
      ∧ blk 8 0 [0x40001] (fun w bad => w % 4 == 0 && !bad 0 && bad 1) = true := by decide +kernel

theorem test_witness_issueChecks :
    let w (s : State) (n : Nat) : Bool := (s.fetchAt 0 0 0x10000 me).2 == .word .w64 n
    fresh (fetching 8 0 []) = true ∧ fresh (fetching 0xB 0 []) = true ∧ w (fetching 8 0 []) 8 = true ∧ w (fetching 0 0 []) 0 = true
      ∧ ((fetching 0xB 0 []).fetchAt 0 0 0x10000 me).2 = .fault .illegalLen 0x10000
      ∧ decodeWord .w64 8 = some (⟨.w64, false⟩, .nop) ∧ decodeWord .w64 0 = none ∧ (issued .nop 0).cur.iss.pipe = false := by
  decide +kernel

theorem test_witness_controlTransfers : ((regs (issued (.jr (r 2)) 0) [(2, 0x10FFC)]).x (r 2)) &&& 3 = 0
    ∧ ((regs (issued (.jr (r 2)) 0) [(2, 0x10FFD)]).x (r 2)) &&& 3 ≠ 0 ∧ (issued .tret 0).me.intrap = false
    ∧ (modded (issued .tret 0) fun t => { t with intrap := true }).me.intrap = true := by decide +kernel

theorem test_witness_threadState :
    (regs (issued (.mtts .stallhw (r 2)) 0) [(2, 128)]).x (r 2) = 128 ∧ (regs (issued (.mtts .stallhw (r 2)) 0) [(2, 129)]).x (r 2) = 129
    ∧ (regs (issued (.mtts .stallage (r 2)) 0) [(2, 63)]).x (r 2) = 63 ∧ TReg.tcause ≠ .tepc := by decide +kernel

theorem test_witness_groupsEnd : (∀ w ∈ [⟨0, Dest.x 63, some 7⟩, ⟨1, .x 0, some 9⟩], ∀ e, PendW.dest w = .x e → e < 64)
    ∧ (let t := (modded base fun t => { t with pend := [⟨0, .x 63, some 7⟩, ⟨1, .tret, some 0x2000⟩], wait := .parked }).thr 0 0
      t.status = .running ∧ t.wait = .parked ∧ (∀ w ∈ t.pend, w.val ≠ none)
        ∧ t.pend.find? (fun w => w.dest == .tret) = some ⟨1, .tret, some 0x2000⟩)
    ∧ (base.thr 0 0).pend = [] ∧ (base.thr 0 0).copFault = none ∧ (base.thr 0 0).padPend = none ∧ (base.thr 0 0).heldLate = []
    ∧ (modded base fun t => { t with copFault := some (3, false) }).me.copFault = some (3, false)
    ∧ (modded base fun t => { t with padPend := some 2303 }).me.padPend = some 2303
    ∧ ∀ c ∈ [Cause.mergeOp, .guard, .conservation], (modded base fun t => { t with heldLate := [c] }).me.heldLate = [c] := by
  refine ⟨fun w h e he => ?_, by decide +kernel⟩
  rcases List.mem_cons.1 h with rfl | h
  · cases he; decide
  · rw [List.mem_singleton.1 h] at he; cases he; decide

theorem test_witness_trapEntry :
    let at' (n : BitVec 57) : State := base.modIo fun io => { io with tha := put [] 0 n }
    look (at' 0).io.tha 0 0 = 0 ∧ look (at' 0x2000).io.tha 0 0 = 0x2000 ∧ find? (at' 0).io.thaWas 0 = none
    ∧ (base.thr 0 0).intrap = false ∧ (modded base fun t => { t with intrap := true }).me.intrap = true
    ∧ (∃ w ∈ (modded base fun t => { t with pend := [⟨0, .x 1, none⟩] }).me.pend, w.val = none)
    ∧ (let s := base.modIo fun io => { io with thaWas := put [] 0 (base.now, 0x3000) }
      find? s.io.thaWas 0 = some (s.now, 0x3000)) := by decide +kernel

theorem test_witness_localStore :
    let s := issued (.ldLs .b128 (.v (v 1)) (r 0) 0) 0
    let ok (o n bit : Nat) : Bool := decide (o + n ≤ s.myCore.spbase.toNat) && (List.range 8).any fun i =>
      let v := look s.myCore.lspr i 0
      v.getLsbD 30 && v.getLsbD bit && v.toNat / 2 ^ 31 % 2 ^ 9 == s.me.cr.ctx.toNat
        && decide (64 * (v.toNat / 2 ^ 52) ≤ o ∧ o + n ≤ 64 * (v.toNat / 2 ^ 40 % 2 ^ 12) + 64)
    ok 0x1FFF0 16 28 = true ∧ ok 0x1FFF0 16 29 = true ∧ ok 0x1FFF4 16 28 = false ∧ (0x1FFFE : Nat) % 4 ≠ 0 := by decide +kernel

/-- A handle of core 0's first thread, or of another. -/
def handled (v : BitVec 64) (p : Nat) : State :=
  (regs (issued (.htake (r 1) (r 2)) p) [(2, 511), (3, 127)]).modCluster 0 fun c => { c with htab := put [] 511 v }

/-- Handles of 128 bytes: of the thread's own, and of another thread. -/
def mine : BitVec 64 := BitVec.ofNat 64 (2 ^ 49 * 0x801 + 2 ^ 37 * 2 + 2 ^ 20)
def others : BitVec 64 := BitVec.ofNat 64 (2 ^ 49 * 0xFBD + 2 ^ 37 * 2 + 2 ^ 33 * 5 + 2 ^ 20)

/-- A handle names the first thread of the supervisor's context. -/
def names (v : BitVec 64) : Bool := v.toNat / 2 ^ 21 % 2 ^ 9 == 0 && v.toNat / 2 ^ 30 % 2 ^ 3 == 0 && v.toNat / 2 ^ 33 % 2 ^ 4 == 0

theorem test_witness_handleAccesses :
    (((handled mine 0).x (r 2)).setWidth 16).toNat = 511 ∧ (handled mine 0).handleOk 0 mine = true ∧ names mine = true
    ∧ (handled others 0).handleOk 0 others = true ∧ names others = false ∧ find? ((handled mine 0).clusterAt 0).gave 511 = none
    ∧ mine.toNat / 2 ^ 37 % 2 ^ 12 = 2
    ∧ (let u := (handled mine 0).modCluster 0 fun c => { c with gave := put [] 511 ((handled mine 0).now, others) }
      find? (u.clusterAt 0).gave 511 = some (u.now, others))
    ∧ (∀ o ∈ [(-65 : Int), 192], o < -64 ∨ 64 * 2 + 64 ≤ o) ∧ (∀ o ∈ [(-64 : Int), -1, 128, 191], ¬ (o < -64 ∨ 64 * 2 + 64 ≤ o))
    ∧ (∀ o ∈ [(0 : Int), 127], 0 ≤ o ∧ o < 64 * 2) := by decide +kernel

/-- A load of one word at an address, issued. -/
def loading (n : Word) : State := regs (issued (.ld .i32 (.x (r 1)) (r 2) 0) 0) [(2, n)]

theorem test_witness_globalLoads :
    (loading 0x10000).phase = 0 ∧ Ty.i32 ≠ .f32
    ∧ (let s := loading 0x10000
      let l : Lane := ⟨0x10000, none, dwsOf 0x10000 4⟩
      ((s.x (r 2) + 0).setWidth 57).toNat = 0x10000 ∧ okAnd (s.lanesOf 0 .i32 [0x10000]).2 (· == [l]) = true ∧ l.ea % alignOf .i32 = 0
        ∧ s.me.streamsDone = true ∧ (l.dws.all fun x => s.strong x == false) = true
        ∧ okAnd (s.loadDws 0 0 0 l.dws).2 (fun ds => (laneValue ds .i32 l).2.1 == false) = true)
    ∧ (let s := loading 0x10002
      okAnd (s.lanesOf 0 .i32 [0x10002]).2
        (fun ls => (ls.filter fun l => l.dec.isNone && l.ea % alignOf .i32 != 0).map Lane.ea == [0x10002]) = true)
    ∧ base.hbmErr = [] ∧ Memory.wf base.mem = true := by decide +kernel

/-- A thread with a load on its way back. -/
def returning (v : Option Val) : State :=
  base.modThr 0 0 fun t =>
    { t with loads := [{ tag := 3, core := 0, die := 0, keys := [], va := 0x10000, val := v, flags := 0, fills := [] }], pend := [⟨3, .x 1, none⟩], wait := .parked }

theorem test_witness_loadReturns (v : Option Val) :
    (((returning v).thr 0 0).loads.find? (fun x => x.tag == 3)).map Load.val = some v
    ∧ ∀ w ∈ ((returning v).thr 0 0).pend ++ ((returning v).thr 0 0).gwb, w.tag = 3 → ∀ r, w.dest ≠ .w r := by
  refine ⟨rfl, fun w h _ r => ?_⟩
  rw [List.mem_singleton.1 (show w ∈ [⟨3, Dest.x 1, none⟩] from h)]
  exact nofun

theorem test_witness_globalStores :
    let i : Instr := .st .i32 .rep false (.x (r 1)) (r 2) 0
    let s := regs (issued i 0) [(1, 5), (2, 0x10000)]
    let e := tryAppend [] (⟨0x4000, .rep, false, true, false, false, 0, 0, 5, 0, [2], 0, false⟩ : Entry)
    s.phase = 0 ∧ s.me.streamsDone = true ∧ s.strong 0x10000 = false ∧ MOp.rep.isFx = false
      ∧ (s.emitAll 0 0 .rep false [(0x10000, false, 5)]).isSome = true ∧ e.2.isNone = true ∧ e.1.length ≤ 4
      ∧ s.myCore.stall = [] ∧ ([0x10002, 0x10001].filter fun ea => ea % 4 != 0) = [0x10002, 0x10001] := by decide +kernel

/-- Two updates of one key and width. -/
def update (op : MOp) (v : BitVec 128) (e : BitVec 8) (t : Bool) : Entry :=
  ⟨0x4000, op, false, false, t, false, e, 0, v, 0, [], 0, false⟩

theorem test_witness_updatesCombine (op : MOp) (v : BitVec 128) :
    (let x := update op 0xFFFFFFFF 1 true
      let y := update op v 1 true
      x.key = y.key ∧ x.w = y.w ∧ x.tent = false ∧ y.tent = false ∧ x.mark = false ∧ y.mark = false ∧ x.op = y.op
        ∧ x.trp = y.trp ∧ x.wexp = y.wexp)
    ∧ (update .add 1 0 false).op ≠ (update .or 1 0 false).op ∧ (update .rowx 1 0 false).wexp ≠ (update .rowx 1 1 false).wexp
    ∧ (update .rep 1 0 false).op = .rep ∧ (update .add 1 0 false).op ≠ .rowx ∧ (update .add 1 0 false).op ≠ .ins
    ∧ (update .ins 1 0 false).op = .ins ∧ (update .add 1 0 false).op ≠ .rep :=
  ⟨⟨rfl, rfl, rfl, rfl, rfl, rfl, rfl, rfl, rfl⟩, nofun, nofun, rfl, nofun, nofun, rfl, nofun⟩

/-- A `fetch` of a thread whose page is there. -/
def fetching32 (p : Nat) : State := regs (issued (.fetch .i32 .add (r 1) (r 2) (r 3)) p) [(2, 0x10000), (3, 1)]

theorem test_witness_fetchInstruction :
    Ty.i32 ≠ .b128 ∧ (fetching32 0).phase = 0 ∧ (fetching32 1).phase = 1 ∧ (fetching32 2).phase = 2 ∧ 3 ≤ (fetching32 3).phase
    ∧ (fetching32 2).me.mate = none ∧ (fetching32 2).me.window = [] ∧ (fetching32 2).me.closed = []
    ∧ (fetching32 2).myCore.stall = [] ∧ ((fetching32 2).clusterAt 0).shed = []
    ∧ (modded (fetching32 3) fun t => { t with reply := some 7 }).me.reply = some 7
    ∧ (((fetching32 0).x (r 2)).setWidth 57).toNat % Ty.i32.bytes = 0
    ∧ ((regs (fetching32 0) [(2, 0x10001)]).x (r 2)).toNat % Ty.i32.bytes ≠ 0 := by decide +kernel

/-- The step at home of a `fetch`, with so many poisoned granules. -/
def homing (psn : List Nat) : State :=
  let s := modded (fetching32 2) fun t => { t with blocked := some (fetching32 2).cur.iss }
  { s with ev := .fetchHomeStep 0 0, poison := psn }

theorem test_witness_fetchAtHome : ∀ psn ∈ [[], [0x40000]],
    let s := homing psn
    let die := (s.route 0 0x10000).home
    let u := (s.xlate die 0 0x10000 .wr).1
    (s.thr 0 0).blocked = some s.cur.iss ∧ s.cur.iss.instr = .fetch .i32 .add (r 1) (r 2) (r 3) ∧ (s.thr 0 0).mate = none
      ∧ (s.dieAt die).frozen = [] ∧ (s.dieAt die).heldAt = [] ∧ MOp.add.isFx = false
      ∧ (match (s.xlate die 0 0x10000 .wr).2 with
        | .ok pa leaf _ _ => pa == 0x100000 && (u.sectorRead (pa / 64) (.core 0 false (u.endedToken 0 0))).2 == false
          && ((combineLevels (u.homeDw leaf pa) (u.homeLevels die 0x4000 [])).element 0x4000 false).2 == !psn.isEmpty
          && (u.route 0 0x10000).ord == leafOrd leaf
        | _ => false) = true := by decide +kernel

theorem test_witness_transposedLoad :
    let ok (a p : Word) : Bool :=
      let s := regs (issued (.ldt .b32 (v 0) (r 2) (r 3)) 0) [(2, a), (3, p)]
      (List.range 16).all fun row => (List.range 4).all fun col =>
        s.myCore.lsOk s.me.cr.ctx (a + BitVec.ofNat 64 row * p + BitVec.ofNat 64 (col * 4)).toNat 4 false
    (∀ q, v 0 ≠ .s q) ∧ ok 0 16 = true ∧ ok 0x1FF00 16 = true ∧ ok 0x1FF04 16 = false ∧ base.hbmErr = []
      ∧ Memory.wf base.mem = true :=
  ⟨nofun, by decide +kernel, by decide +kernel, by decide +kernel, rfl, rfl⟩

/-- Images, messages and records that an instruction names in the local store. -/
def imaging (n : Word) : State := regs (issued (.svQrec (r 1) (r 2)) 0) [(2, n)]

/-- A commit that its prepare is asked for. -/
def preparing (i : Instr) : State :=
  modded (issued i 1) fun t => { t with commit := .preparing, blocked := some (issued i 1).cur.iss }

theorem test_witness_commitsBegin :
    (issued .commit 0).phase = 0 ∧ (issued .commit 0).me.window = []
    ∧ (let t := (issued .commit 0).me
      t.loads = [] ∧ t.sosOut = 0 ∧ t.flip = none ∧ (∀ w ∈ t.pend, w.val ≠ none) ∧ t.arRel = none ∧ t.streamsDone = true)
    ∧ (modded (issued .commit 0) fun t => { t with sosOut := 1 }).me.sosOut ≠ 0
    ∧ (imaging 0x1FFE0).phase = 0 ∧ 0x1FFE0 % 32 = 0 ∧ (imaging 0x1FFE0).myCore.lsOk 0 0x1FFE0 32 false = true
    ∧ ((imaging 0x1FFE1).x (r 2)).toNat % 32 ≠ 0 ∧ (imaging 0x1FFC0).myCore.lsOk 0 0x1FFC0 64 true = true
    ∧ (imaging 0x20000).myCore.lsOk 0 0x20000 32 false = false := by decide +kernel

theorem test_witness_prepareAnswers : ∀ i ∈ [Instr.msend (r 1) (r 2) (r 3), .commit],
    ((preparing i).thr 0 0).commit = .preparing ∧ ((preparing i).thr 0 0).pipeCommit = none
      ∧ ((preparing i).thr 0 0).blocked = some (issued i 1).cur.iss ∧ (issued i 1).cur.iss.pipe = false
      ∧ ((preparing i).thr 0 0).forwarded = true ∧ (preparing i).entriesOf ((preparing i).token 0 0) = []
      ∧ (base.thr 0 0).commit ≠ .preparing := by decide +kernel

/-- A prepare of a task that has written one page. -/
def probing (va : Nat) : State :=
  (preparing .commit).modMyCore fun c =>
    { c with stall := [{ update .rep 1 0 false with key := keyOf 0 va, tent := true, task := me }] }

theorem test_witness_prepareProbes :
    let home := (base.route 0 0x10000).home
    pagesOf ((probing 0x10000).entriesOf me) = [(0, 0x10000)] ∧ ((probing 0x10000).dieAt home).isFrozen 0 0x10000 = false
    ∧ found ((probing 0x10000).xlate home 0 0x10000 .wr).2 = true ∧ absent ((probing 0x11000).xlate home 0 0x11000 .wr).2 = true
    ∧ pagesOf ((probing 0x11000).entriesOf me) = [(0, 0x11000)] ∧ (probing 0x11000).waitRoom home 0 0x11000 = true
    ∧ ((probing 0x11000).modDie home fun d => { d with waits := (List.range 256).map fun i => ⟨0, 100 + i, []⟩ }).waitRoom home 0 0x11000 = false
    ∧ (((probing 0x10000).modDie home fun d => { d with frozen := [(0, 0x10, 1)] }).dieAt home).isFrozen 0 0x10000 = true := by
  decide +kernel

theorem test_witness_commitsFlip : (issued .commit 1).phase ≠ 0 ∧ (base.thr 0 0).mergePend = none
    ∧ (modded base fun t => { t with mergePend := some 0 }).me.mergePend = some 0
    ∧ (∀ x ∈ base.dies, ∀ y ∈ x.2.dset, ¬ (y.tent = true ∧ y.task = me))
    ∧ (let x := update .faddx 1 0 false
      let y := { update .faddx 2 0 false with tent := true, task := me }
      ((base.modDie 3 fun d => { d with dset := [x, y] }).dieAt 3).dset = [x, y] ∧ x.tent = false ∧ y.tent = true
        ∧ ((combine x { y with tent := false }).map Prod.snd) = some false) := by decide +kernel

/-- A release of so wide a scope, at a phase. -/
def releasing (sc : Scope) (p : Nat) : State := issued (.fenceRel sc) p

/-- A `put` of the unit is not answered yet. -/
def putting (s : State) : State := s.modIo fun io => { io with puts := [⟨0, 0, 0, 2, []⟩] }

theorem test_witness_fences :
    (releasing .system 5).me.mergePend = none ∧ (releasing .system 5).phase = 5 ∧ (releasing .system 5).putsLeft 0 0 = false
    ∧ (putting (releasing .system 5)).putsLeft 0 0 = true ∧ Scope.device ≠ .system
    ∧ (issued (.fenceAcq .die) 0).me.loads = [] ∧ (issued (.fenceAcq .die) 0).me.streamsDone = true
    ∧ (modded base fun t => { t with copq := [{ Issue.none with instr := .vmov (.s 1) (v 2) }] }).me.streamsDone = false
    ∧ ((returning none).thr 0 0).loads ≠ [] ∧ (∀ p ∈ [1, 2, 3], (releasing .die p).phase = p)
    ∧ Scope.cluster ≠ .thread ∧ Scope.cluster ≠ .core := by decide +kernel

theorem test_witness_barriers :
    let i : Instr := .bar .core (r 1) 0
    (issued i 6).phase = 6 ∧ (issued i 7).phase = 7 ∧ (issued i 7).me.consPend = none ∧ (issued i 7).me.mergePend = none
    ∧ (issued i 7).me.guard.pending = false ∧ (issued i 7).me.intrap = false ∧ (issued i 7).cur.iss.hdr.sw = false
    ∧ (issued i 7).repeats = false ∧ (modded (issued i 7) fun t => { t with consPend := some 1 }).me.consPend = some 1
    ∧ (modded (issued i 7) fun t => { t with mergePend := some 0 }).me.mergePend = some 0 := by decide +kernel

/-- A thread that arrives at a point of its core, with generations there. -/
def arriving (l : List Gen) : State :=
  (modded base fun t => { t with barAt := some (.core 0, 3), wait := .barrier }).modMyCore fun c => { c with bars := l }

theorem test_witness_barrierArrives :
    let a : Arrival := ⟨0, 0, 1, 0, []⟩
    let g : Gen := ⟨0, 3, 2, [a]⟩
    ((arriving []).thr 0 0).barAt = some (.core 0, 3) ∧ (base.thr 0 0).barAt ≠ some (.core 0, 3)
    ∧ (arriving [g]).barsAt (.core 0) = [g] ∧ (g.ctx == 0 && g.g == 3) = true ∧ g.arrivals.length < 2
    ∧ (arriving []).barsAt (.core 0) = [] ∧ a.n.toNat ≤ 1
    ∧ ((arriving (List.replicate 16 ⟨0, 4, 2, []⟩)).barsAt (.core 0)).length = 16
    ∧ ([a, a] : List Arrival).length = 2 ∧ (∀ x ∈ [a, { a with core := 2303 }], x.core < 2304) := by decide +kernel

/-- A request of a drain of the thread's page, at a place. -/
def draining (p : DrainAt) : DrainReq := ⟨p, 0, 0x10000, 4, .device, true, 0, 0⟩

theorem test_witness_drains :
    (issued (.drain .die (r 1) (r 2)) 1).phase ≠ 0 ∧ ((issued (.drain .die (r 1) (r 2)) 0).x (r 2)).toNat % 2 ^ 32 = 0
    ∧ (let s := regs (issued (.drain .die (r 1) (r 2)) 0) [(1, 0x10000), (2, 4)]
      (s.x (r 2)).toNat = 4 ∧ s.phase = 0 ∧ s.me.window = [] ∧ s.me.closed = [] ∧ s.myCore.stall = [])
    ∧ (base.dieAt 3).yard = [] ∧ (base.dieAt 3).blocks = [] ∧ (base.dieAt 3).dset = []
    ∧ (let x : Entry := { update .rep 5 0 false with task := noTask }
      let s := base.modDie 0 fun d => { d with yard := [x] }
      (s.dieAt 0).yard = [x] ∧ (s.dieAt 0).blocks = [] ∧ (s.dieAt 0).dset = [] ∧ (s.dieAt 0).waits = [] ∧ x.tent = false ∧ x.op = .rep
        ∧ x.w = false ∧ x.psn = false ∧ x.trp = false ∧ s.loadsOut = [] ∧ s.hbmErr = []
        ∧ (x.ctx == (draining (.yard 0)).ctx.toNat && decide ((draining (.yard 0)).base < x.va + 4 ∧ x.va < 0x10000 + 4)) = true
        ∧ found ((({ s with ev := .drainRequestArrival (draining (.yard 0)) } : State).modDie 0 fun y => { y with yard := [] }).xlate 0
          x.ctx x.va .wr).2 = true) := by decide +kernel

theorem test_witness_handlesMove :
    ((handled mine 0).x (r 3)).toNat < 128 ∧ (((handled mine 0).x (r 2)).setWidth 16).toNat < 512 ∧ (handled mine 0).me.lsDone = true
    ∧ (modded (handled mine 0) fun t => { t with window := [⟨[], none, [], none, some (0, 0, [])⟩] }).me.lsDone = false
    ∧ (handled others 0).me.cancelled = false ∧ (handled 0 1).handleOk 0 0 = false ∧ (handled 0 1).phase = 1 ∧ (handled 0 0).phase ≠ 1 := by
  decide +kernel

theorem test_witness_engineFences :
    (issued (.fenceX .co .cp) 0).phase = 0 ∧ (issued (.fenceX .co .cp) 1).phase ≠ 0
    ∧ (let t := (issued (.fenceX .co .cp) 0).me
      t.loads = [] ∧ t.sosOut = 0 ∧ t.streamsDone = true ∧ t.lsDone = true ∧ t.copq ++ t.inflight = []
        ∧ t.window ++ t.closed.flatten = [] ∧ t.mate = none)
    ∧ base.io.flue = none ∧ base.io.gets = [] ∧ (base.coreAt 0).colls = [] ∧ (base.coreAt 0).chan = []
    ∧ (modded base fun t => { t with sosOut := 1 }).me.sosOut ≠ 0
    ∧ (base.modIo fun io => { io with flue := some ⟨0, 0x10, 1, 0, 0, 0⟩ }).io.flue ≠ none := by decide +kernel

/-- A committed `rep` of the thread's page in die 0's yard, of the unit. -/
def yarded : State := base.modDie 0 fun d => { d with yard := [{ update .rep 5 0 false with units := [2] }] }

theorem test_witness_acknowledgements :
    (∀ x ∈ (base.dieAt 0).yard ++ (base.dieAt 0).blocks.flatten, ¬ (x.tent = false ∧ x.op.isFx = false ∧ 2 ∈ x.units))
    ∧ (base.dieAt 0).waits = []
    ∧ (let x : Entry := { update .rep 5 0 false with units := [2] }
      (yarded.dieAt 0).yard = [x] ∧ (yarded.dieAt 0).blocks = [] ∧ x.tent = false ∧ x.op.isFx = false ∧ 2 ∈ x.units ∧ x.op = .rep
        ∧ x.w = false ∧ x.psn = false ∧ x.trp = false ∧ yarded.loadsOut = [] ∧ yarded.hbmErr = []
        ∧ found ((({ yarded with ev := .releaseApply 0 2 0 0 } : State).modDie 0 fun y => { y with yard := [] }).xlate 0 x.ctx x.va .wr).2 = true)
    ∧ (base.thr 0 0).status ≠ .free ∧ (base.thr 0 0).mate = none ∧ (base.thr 0 0).cr.owner = 2 ∧ (base.thr 0 0).sosOut = 0
    ∧ (base.thr 0 1).status = .free := by decide +kernel

/-- Two slots that run a pair's copies. -/
def mated : State :=
  let x : Core := { Core.reset with threads := put [] 0 { fetchThread with mate := some (0, 0) } }
  let y : Core := { base.coreAt 0 with threads := put [] 0 { fetchThread with mate := some (24, 0) } }
  { base with cores := put (put [] 24 x) 0 y }

theorem test_witness_aborts :
    let e (s : State) : State := { s with ev := .taskAbort 0 0 .kill }
    (mated.thr 0 0).mate = some (24, 0) ∧ (mated.thr 0 0).status ≠ .free ∧ (((e mated).abortEnd 0 0 .kill).thr 24 0).mate = some (0, 0)
    ∧ ((modded base fun t => { t with barAt := some (.core 0, 3) }).thr 0 0).barAt = some (.core 0, 3)
    ∧ (∀ x ∈ yarded.dies, ∀ y ∈ x.2.blocks.flatten ++ x.2.yard, y.mark = false ∨ y.op.isFx = true)
    ∧ base.token 0 0 = me ∧ (base.thr 0 0).status ≠ .free ∧ base.turn = 0 ∧ mated.turn = 0
    ∧ (let s : State := { modded base fun t => { t with barAt := some (.core 0, 3) } with turn := 1 }
      s.turn ≠ 0 ∧ (s.thr 0 0).barAt ≠ none ∧ (s.thr 0 0).status ≠ .free) := by decide +kernel

/-- No vector operand of the instruction is a stream. -/
def noStreams (i : Instr) : Bool := i.vregs.all VReg.plain

/-- `InPipe` of an instruction without stream operands. -/
theorem inPipe {i : Instr} {s : State} (h : s.cur.iss.pipe = true) (e : s.cur.iss.instr = i) (n : noStreams i = true) : InPipe i s := by
  refine ⟨h, e, fun x hx q hq => ?_⟩
  have := List.all_eq_true.1 n x hx
  rw [hq] at this
  exact absurd this nofun

theorem test_witness_coprocessorEnters :
    let i : Instr := .vmov (v 1) (v 2)
    isVector i = true ∧ (issued i 0).cur.iss.instr = i ∧ (issued i 0).cur.iss.pipe = false ∧ VReg.v 2 ∈ i.vregs
    ∧ isMatrix (.azero 1) = true ∧ (issued i 0).me.copq.length < 8
    ∧ (modded (issued i 0) fun t => { t with copq := List.replicate 8 Issue.none }).me.copq.length = 8 := by decide

/-- A thread with an instruction in its queue, in a pipe, with its results, and with one that is held and may go on. -/
def queued : State := modded base fun t => { t with copq := [{ Issue.none with instr := .azero 1, pipeNo := 2, pipe := true }] }
def inflight : State := modded base fun t =>
  { t with inflight := [{ Issue.none with instr := .azero 1, pipeNo := 2, seq := 4 }], results := [(4, [(9, 5)], 1)] }
def finished : State := modded base fun t => { t with results := [(4, [], 1)] }
def resumed : State := modded base fun t =>
  { t with inflight := [{ Issue.none with instr := .azero 1, pipeNo := 2, pipe := true, phase := 2, seq := 4 }] }

theorem test_witness_coprocessorRuns :
    base.copGo 0 = none ∧ (queued.thr 0 0).faultPipes = []
    ∧ queued.copGo 0 = some (0, { Issue.none with instr := .azero 1, pipeNo := 2, pipe := true }, true)
    ∧ (3 : Nat) < 4 ∧ ((finished.thr 0 0).results.find? fun x => x.1 == 4) = some (4, [], 1) ∧ (finished.thr 0 0).shortDue = false
    ∧ ((inflight.thr 0 0).results.find? fun x => x.1 == 4) = some (4, [(9, 5)], 1)
    ∧ (inflight.thr 0 0).pend ++ (inflight.thr 0 0).gwb = []
    ∧ ((inflight.thr 0 0).inflight.find? fun x => x.seq == 4) = some { Issue.none with instr := .azero 1, pipeNo := 2, seq := 4 }
    ∧ ((base.thr 0 0).results.find? fun x => x.1 == 4) = none ∧ ((base.thr 0 0).inflight.find? fun x => x.seq == 4) = none := by
  decide +kernel

theorem test_witness_coprocessorHeads :
    queued.heads 0 = [(0, { Issue.none with instr := .azero 1, pipeNo := 2, pipe := true })]
    ∧ (match resumed.copGo 0 with
      | some (0, i, false) => (resumed.thr 0 0).inflight.any (·.seq == i.seq)
      | _ => false) = true := by decide +kernel

theorem test_witness_vectorLanes : InPipe (.vaddF .f32 .rne (v 1) (v 2) (v 3)) (piped (.vaddF .f32 .rne (v 1) (v 2) (v 3)) [])
    ∧ InPipe (.vexp .f32 .rne (v 1) (v 2)) (piped (.vexp .f32 .rne (v 1) (v 2)) [])
    ∧ InPipe (.vcmpLt .f32 (v 1) (v 2) (v 3)) (piped (.vcmpLt .f32 (v 1) (v 2) (v 3)) [])
    ∧ InPipe (.vsra .i8 (v 1) (v 2) (v 3)) (piped (.vsra .i8 (v 1) (v 2) (v 3)) [])
    ∧ InPipe (.vhash .b32 (v 1) (v 2) (r 3)) (piped (.vhash .b32 (v 1) (v 2) (r 3)) [])
    ∧ InPipe (.vmov (v 1) (v 2)) (piped (.vmov (v 1) (v 2)) [])
    ∧ InPipe (.unpk .f32 .tw8 .rne (v 1) (v 2) (r 3)) (piped (.unpk .f32 .tw8 .rne (v 1) (v 2) (r 3)) [])
    ∧ InPipe (.cvt .f32 .f16 .rne (v 1) (v 2) (r 3)) (piped (.cvt .f32 .f16 .rne (v 1) (v 2) (r 3)) [])
    ∧ Ty.f16.bytes ≤ Ty.f32.bytes ∧ Ty.f16.bytes < Ty.f32.bytes :=
  ⟨inPipe rfl rfl rfl, inPipe rfl rfl rfl, inPipe rfl rfl rfl, inPipe rfl rfl rfl, inPipe rfl rfl rfl, inPipe rfl rfl rfl,
    inPipe rfl rfl rfl, inPipe rfl rfl rfl, by decide, by decide⟩

/-- A cluster whose long contexts, but for the last so many, are taken. -/
def crowded (n : Nat) (q : List (Nat × Nat)) : State :=
  (issued .vmodeLong 0).modCluster 0 fun c => { c with longOwner := (List.range n).map fun i => (i, 1, i), longQ := q }

theorem test_witness_vectorModes :
    (issued .vmodeLong 0).me.mode = false ∧ (issued .vmodeLong 0).me.lgrant = none ∧ (issued .vmodeLong 0).me.shortDue = false
    ∧ (modded base fun t => { t with long := true }).me.mode = true
    ∧ (modded base fun t => { t with lgrant := some 7 }).me.lgrant.isSome = true
    ∧ (modded base fun t => { t with shortDue := true }).me.shortDue = true
    ∧ ((crowded 7 []).clusterAt 0).longQ = [] ∧ find? ((crowded 7 []).clusterAt 0).longOwner 7 = none
    ∧ (∀ j < 7, find? ((crowded 7 []).clusterAt 0).longOwner j ≠ none)
    ∧ (∀ j < 8, find? ((crowded 8 []).clusterAt 0).longOwner j ≠ none) ∧ (crowded 8 []).me.cancelled = false
    ∧ ((crowded 0 [(2, 3)]).clusterAt 0).longQ = (2, 3) :: [] ∧ find? ((crowded 0 [(2, 3)]).clusterAt 0).longOwner 0 = none := by
  decide

theorem test_witness_reductions :
    InPipe (.vredadd .i32 .rne (r 1) (v 2)) (piped (.vredadd .i32 .rne (r 1) (v 2)) [])
    ∧ Ty.i32.isInt = true ∧ Ty.f32.isInt = false
    ∧ (let p := piped (.vbcmp (r 1) (v 2) (v 3) (r 4)) [(4, 32)]
      let s : State := { p with cur := ⟨0, 0, { p.cur.iss with vs := [(v 2, 1)] }⟩ }
      InPipe (.vbcmp (r 1) (v 2) (v 3) (r 4)) s ∧ laneAt 1 (s.vec (v 2)) 0 ≠ laneAt 1 (s.vec (v 3)) 0
        ∧ ∀ j, j < 0 → laneAt 1 (s.vec (v 2)) j = laneAt 1 (s.vec (v 3)) j)
    ∧ (let s := piped (.vbcmp (r 1) (v 2) (v 3) (r 4)) [(4, 32)]
      ∀ j < 32, laneAt 1 (s.vec (v 2)) j = laneAt 1 (s.vec (v 3)) j) :=
  ⟨inPipe rfl rfl rfl, rfl, rfl, ⟨inPipe rfl rfl rfl, by decide +kernel, nofun⟩, by decide +kernel⟩

/-- A record of a tensor in the thread's page, of a format and geometry, read by an instruction in its pipe. -/
def recorded (i : Instr) (l : List (Nat × Word)) (image : Nat) (psn : List Nat) : State :=
  let s := piped i l
  { s with mem := Memory.writeN s.mem 0x100040 (leBytes 64 image), poison := psn }

/-- A tensor of 16 rows and 32 columns, 32 bytes a row. -/
def tensor (fmt geom : Nat) : Nat := 32 * 2 ^ 160 + fmt * 2 ^ 156 + geom * 2 ^ 153 + 16 * 2 ^ 96 + 32 * 2 ^ 64 + 0x10800

theorem test_witness_conversionsByRecord :
    let i : Instr := .vquant .f16 .rne (v 1) (v 2) (r 3) (r 4)
    let s (fmt geom : Nat) (psn : List Nat) : State := recorded i [(3, 0x10040)] (tensor fmt geom) psn
    let reads (fmt geom : Nat) (psn : List Nat) (bad : Bool) : Bool :=
      okAnd ((s fmt geom psn).control 0x10040) fun x =>
        x.2 == (tensor fmt geom, bad)
    InPipe i (s 5 1 []) ∧ (s 5 1 []).x (r 3) = 0x10040 ∧ reads 5 1 [] false = true ∧ reads 5 4 [] false = true
      ∧ reads 2 1 [] false = true ∧ reads 5 1 [0x40010] true = true ∧ fmtTy 5 = some .e4m3 ∧ fmtNarrow 5 = true ∧ fmtNarrow 2 = false
      ∧ (Tnr.ofImage (tensor 5 1) false).ascope = 0 ∧ (Tnr.ofImage (tensor 5 4) false).geom = 4 ∧ geomG 1 = some 16
      ∧ 16 ≤ (s 5 1 []).laneCount 2 ∧ (s 5 1 []).laneCount 2 % 16 = 0 :=
  ⟨inPipe rfl rfl rfl, rfl, by decide +kernel, by decide +kernel, by decide +kernel, by decide +kernel, rfl, rfl, rfl, rfl, rfl, rfl, by decide +kernel, rfl⟩

/-- A stream register of the thread holds an open stream. -/
def streaming (i : Instr) (l : List (Nat × Word)) (x : Stream) : State :=
  modded (piped i l) fun t => { t with s := put t.s 1 (streamBits x) }

/-- A dense stream of 10 bytes of .b16 at the start of the local store. -/
def dense : Stream := ⟨1, true, false, false, 0, tyCodeOf .b16, 0, 0, 10, 0, 1, 2, 0⟩

theorem test_witness_streams :
    let s := streaming (.sadv 1 (r 2)) [(2, 8)] dense
    s.cur.iss.pipe = true ∧ s.stream 1 = dense ∧ dense.k = 2 ∧ ((s.x (r 2)).toNat % dense.k = 0)
    ∧ (piped (.sadv 1 (r 2)) []).stream 1 = ⟨0, false, false, false, 0, 0, 0, 0, 0, 0, 0, 0, 0⟩
    ∧ ((streaming (.sadv 1 (r 2)) [] { dense with err := true }).stream 1).err = true
    ∧ (let w := 3 * 2 ^ 224 + 8 * 2 ^ 160 + 16 * 2 ^ 128 + 0x10800
      let o := recorded (.sopen .f32 1 (r 2)) [(2, 0x10040)] w []
      okAnd (o.streamRecord (o.x (r 2))) (fun x => x.2 == some w) = true ∧ w / 2 ^ 222 % 2 ^ 2 = 0
        ∧ w % 2 ^ 57 % Ty.f32.bytes = 0 ∧ w / 2 ^ 160 % 2 ^ 32 % Ty.f32.bytes = 0 ∧ w / 2 ^ 128 % 2 ^ 32 % Ty.f32.bytes = 0) := by
  decide +kernel

theorem test_witness_streamOperands :
    let i : Instr := .vand .b16 (v 3) (.s 1) (.s 1)
    let s := streaming i [] dense
    let n := min 32 (10 - 2) / 2
    (∀ q, v 3 ≠ .s q) ∧ s.cur.iss.pipe = true ∧ s.cur.iss.phase = 0 ∧ s.cur.iss.vs = [] ∧ (s.stream 1).mode = 1 ∧ (s.stream 1).err = false
      ∧ (s.stream 1).ls = true ∧ (s.stream 1).nrows = 1 ∧ (∀ j < n, (0 + 2 + 2 * j) % 2 = 0) ∧ 2 + n * 2 ≤ 10
      ∧ ∀ j < n, s.myCore.lsOk s.me.cr.ctx (0 + 2 + 2 * j) 2 false = true := by
  refine ⟨nofun, ?_⟩
  decide +kernel

theorem test_witness_matrixProducts :
    InPipe (.mma .f32 .f16 1 (r 2) (r 3) (r 4)) (piped (.mma .f32 .f16 1 (r 2) (r 3) (r 4)) [])
    ∧ InPipe (.mmas .f16 1 (r 2) (r 3) (r 4) (r 5) 3) (piped (.mmas .f16 1 (r 2) (r 3) (r 4) (r 5) 3) [])
    ∧ InPipe (.topk .f16 (r 1) (r 2) (r 3) (r 4)) (piped (.topk .f16 (r 1) (r 2) (r 3) (r 4)) [])
    ∧ Memory.wf (piped (.topk .f16 (r 1) (r 2) (r 3) (r 4)) []).myCore.ls = true :=
  ⟨inPipe rfl rfl rfl, inPipe rfl rfl rfl, inPipe rfl rfl rfl, rfl⟩

/-- An `mmt` on one record and one handle for both sides, whose buffer is at the store's end, at a chunk. -/
def tiling (fmt : Nat) (swtag : Nat) : State :=
  let i : Instr := .mmt .f32 1 (r 1) (r 2) (r 3) (r 4) (r 5) 0x402
  let s := recorded i [(1, 0x10040), (2, 0x10040), (3, 0x01FF01FF), (4, 16 * 2 ^ 32), (5, 32)] (tensor fmt 4) []
  s.modCluster 0 fun c => { c with htab := put [] 511 (BitVec.ofNat 64 (2 ^ 49 * 0x801 + 2 ^ 37 * 16 + 2 ^ 20 + swtag * 2 ^ 16)) }

/-- The `mmt` in its pipe, at its second chunk of two or its first. -/
def chunking (k : BitVec 16) (halt : Bool) : State :=
  let s := tiling 3 0
  let img : Val := BitVec.ofNat 2048 (tensor 3 4)
  let iss := { s.cur.iss with vs := [(.w 0, img), (.w 1, img), (.w 2, 0)] }
  { modded s fun t => { t with inflight := [iss], mmtk := k, mmtHalt := halt } with cur := ⟨0, 0, iss⟩ }

theorem test_witness_tileMacro :
    let starts (s : State) (p : Option Bool) : Bool :=
      okAnd (s.control (s.x (r 1)).toNat) fun a => okAnd (a.1.control (a.1.x (r 2)).toNat) fun b =>
        b.1.mmtCheck .f32 (b.1.mmtSide false a.2.1 a.2.2 (r 3) (r 4) 0x402)
          (b.1.mmtSide true b.2.1 b.2.2 (r 3) (r 5) 0x402) == p
    starts (tiling 3 0) none = true ∧ starts (tiling 3 1) (some true) = true ∧ starts (tiling 2 0) (some false) = true := by
  decide +kernel

theorem test_witness_tileChunks :
    let good (k : BitVec 16) (halt : Bool) : Bool :=
      let s := chunking k halt
      let p := s.mmtSide false (mmtKept s.cur.iss 0) false (r 3) (r 4) 0x402
      let q := s.mmtSide true (mmtKept s.cur.iss 1) false (r 3) (r 5) 0x402
      !(s.thr 0 0).mmtStop.isSome && (((s.thr 0 0).inflight.find? fun y => isMmt y.instr && y.phase == 0).map Issue.seq) == some 0
        && p.ty == some .f16 && q.ty == some .f16 && (s.mmtChunk .f32 1 p q).any fun x => x.1.cur.core == 0
    good 0 false = true ∧ good 0 true = true ∧ good 1 false = true := by decide +kernel

theorem test_witness_tiles :
    InPipe (.azero 1) (piped (.azero 1) []) ∧ InPipe (.aspill (r 1) 2) (piped (.aspill (r 1) 2) [])
    ∧ InPipe (.afill 2 (r 1)) (piped (.afill 2 (r 1)) []) ∧ InPipe (.aadd .f32 .rne 1 2 3) (piped (.aadd .f32 .rne 1 2 3) [])
    ∧ Memory.wf (piped (.aspill (r 1) 2) []).myCore.ls = true
    ∧ InPipe (.aread .f32 false .rne (v 1) 2 (r 3) (r 0)) (piped (.aread .f32 false .rne (v 1) 2 (r 3) (r 0)) [])
    ∧ (∀ m, v 1 ≠ .s m) ∧ Ty.f32 ≠ .b8 ∧ Ty.f32 ≠ .b128
    ∧ (let i : Instr := .aread .b8 false .rne (v 1) 2 (r 3) (r 4)
      let s (f : Nat) : State := recorded i [(4, 0x10040)] (tensor f 4) []
      InPipe i (s 5) ∧ (∀ f ∈ [2, 5], okAnd ((s f).control ((s f).x (r 4)).toNat) (fun x =>
        x.2 == (tensor f 4, false)) = true)) :=
  ⟨inPipe rfl rfl rfl, inPipe rfl rfl rfl, inPipe rfl rfl rfl, inPipe rfl rfl rfl, rfl, inPipe rfl rfl rfl, nofun, nofun, nofun,
    inPipe rfl rfl rfl, by decide +kernel⟩

theorem test_witness_productAtHome :
    let i : Instr := .mvh .f32 .f16 1 (r 2) (r 3) (r 4) (r 5) 0x101
    let s (psn : List Nat) : State := recorded i [(2, 0), (3, 0x10040), (4, 32 * 2 ^ 32), (5, 32)] (tensor 3 4) psn
    InPipe i (s []) ∧ okAnd ((s [0x40011]).control 0x10040) (fun x => x.2.2) = true
      ∧ okAnd ((s []).control 0x10040) (fun x =>
        x.2 == (tensor 3 4, false) && x.1.lsMay 0 512 false
          && okAnd (x.1.nearCols .f32 .f16 (Tnr.ofImage x.2.1 x.2.2) 2 32 0 16).2 fun _ => true) = true :=
  ⟨inPipe rfl rfl rfl, by decide +kernel, by decide +kernel⟩

theorem test_witness_scalesAndStatistics :
    InPipe (.sbst (r 1) (r 2)) (piped (.sbst (r 1) (r 2)) []) ∧ InPipe (.sbld (r 1) (r 2)) (piped (.sbld (r 1) (r 2)) [])
    ∧ Memory.wf (piped (.sbst (r 1) (r 2)) []).myCore.ls = true
    ∧ (∀ n : Word, InPipe (.sbupd (v 1) (r 2) (r 3)) (piped (.sbupd (v 1) (r 2) (r 3)) [(2, 15), (3, n)]))
    ∧ (piped (.sbupd (v 1) (r 2) (r 3)) [(2, 15), (3, 1)]).cur.iss.pipeNo = 0
    ∧ (piped (.sbupd (v 1) (r 2) (r 3)) [(2, 15), (3, 1)]).x (r 3) = 1 ∧ (piped (.sbupd (v 1) (r 2) (r 3)) []).x (r 3) = 0
    ∧ look (piped (.sbupd (v 1) (r 2) (r 3)) []).myCore.stats (8 * 15) 0 = 0 :=
  ⟨inPipe rfl rfl rfl, inPipe rfl rfl rfl, rfl, fun _ => inPipe rfl rfl rfl, rfl, rfl, rfl, rfl⟩

theorem test_witness_polynomials :
    let two : Word := 0x4000000000000000
    let one : Word := 0x3FF0000000000000
    let divides (b c : Word) (nan both forwards : Bool) : Bool :=
      let s := piped (.hdiv .rne 1 (r 2) (r 3)) [(2, b), (3, c)]
      let num (x : Word) : Machine.Num := fp64.decode x.toNat
      let zero (n : Machine.Num) : Bool := match n with
        | .zero _ => true
        | _ => false
      let x := num (s.x (r 2))
      let y := num (s.x (r 3))
      (x.isNan || y.isNan) == nan && (zero x && zero y) == both && (!ltNum x.abs y.abs) == forwards
    InPipe (.hdiv .rne 1 (r 2) (r 3)) (piped (.hdiv .rne 1 (r 2) (r 3)) [])
      ∧ divides two one false false true = true ∧ divides one one false false true = true ∧ divides one two false false false = true
      ∧ divides 0 0 false true true = true ∧ divides 0x7FF8000000000000 one true false false = true
      ∧ InPipe (.hset 1 (r 2) (r 3)) (piped (.hset 1 (r 2) (r 3)) []) ∧ InPipe (.hprod .rne 1 2 3) (piped (.hprod .rne 1 2 3) [])
      ∧ InPipe (.hwr .rne 1 (r 2) (r 3)) (piped (.hwr .rne 1 (r 2) (r 3)) []) :=
  ⟨inPipe rfl rfl rfl, by decide +kernel, by decide +kernel, by decide +kernel, by decide +kernel, by decide +kernel,
    inPipe rfl rfl rfl, inPipe rfl rfl rfl, inPipe rfl rfl rfl⟩

theorem test_witness_clusterMaximum :
    let c : Contribution := ⟨0, 0, 0, .i32, 5⟩
    let x : Exch := ⟨0, [(0, c)]⟩
    let s := (issued (.xmax .i32 (r 1) (v 2)) 1).modMyCore fun y => { y with xpend := some 0 }
    s.phase = 1 ∧ (issued (.xmax .i32 (r 1) (v 2)) 1).myCore.xpend = none ∧ s.myCore.xpend ≠ none
      ∧ 2 < (issued (.xmax .i32 (r 1) (v 2)) 3).phase ∧ (287 : Nat) < 288 ∧ (s.coreAt 0).xpend = some c.slot
      ∧ s.vacated 0 = false ∧ s.killed 0 = false ∧ (s.clusterAt 0).exch = []
      ∧ (let t := s.modCluster 0 fun y => { y with exch := [x] }
        ((t.clusterAt 0).exch.find? fun y => y.n == 0) = some x)
      ∧ ((List.range 8).findSome? fun p => x.parts.find? fun z => z.1 == p) = some (0, c) := by decide

theorem test_witness_streamClauses :
    let s := streaming (.sadv 1 (r 2)) [(2, 7)] dense
    dense.mode ≠ 0 ∧ dense.mode ≠ 3 ∧ dense.err = false ∧ (s.x (r 2)).toNat % dense.k ≠ 0
    ∧ (piped (.vand .b16 (.s 1) (v 2) (v 2)) []).cur.iss.phase = 0 ∧ ((piped (.vand .b16 (.s 1) (v 2) (v 2)) []).stream 1).mode = 0 := by
  decide +kernel

/-- An `mmt` at its first chunk whose buffers are no longer there. -/
def losing : State :=
  let s := { chunking 0 false with clusters := [] }
  { s with cur := { s.cur with iss := { s.cur.iss with xs := [(r 3, 0x01FF01FF), (r 4, 0), (r 5, 0)] } } }

theorem test_witness_tileChunkFaults :
    let s := chunking 0 false
    let side (s : State) (q : Bool) (o : XReg) : Side := s.mmtSide q (mmtKept s.cur.iss (if q then 1 else 0)) false (r 3) o 0x402
    (losing.mmtChunk .f32 1 (side losing false (r 4)) (side losing true (r 5))).isNone = true
    ∧ (match s.bufChunk (side s false (r 4)) .f16 true 0 with
      | some (x, _) => (x.bufChunk (side s true (r 5)) .f16 false 0).isSome
      | none => false) = true := by decide +kernel

/-- An `mvh` whose tensor lies in a page, at its pipe. -/
def multiplying (base : Nat) : State :=
  recorded (.mvh .f32 .f16 1 (r 2) (r 3) (r 4) (r 5) 0x101) [(2, 0), (3, 0x10040), (4, 32 * 2 ^ 32), (5, 32)]
    (tensor 3 4 - 0x10800 + base) []

theorem test_witness_monitors :
    (regs (issued (.mset 1 (r 2)) 0) [(2, 0x1FFE0)]).myCore.lsOk 0 0x1FFE0 32 false = true
    ∧ (regs (issued (.mset 1 (r 2)) 0) [(2, 0x20000)]).myCore.lsOk 0 0x20000 32 false = false ∧ (0x1FFE1 : Nat) % 32 ≠ 0
    ∧ (issued (.xmax .i32 (r 1) (v 2)) 2).phase = 2
    ∧ (base.modIo fun io => { io with fenced := [0] }).killed 0 = true := by decide +kernel

theorem test_witness_productMisses :
    (match (multiplying 0x11000).control 0x10040 with
      | .ok (u, image, bad) => match (u.nearCols .f32 .f16 (Tnr.ofImage image bad) 2 0 0 16).2 with
        | .error (.miss m) => absent m.tr && !m.held && u.waitRoom m.die m.ctx m.va && !u.me.pin
        | _ => false
      | .error _ => false) = true := by decide +kernel

/-- A channel of core 0 of which bits are set. -/
def copying (st : BitVec 256) : State :=
  base.modMyCore fun c => { c with chan := put [] 1 { Chan.reset with st := st, unit := 1 } }

/-- A copy of 64 bytes of a kind, from offset 0 to offset 64, of which a block is due. -/
def copies (kind : Nat) : State := copying (BitVec.ofNat 256 (kind * 2 ^ 253 + (2 ^ 18 - 1) * 2 ^ 224 + 64 * 2 ^ 64 + 64 * 2 ^ 32))

theorem test_witness_copyStarts :
    let e := regs (issued (.cpyLl 1 (r 2) (r 3) (r 4) (r 5) 1) 0) [(2, 0x100), (3, 0x200), (4, 64), (5, 0x1FFF8)]
    (∀ n ∈ [2, 3, 4], (e.x (r n)).toNat % 4 = 0) ∧ e.myCore.lsOk 0 0x100 64 true = true ∧ e.myCore.lsOk 0 0x200 64 false = true
    ∧ (e.x (r 5)).toNat % 8 = 0 ∧ (e.x (r 5)).toNat + 8 ≤ (e.coreAt 0).spbase.toNat ∧ ¬ ((0x1FFF9 : Nat) % 8 = 0)
    ∧ e.myCore.lsOk 0 0x20000 64 true = false ∧ (0x102 : Nat) % 4 ≠ 0 ∧ (64 : Nat) % 64 = 0
    ∧ (look (copies 1).myCore.chan 1 Chan.reset).busy = true ∧ (look base.myCore.chan 1 Chan.reset).busy = false := by decide +kernel

theorem test_witness_copyBlocks :
    (∀ kind ∈ [1, 2, 3, 4], let y := look (copies kind).myCore.chan 1 Chan.reset
      y.busy = true ∧ y.pendBit = false ∧ y.kind = kind ∧ y.wp = 0 ∧ y.len = 64)
    ∧ (copies 1).myCore.lsOk 0 0 64 false = true
    ∧ (let l := (List.range 16).map fun i => ((64 + 4 * i) % 2 ^ 57, false, leNat (Memory.readN (copies 3).myCore.ls (4 * i) 4))
      ((copies 3).emitChan 0 (look (copies 3).myCore.chan 1 Chan.reset) l).isSome = true)
    ∧ (look (copying (BitVec.ofNat 256 (2 ^ 252 + 2 ^ 253))).myCore.chan 1 Chan.reset).pendBit = true
    ∧ ((copies 2).chanRead 0 1 0x10000 64).2.isSome = true ∧ ((copies 2).chanRead 0 1 0x11000 64).2.isNone = true
    ∧ okAnd ((copies 2).loadDwsOf 0 [] 0 [0x10000]).2 (fun _ => true) = true
    ∧ (match ((copies 2).loadDwsOf 0 [] 0 [0x11000]).2 with
      | .error m => absent m.tr && !m.held && (copies 2).waitRoom m.die 0 m.va
      | .ok _ => false) = true := by decide +kernel

theorem test_witness_getsAndPuts : ∀ row ∈ [4, 3584],
    let s := regs (issued (.put .i32 .add (r 1) (r 2) (r 3) (r 4) (r 5)) 0) [(1, 0), (2, 0x10000), (3, 0x1F000), (4, BitVec.ofNat 64 (row * 2 ^ 16 + 2))]
    s.phase = 0 ∧ (s.x (r 4)).toNat / 2 ^ 16 % 2 ^ 16 = row ∧ row % 4 = 0 ∧ (s.x (r 2)).toNat % 4 = 0 ∧ s.me.mate = none
      ∧ s.myCore.lsOk s.me.cr.ctx 0 (2 * row) true = true ∧ s.myCore.lsOk s.me.cr.ctx 0x1F000 8 false = true
      ∧ (issued (.put .i32 .add (r 1) (r 2) (r 3) (r 4) (r 5)) 1).phase ≠ 0 ∧ MOp.add.isFx = false
      ∧ (⟨1, 1, 1, [], [], [], none⟩ : OutMsg).spawn = none := by decide +kernel

/-- A `coll` of a table in the thread's page. -/
def collecting : State := regs (issued (.coll .i32 .add (r 1) (r 2) (r 3) (r 4) (r 5) (r 6)) 0) [(2, 0x10000), (6, 0x1FFFC)]

theorem test_witness_collectives :
    let s := collecting
    (s.x (r 6)).toNat % 4 = 0 ∧ s.myCore.lsOk s.me.cr.ctx 0x1FFFC 4 true = true ∧ s.myCore.colls.length < 4
      ∧ okAnd (s.collTable 0x10000).2 (fun x => x.2.isNone) = true
      ∧ okAnd (({ s with poison := [0x40000] } : State).collTable 0x10000).2 (fun x => x.2.isSome) = true
      ∧ (match (s.collTable 0x11000).2 with
        | .error _ => true
        | .ok _ => false) = true
      ∧ s.me.mate = none ∧ s.io.collHeld = [] := by decide +kernel

/-- A collective's step of each kind, of 4 bytes at the store's start, and the message that fits it. -/
def stepOf (act : Nat) : BitVec 128 := BitVec.ofNat 128 (act * 2 ^ 116 + 4 * 2 ^ 32)
def fitting : CollMsg := ⟨0, 0, 0, 0, 0, true, [1, 2, 3, 4]⟩
def oneColl (act : Nat) : Coll :=
  { slot := 0, unit := 1, ctx := 0, launch := 0, id := 0, ty := .i32, op := .add, buf := 0, flag := 0, ctr := 0, out := 64, steps := [stepOf act] }

theorem test_witness_collectiveSteps :
    (∀ act < 4, (stepOf act).toNat / 2 ^ 116 % 2 ^ 2 = act) ∧ base.myCore.lsOk 0 0 4 true = true ∧ base.myCore.lsOk 0 0 4 false = true
    ∧ (Memory.readN base.myCore.ls 0 4).length ≤ 3568
    ∧ (fitting.src == 0 && fitting.ctx == 0 && fitting.id == 0 && fitting.tag == 0 && fitting.whole) = true ∧ fitting.data.length = 4
    ∧ (let s := base.modMyCore fun c => { c with colls := [oneColl 1] }
      (s.coreAt 0).colls = [oneColl 1] ∧ (oneColl 1).slot = 0 ∧ (oneColl 1).flag.getLsbD 31 = false
        ∧ ((s.collSteps 0 (oneColl 1) [stepOf 1]).st.coreAt 0).colls = [oneColl 1])
    ∧ base.io.teardown.contains 0 = false ∧ base.io.collDead = [] ∧ (base.thr 0 0).mate = none := by decide +kernel

theorem test_witness_otherParts :
    (look base.io.ptbr 0 0).getLsbD 63 = true ∧ base.io.teardown.contains 0 = false ∧ (look base.io.ptbr 1 0).getLsbD 63 = false
    ∧ opOf 1 = some .add ∧ opOf 31 = none ∧ base.getWaits 3 = none ∧ base.getLater 3 = false
    ∧ okAnd (base.windowDws 0 [0x10000] .get).2 (fun x => !x.2 && !(dwNum x.1 0x10000 4).2 && !(dwNum x.1 0x10004 4).2) = true
    ∧ (match (base.windowDws 0 [0x11000] .get).2 with
      | .error m => absent m.tr && !m.held && base.waitRoom m.die m.ctx m.va
      | .ok _ => false) = true
    ∧ base.killed 0 = false ∧ (base.modIo fun io => { io with fenced := [0] }).killed 0 = true ∧ base.mateAt 0 0 = none
    ∧ NackCause.cancelled ≠ .moved := by decide +kernel

/-- A record that a core with room may take. -/
def spawned : Record := { Record.zero with xcount := 8 }

theorem test_witness_spawns :
    base.placeable 0 = true ∧ base.slotFor 0 spawned = true ∧ 8 ≤ spawned.xcount.toNat ∧ spawned.xcount.toNat ≤ 64
    ∧ base.placeable 2304 = false ∧ (base.ctrReach 0 0).2 = true
    ∧ (let s := base.modIo fun io => { io with ctabBase := put [] 0 0x11000, ctabLen := put [] 0 1 }
      (s.ctrReach 0 0).2 = false)
    ∧ (let s := base.modIo fun io => { io with spawns := [(3, 0, 0)] }
      (s.io.spawns.find? fun x => x.1 == 3) = some (3, 0, 0)) ∧ (0 : BitVec 64) ≠ 2
    ∧ base.turn = 0 ∧ ({ base with turn := 2304 } : State).turn ≠ 0 := by decide +kernel

/-- A queue of the supervisor's context. -/
def queueOf (prio : BitVec 8) : Queue := { Queue.reset with v := true, en := true, prio := prio, dmax := 8 }

/-- A state with queue 0 open, and with its pool full. -/
def open0 (s : State) : State := s.modIo fun io => { io with queues := put [] 0 (queueOf 1) }
def crammed (s : State) : State := (open0 s).modIo fun io => { io with queues := put [] 0 { queueOf 1 with depth := 8 } }

theorem test_witness_suspensions :
    let s := issued .yield 6
    (issued .yield 1).phase = 1 ∧ (issued .yield 2).phase = 2 ∧ 5 ≤ s.phase ∧ s.me.mate = none ∧ s.me.intrap = false
    ∧ s.me.mergePend = none ∧ s.me.guard.pending = false ∧ s.me.cancelled = false
    ∧ (modded s fun t => { t with mergePend := some 7 }).me.mergePend = some 7
    ∧ (modded s fun t => { t with guard := ⟨true, 0, 0, 1⟩ }).me.guard.pending = true
    ∧ (modded s fun t => { t with cancelled := true }).me.cancelled = true
    ∧ s.io.teardown.contains s.me.resume.ctx.toNat = false
    ∧ (look s.io.queues 0 Queue.reset).v = false ∧ (look (open0 s).io.queues 0 Queue.reset).v = true
    ∧ (look (open0 s).io.queues 0 Queue.reset).ctx = s.me.resume.ctx ∧ ((open0 s).freeSlot 0 0).noRoom 0 = false
    ∧ ((crammed s).freeSlot 0 0).noRoom 0 = true ∧ s.vacated 0 = false
    ∧ (s.x (r 1)).toNat % 2 ^ 32 < (look (s.modIo fun io => { io with ctabLen := put [] 0 1 }).io.ctabLen 0 0).toNat := by decide +kernel

theorem test_witness_postsAndSpawns :
    (∀ p ∈ [0, 1, 2, 3, 5, 8, 9], (issued (.post (r 1) (r 2) (r 3)) p).phase = p)
    ∧ ((regs (issued (.post (r 1) (r 2) (r 3)) 0) [(2, 0x1FFC1)]).x (r 2)).toNat % 64 ≠ 0
    ∧ (issued (.post (r 1) (r 2) (r 3)) 0).myCore.lsOk 0 0x1FFC0 64 false = true
    ∧ (issued (.post (r 1) (r 2) (r 3)) 0).myCore.lsOk 0 0x20000 64 false = false
    ∧ (issued (.post (r 1) (r 2) (r 3)) 8).me.mate = none ∧ (issued (.post (r 1) (r 2) (r 3)) 9).me.mergePend = none
    ∧ (modded base fun t => { t with mergePend := some 3 }).me.mergePend = some 3
    ∧ (let m : OutMsg := ⟨1, 2, 2, [], [], [], some (0, 0)⟩
      m.spawn = some (0, 0) ∧ m.gets = [] ∧ m.puts = [])
    ∧ base.io.teardown.contains 0 = false ∧ (look (open0 base).io.queues 0 Queue.reset).v = true
    ∧ (look (open0 base).io.queues 0 Queue.reset).ctx = (base.thr 0 0).cr.ctx ∧ (open0 base).noRoom 0 = false
    ∧ (crammed base).noRoom 0 = true ∧ (look base.io.queues 0 Queue.reset).v = false ∧ ((open0 base).ctrReach 0 0).2 = true
    ∧ (open0 base).turn = 0 ∧ ({ base with turn := 1 } : State).turn ≠ 0 := by
  decide +kernel

/-- The supervisor's context has a table of one counter in its page. -/
def counting (s : State) : State := s.modIo fun io => { io with ctabBase := put [] 0 0x10080, ctabLen := put [] 0 1 }

theorem test_witness_countersRead :
    let s := counting (issued (.ctread (r 1) (r 2) (r 3)) 2)
    let reads (s : State) := (s.modMe fun t => { t with pin := true }).loadDws 0 0 0 [0x10088]
    1 < s.phase ∧ (issued (.ctadd (r 1) (r 2) (r 3)) 1).phase = 1 ∧ (s.x (r 2)).toNat < (look s.io.ctabLen 0 0).toNat
    ∧ (look (issued (.ctread (r 1) (r 2) (r 3)) 2).io.ctabLen 0 0).toNat ≤ 0 ∧ okAnd (reads s).2 (fun _ => true) = true
    ∧ okAnd ((s.modMe fun t => { t with pin := true }).loadDws 0 0 0 [0x11088]).2 (fun _ => true) = false := by decide +kernel

theorem test_witness_counterOperations :
    let s := counting base
    let near := counting { base with mem := Memory.writeN base.mem 0x10008C (leBytes 4 1) }
    let die := (s.route 0 0x10080).home
    let there := found (s.xlate die 0 0x10080 .wr).2
    let gone := (s.modIo fun io => { io with ctabBase := put [] 0 0x11000 }).xlate die 0 0x11000 .wr
    s.io.teardown.contains 0 = false ∧ (s.modIo fun io => { io with teardown := [0] }).io.teardown.contains 0 = true
    ∧ there = true ∧ ((s.xlate die 0 0x10080 .wr).1.dieAt die).isFrozen 0 0x10080 = false
    ∧ (((s.modDie die fun d => { d with frozen := [(0, 0x10, 1)] }).dieAt die).isFrozen 0 0x10080) = true
    ∧ absent gone.2 = true ∧ gone.1.waitRoom die 0 0x11000 = true
    ∧ (s.readCtr 0 0).count = (s.readCtr 0 0).target ∧ (near.readCtr 0 0).target = 1 ∧ (near.readCtr 0 0).count = 0
    ∧ (s.readCtr 0 0).parent = 0 ∧ (look s.io.ctabLen 0 0).toNat = 1 := by decide +kernel

/-- A message for core 0, which its sender holds. -/
def mail (low : Bool) : MailMsg := { target := 0, low := low, data := 7, core := 0, slot := 0, ctx := 0 }
def mailing (low : Bool) : State := base.modMyCore fun c => { c with outbox := [mail low] }

theorem test_witness_mailboxes :
    let s := issued (.mrecv (r 1) (r 2) (r 3)) 2
    let full := (mailing true).modMyCore fun c =>
      { c with mboxLo := List.replicate 32 (mail true), mboxHi := List.replicate 31 (mail false) }
    (issued (.msend (r 1) (r 2) (r 3)) 1).phase ≠ 0 ∧ (issued (.msend (r 1) (r 2) (r 3)) 1).phase ≠ 2 ∧ (s.thr 0 0).mate = none
    ∧ s.phase = 2 ∧ s.phase ≠ 0 ∧ s.phase < 9 ∧ 9 ≤ (issued (.mrecv (r 1) (r 2) (r 3)) 9).phase
    ∧ s.myCore.mboxHi ++ s.myCore.mboxLo = [] ∧ full.myCore.mboxHi ++ full.myCore.mboxLo ≠ []
    ∧ (((mailing true).coreAt 0).outbox.any fun z => z.slot == 0) = true ∧ ((base.coreAt 0).outbox.any fun z => z.slot == 0) = false
    ∧ (∀ low ∈ [true, false], (mailing low).killed (mail low).target = false ∧ (mailing low).vacated (mail low).target = false)
    ∧ (2303 : Nat) < 2304 ∧ (2304 : Nat) ≤ 2304 ∧ (full.coreAt 0).mboxLo.length = 32 ∧ (full.coreAt 0).mboxHi.length = 31
    ∧ (((mailing true).coreAt 0).outbox.find? fun z => z.slot == 0) = some (mail true)
    ∧ full.turn = 0 ∧ ({ full with turn := 1 } : State).turn ≠ 0 := by decide +kernel

/-- The fault queue of the supervisor's context, at an address of its page, with so many records. -/
def faulting (n : Nat) : State :=
  let s := (issued (.fqrd (r 1) (r 2)) 2).modIo fun io => { io with fqBase := put [] 0 (if n = 0 then 0 else 0x10100) }
  { s with mem := Memory.writeN s.mem 0x100108 (leBytes 8 n ++ leBytes 8 16) }

theorem test_witness_faultQueue :
    (issued (.fqrd (r 1) (r 2)) 1).phase = 1 ∧ 1 < (faulting 1).phase ∧ (faulting 1).phase < 9
    ∧ 9 ≤ (issued (.fqrd (r 1) (r 2)) 9).phase ∧ (look (faulting 0).io.fqBase 0 0).toNat = 0
    ∧ (look (faulting 1).io.fqBase 0 0).toNat ≠ 0 ∧ ((faulting 1).fqReach 0 0x10100).2 = none
    ∧ ((faulting 1).fqReach 0 0x11000).2 ≠ none ∧ ((faulting 1).fqStep 0).2 = .record 0 0x10140
    ∧ ((faulting 0).fqStep 0).2 = .empty ∧ (faulting 1).engNum 0 0x10110 8 = 16 := by decide +kernel

theorem test_witness_supervisorOperations :
    let s := issued (.svGstart (r 1) (r 2)) 6
    (∀ p ∈ [1, 2, 3, 5], (issued (.svGstart (r 1) (r 2)) p).phase = p) ∧ 5 ≤ s.phase ∧ s.me.mergePend = none
    ∧ (modded s fun t => { t with mergePend := some 9 }).me.mergePend = some 9 ∧ (base.route 0 0x10000).home < 4 := by decide +kernel

/-- The package in its boot, at a step. -/
def booting (n : BitVec 8) : State := { State.reset with power := true, io := { State.reset.io with bootStep := n } }

theorem test_witness_powerAndBoot :
    State.reset.power = false ∧ base.power = true ∧ base.io.bootDone = true
    ∧ (∀ n ∈ [0, 1, 2, 3, 4, 5, 6], (booting n).power = true ∧ (booting n).io.halted = false ∧ (booting n).io.bootDone = false
      ∧ (booting n).io.bootStep = n)
    ∧ (base.power && !base.io.halted && decide (5 ≤ base.io.bootStep.toNat)) = true
    ∧ ((booting 4).power && !(booting 4).io.halted && decide (5 ≤ (booting 4).io.bootStep.toNat)) = false := by decide +kernel

/-- An access of the host to a window. -/
def access (read : Bool) (off size : Nat) : HostAccess :=
  { read := read, offset := off, size := size, data := if read then [] else List.replicate size 0, pasid := none, priv := true }

/-- The supervisor's context has PASID 0 and its window, which starts at 0, and queue 0 is open. -/
def windowed : State := open0 (base.modIo fun io => { io with ctxb := put [] 0 0xC000000000000000 })

/-- The context that an access with PASID 0 names. -/
def slotOf (s : State) : Option Nat := (List.range 512).find? fun n =>
  (look s.io.ctxb n 0).getLsbD 63 && (look s.io.ctxb n 0).toNat / 2 ^ 42 % 2 ^ 20 == 0

theorem test_witness_poolWindow :
    let at' := { access false 0 64 with pasid := some 0 }
    let qr := look windowed.io.queues 0 Queue.reset
    (windowed.power && windowed.io.ready.getLsbD 30) = true ∧ (State.reset.power && State.reset.io.ready.getLsbD 30) = false
    ∧ windowed.io.halted = false ∧ at'.read = false ∧ at'.size = 64 ∧ at'.data.length = 64 ∧ at'.offset % 64 = 0 ∧ qr.v = true
    ∧ slotOf windowed = some qr.ctx.toNat ∧ at'.priv = true ∧ windowed.io.teardown.contains 0 = false ∧ qr.depth < max qr.dmax.toNat 1
    ∧ windowed.io.pool.length < 262144 ∧ (access true 0 64).read = true ∧ (access false 0 32).size ≠ 64
    ∧ (access false 32 64).offset % 64 ≠ 0 ∧ (look base.io.queues 0 Queue.reset).v = false ∧ slotOf (open0 base) = none
    ∧ (let full := look (crammed windowed).io.queues 0 Queue.reset
      max full.dmax.toNat 1 ≤ full.depth) := by decide +kernel

/-- No access of a window waits. -/
def noneWaits (s : State) : Bool := !s.later.any fun
  | .memoryWindowRead _ | .memoryWindowWrite _ => true
  | _ => false

theorem test_witness_memoryWindow :
    let home := fun va => (windowed.route 0 va).home
    let tr := fun va => windowed.xlate (home va) 0 va .wr
    noneWaits windowed = true
    ∧ noneWaits { windowed with later := [.memoryWindowRead (access true 0x10000 8)] } = false
    ∧ (access false 60 4).offset % 4 = 0 ∧ (access false 60 4).data.length % 4 = 0 ∧ (access false 62 4).offset % 4 ≠ 0
    ∧ slotOf windowed = some 0 ∧ slotOf base = none
    ∧ found (tr 0x10000).2 = true ∧ absent (tr 0x11000).2 = true ∧ (tr 0x11000).1.waitRoom (home 0x11000) 0 0x11000 = true
    ∧ okAnd (windowed.windowDws 0 [0x10000] .window).2 (fun _ => true) = true
    ∧ (match (windowed.windowDws 0 [0x11000] .window).2 with
      | .error m => absent m.tr && !m.held && windowed.waitRoom m.die m.ctx m.va
      | .ok _ => false) = true := by decide +kernel

theorem test_witness_hostRegisters :
    (255 : Nat) < 256 ∧ ¬ (256 : Nat) < 256 ∧ (0 < (0x1000 : Nat)) ∧ 0x1000 + 8 * 511 = 0x1FF8 ∧ 0x2000 + 16 * 255 = 0x2FF0
    ∧ 0x4100 + 8 * 479 = 0x4FF8 ∧ 0x10000 + 16 * 2047 = 0x17FF0 ∧ 0x18000 + 8 * 31 = 0x180F8
    ∧ base.io.hcmd.getLsbD 63 = false ∧ 5 ≤ base.io.bootStep.toNat
    ∧ (base.modIo fun io => { io with hcmd := BitVec.ofNat 64 (2 ^ 63) }).io.hcmd.getLsbD 63 = true := by decide +kernel

/-- The mailbox holds a command, with a payload that begins with a number. -/
def commanding (c n : Nat) : State :=
  base.modIo fun io => { io with hcmd := BitVec.ofNat 64 (2 ^ 63 + c), hcmdBuf := Memory.writeN [] 0 (leBytes 8 n) }

theorem test_witness_hearth : ∀ c ∈ [0x001, 0x002, 0x010, 0x011, 0x012, 0x013, 0x020],
    let s := commanding c 4095
    s.power = true ∧ s.io.halted = false ∧ 5 ≤ s.io.bootStep.toNat ∧ s.io.hcmd.getLsbD 63 = true ∧ s.io.hcmd.toNat % 2 ^ 12 = c
      ∧ base.io.hcmd.getLsbD 63 = false ∧ leNat (Memory.readN s.io.hcmdBuf 0 8) = 4095
      ∧ leNat (Memory.readN (commanding c 4096).io.hcmdBuf 0 8) = 4096 ∧ leNat (Memory.readN (commanding c 0).io.hcmdBuf 0 8) = 0
      ∧ (find? s.io.keySlots 4095).isSome = false ∧ (find? (put s.io.keySlots 4095 1) 4095).isSome = true
      ∧ s.io.redfishSection ≠ some 4095 ∧ (s.modIo fun io => { io with redfishSection := some 4095 }).io.redfishSection = some 4095
      ∧ s.clusters = [] ∧ s.io.migr = [] ∧ ({ s with dies := [] } : State).dies = [] := by decide +kernel

/-- A flit of a CRC and the bits below it. -/
def flit (crc low : Nat) : BitVec 512 := BitVec.ofNat 512 (crc * 2 ^ 496 + low)

def idle : BitVec 512 := flit 0x25B9 0xA0000
def ackFlit : BitVec 512 := flit 0xA52 0x200000A0000
def nakFlit : BitVec 512 := flit 0x7A6F 0x400000A0000
def ackMessage : BitVec 512 := flit 0x958 0x6400000A0000
def ackMessage1 : BitVec 512 := flit 0x730D 0x6400080A0000

/-- A port with flits that are kept. -/
def porting (kept : List (BitVec 512)) (fails : Nat) : State :=
  base.modIo fun io => { io with ports := put [] 15 { Port.reset with up := true, kept := kept, fails := fails } }

theorem test_witness_flits :
    let good (f : BitVec 512) : Bool := flitCrc (f.toNat % 2 ^ 496) == f.toNat / 2 ^ 496
    let h := headOf ackMessage
    base.power = true ∧ State.reset.power = false ∧ (15 : Nat) < 16 ∧ (16 : Nat) ≤ 16 ∧ good ackMessage = true ∧ good (flit 0 1) = false
    ∧ ([idle, ackFlit, nakFlit].all fun f => good f && (headOf f).cls == 0) = true ∧ (headOf idle).kind = 0 ∧ (headOf ackFlit).kind = 1
    ∧ (headOf nakFlit).kind = 2 ∧ h.cls = 3 ∧ h.kind = 2 ∧ h.seq = 0 ∧ h.nfl = 0 ∧ h.dest = base.io.partNo ∧ h.stop = 0
    ∧ kindKnown 3 2 = true ∧ kindKnown 3 15 = false ∧ (headOf ackMessage1).dest ≠ base.io.partNo ∧ (headOf ackMessage1).hops ≠ 7
    ∧ (look base.io.ports 15 Port.reset).rxSeq = 0 ∧ (look base.io.ports 15 Port.reset).skip = [] := by decide +kernel

theorem test_witness_linkPorts :
    (∀ n ∈ [0, 7, 8], let x := look (porting [ackMessage1] n).io.ports 15 Port.reset
      (x.kept.findIdx? fun f => (headOf f).seq == 0) = some 0 ∧ x.fails = n ∧ x.up = true ∧ x.ackAt = 0)
    ∧ (look base.io.ports 15 Port.reset).stopIn.getLsbD 2 = false ∧ (look base.io.ports 15 Port.reset).waiting = []
    ∧ ([ackMessage, ackMessage1].all fun f => (headOf f).cls == 3) = true ∧ 1 ≤ (3 : Nat) ∧ (3 : Nat) ≤ 4
    ∧ (look base.io.ports 15 Port.reset).kept = [] ∧ [ackMessage1] ≠ [] := by decide +kernel

theorem test_witness_linkAlternates :
    let s := base.modIo fun io => { io with
      ports := put (put [] 2 { Port.reset with up := true }) 1 { Port.reset with lost := [([], [ackMessage1])] }, route := put [] 1 0x4021 }
    let x := look s.io.ports 1 Port.reset
    (∀ m ∈ x.lost, m.2 ≠ []) ∧ (x.lost.filter fun m => (m.2.head?.map fun f => (headOf f).cls) == some 3) = x.lost
      ∧ (headOf ackMessage1).dest = 1 ∧ s.outPort 1 = some 2 ∧ (look s.io.ports 2 Port.reset).up = true
      ∧ s.power = true ∧ s.io.halted = false ∧ s.io.bootDone = true := by decide +kernel

/-- A record of the supervisor's context and counter 0. -/
def record (pin : Bool) : Record := { Record.zero with xcount := 8, pin := pin, owner := 0 }
def pooled (r : Record) : PoolEntry := ⟨0x0100000000000000, r, 0, false, none⟩

/-- Queue 0 is open, its one record is in the pool, its counter cancelled or not, and the queue enabled or not. -/
def pooling (can en : Bool) : State :=
  let s := counting base
  let s := s.modIo fun io => { io with queues := put [] 0 { queueOf 1 with en := en, depth := 1 }, pool := [pooled (record false)] }
  { s with mem := Memory.writeN s.mem 0x100080 (leBytes 8 (if can then 2 ^ 63 else 0)) }

theorem test_witness_dispatcher :
    (∀ can ∈ [true, false], (pooling can true).cancelled (record false) = can)
    ∧ (look (pooling false true).io.queues 0 Queue.reset).en = true ∧ (look (pooling false false).io.queues 0 Queue.reset).en = false
    ∧ (pooling false true).placeOf (pooled (record false)) = some [0] ∧ (pooling false true).freePlace 0 (record false) = true
    ∧ (pooled (record false)).again = none ∧ (record true).pin = true ∧ (record false).pin = false := by decide +kernel

theorem test_witness_candidates :
    let s := pooling false true
    let r := record false
    let c := (s.candidates (s.placeEntry r).1 (s.placeEntry r).2).filter fun n => s.freePlace n r
    c = [0] ∧ ((State.reset.candidates 0 0).filter fun n => State.reset.freePlace n r) = []
    ∧ (2303 : Nat) < 2304 ∧ (2304 : Nat) ≤ 2304 ∧ (287 : Nat) < 288 ∧ (288 : Nat) ≤ 288 := by decide +kernel

theorem test_witness_grants :
    let wfw := modded base fun t => { t with status := .wfw, xcount := 8 }
    (base.coreAt 0).wfwSlot (record false) = none ∧ (base.coreAt 0).freeSlot = some 1
    ∧ (∀ n ∈ [8, 64], (base.coreAt 0).freeWindow n = some 64) ∧ 8 ≤ (record false).xcount.toNat ∧ (record false).xcount.toNat ≤ 64
    ∧ (wfw.coreAt 0).wfwSlot (record false) = some 0 ∧ 8 ≤ (wfw.thr 0 0).xcount.toNat := by decide +kernel

theorem test_witness_grantsOfPairs :
    let a : MangerRec := ⟨7, record false, 0, true, some true, false⟩
    let b : MangerRec := ⟨7, record false, 1152, true, some false, false⟩
    let g := base.grant a.core a.cr
    g.2 = some 1 ∧ (g.1.grant b.core b.cr).2 = some 0 ∧ (a.core, 1) ≠ (b.core, 0) := by decide +kernel

/-- A manger that holds one record. -/
def held (pin : Bool) : State :=
  base.modCluster 0 fun c => { c with manger := [⟨7, record pin, 0, false, none, false⟩] }

theorem test_witness_inserts :
    let s := (open0 base).modIo fun io => { io with held := [⟨0, record false, none, none⟩] }
    let waits := (open0 base).modIo fun io => { io with nodeReady := [(0, record false, 3, 1)] }
    (s.io.held.find? fun h => h.queue == 0) = some ⟨0, record false, none, none⟩ ∧ (look s.io.queues 0 Queue.reset).v = true
    ∧ (look s.io.queues 0 Queue.reset).ctx = (record false).ctx ∧ s.noRoom 0 = false ∧ (crammed s).noRoom 0 = true
    ∧ base.io.held = [] ∧ base.io.nodeReady = [] ∧ waits.io.nodeReady = [(0, record false, 3, 1)] ∧ waits.noRoom 0 = false := by
  decide +kernel

theorem test_witness_mangers :
    base.heldOf 7 = [] ∧ (held false).heldOf 7 = [⟨7, record false, 0, false, none, false⟩] ∧ (held false).vacated 0 = false
    ∧ (held false).killed 0 = false ∧ (held false).cancelled (record false) = false
    ∧ (pooling true true).cancelled (record false) = true := by decide +kernel

theorem test_witness_vacates :
    let pinned := modded base fun t => { t with leaveBy := some 0, pin := true, cr := { t.cr with queue := 0 } }
    let v : Vacate := ⟨5, 0, 0, 0, 0, 0, false, 0⟩
    (base.thr 0 0).leaveBy = none ∧ (pinned.thr 0 0).leaveBy = some 0 ∧ (0 : Nat) ≤ pinned.now ∧ (pinned.thr 0 0).status ≠ .free
    ∧ pinned.savable 0 0 = true ∧ ((modded pinned fun t => { t with sosOut := 1 }).savable 0 0) = false
    ∧ ((modded pinned fun t => { t with pin := false }).thr 0 0).pin = false
    ∧ ((modded base fun t => { t with leaveBy := some 1 }).now < 1)
    ∧ (look (open0 pinned).io.queues 0 Queue.reset).v = true ∧ (look (open0 pinned).io.queues 0 Queue.reset).ctx = (pinned.thr 0 0).cr.ctx
    ∧ (open0 pinned).noRoom 0 = false ∧ (crammed pinned).noRoom 0 = true
    ∧ (let s := { base with io := { base.io with vacates := [v] } }
      (s.io.vacates.find? fun x => x.word0 == 5 && !x.reported) = some v ∧ (∃ v ∈ s.io.vacates, v.word0.toNat = 5)
        ∧ ∀ v ∈ s.io.vacates, v.word0.toNat ≠ 6) := by decide +kernel

theorem test_witness_restores :
    let s := modded base fun t => { t with wait := .started, cr := { t.cr with pin := true } }
    (s.thr 0 0).status = .running ∧ (s.thr 0 0).wait = .started ∧ (s.thr 0 0).cr.pin = true ∧ s.hbmErr = []
    ∧ s.phys 0x18 8 / 2 ^ 29 % 2 = 0 ∧ s.io.saved = [] ∧ (s.clusterAt 0).freeLong ≠ none ∧ (base.thr 0 0).wait ≠ .started := by
  decide +kernel

theorem test_witness_teardowns :
    let s := base.modIo fun io => { io with teardown := [0, 1] }
    s.io.teardown.contains 1 = true ∧ (s.cores.any fun x => x.2.slots.any fun y => y.2.cr.ctx.toNat == 1) = false
    ∧ (s.cores.any fun x => x.2.slots.any fun y => y.2.cr.ctx.toNat == 0) = true ∧ base.io.teardown.contains 0 = false
    ∧ (base.cores.any fun c => c.2.slots.any fun x => x.2.cr.ctx.toNat == 0 && x.2.status == .running) = true := by decide +kernel

/-- A committed update of a key of the supervisor's page, of no task. -/
def moved : Entry := { update .add 1 0 false with task := noTask }
def exactAdd : Entry := { moved with op := .faddx }

/-- One entry in a core's stall run, a shed and a yard's last block. -/
def running : State :=
  { base with
    cores := put base.cores 0 { base.coreAt 0 with stall := [moved] }
    clusters := put [] 0 { base.clusterAt 0 with shed := [moved], blocked := [0x4000] }
    dies := put base.dies 0 { base.dieAt 0 with blocks := [[moved]], yovl := 1 } }

theorem test_witness_runs :
    (running.coreAt 0).stall = [moved] ∧ (running.clusterAt 0).shed.length + 128 ≤ 8192 ∧ running.stallMarked 0 moved.key = false
    ∧ (base.coreAt 0).stall = [] ∧ chain (base.clusterAt 0).shed moved.key = [] ∧ chain (running.clusterAt 0).shed moved.key = [moved]
    ∧ moved.key.toNat ∈ (running.clusterAt 0).blocked ∧ running.shedMarked 0 moved.key = false
    ∧ (running.dieAt (running.route moved.ctx moved.va).home).full = false
    ∧ (running.yardAccept (running.route moved.ctx moved.va).home moved 1).isSome = true
    ∧ (running.clusterAt 0).shed.length < 6144 ∧ (running.dieAt 0).blocks.getLast? = some [moved]
    ∧ (running.dieAt 0).isFrozen 0 0x10000 = false ∧ (running.dieAt 0).heldAt = [] ∧ (running.dieAt 0).parkedKey moved.key = false
    ∧ found (running.xlate 0 0 0x10000 .wr).2 = true ∧ absent (running.xlate 0 0 0x11000 .wr).2 = true := by decide +kernel

theorem test_witness_yards :
    moved.op.isFx = false ∧ exactAdd.op.isFx = true ∧ (∀ y ∈ (running.dieAt 0).dset, y.key = moved.key → y.mark = false)
    ∧ (running.dieAt 0).yard.length + (running.dieAt 0).dset.length < 491520
    ∧ (base.dieAt 0).yovl.toNat ≤ (base.dieAt 0).blocks.length ∧ (base.dieAt 0).blocks.length < (running.dieAt 0).yovl.toNat
    ∧ (tryAppend (chain (running.dieAt 0).yard moved.key) moved).1.length ≤ 4 := by decide +kernel

/-- Runs of as many entries as the fill thresholds ask for, with and without a place that an entry would take. -/
theorem test_witness_fills (n : Nat) :
    (({ running.clusterAt 0 with shed := List.replicate n moved } : Cluster).shed.length = n)
    ∧ (({ running.dieAt 0 with yard := List.replicate n moved, dset := [] } : Die).yard.length + ([] : List Entry).length = n) :=
  ⟨List.length_replicate, by simp⟩

theorem test_witness_newPlaces :
    (chain [] moved.key).length < (tryAppend (chain [] moved.key) moved).1.length
    ∧ (tryAppend [moved] { moved with task := noTask }).1.length ≤ 1
    ∧ ([] : List Entry).length < (dsetAdd [] exactAdd).1.length ∧ (dsetAdd [exactAdd] exactAdd).1.length ≤ [exactAdd].length := by decide +kernel

theorem test_witness_mergeRecords :
    base.taskLive (base.token 0 0) = true ∧ base.token 0 0 ≠ noTask ∧ base.taskLive 0x0001000000 = false
    ∧ (0x0001000000 : BitVec 40) ≠ noTask ∧ (7 : BitVec 32) ≠ 0xFFFFFFFF
    ∧ launchOf { base.coreAt 0 with hist := [(1, 9, 0)] } 1 0 = some 9 ∧ launchOf (base.coreAt 0) 1 0 = none
    ∧ (look base.io.fqBase 0 0) = 0 ∧ (look (faulting 1).io.fqBase 0 0) ≠ 0 ∧ found ((faulting 1).engTr 0 0x10100) = true := by
  decide +kernel

/-- Two threads of a pair, each with a closed window. -/
def paired (b : List Byte) : State :=
  let t (m : Nat) (l : List Byte) : Thread := { fetchThread with mate := some (m, 0), closed := [[⟨l, none, [], none, none⟩]] }
  { base with cores := put (put [] 1152 { Core.reset with threads := put [] 0 (t 0 b) }) 0 { Core.reset with threads := put [] 0 (t 1152 [1]) } }

theorem test_witness_windowHashes : base.mateAt 0 0 = none
    ∧ ∀ b ∈ [[1], [2]], (paired b).mateAt 0 0 = some (1152, 0) ∧ ((paired b).thr 0 0).closed = [[⟨[1], none, [], none, none⟩]]
      ∧ ((paired b).thr 1152 0).closed = [[⟨b, none, [], none, none⟩]] ∧ ((paired b).thr 0 0).mismatched = false := by decide +kernel

theorem test_witness_pageFaults :
    (match (base.walkPass 0 0x11000).walk 0 0x11000 .none with
      | .absent l v _ => l == 0 && v == 0
      | _ => false) = true
    ∧ absent ((base.walkPass 0 0x10000).walk 0 0x10000 .none) = false ∧ base.hint 0 0x11000 = none ∧ (0 : BitVec 128).getLsbD 1 = false
    ∧ physOk 0x100000 4096 = true ∧ Memory.wf base.mem = true ∧ Memory.wf base.hostMem = true := by decide +kernel

theorem test_witness_refusedItems :
    moved.tent = false ∧ ({ moved with tent := true } : Entry).tent = true
    ∧ (let num (lo n : Nat) : Nat := leNat (((List.replicate 32 (0 : Byte)).drop lo).take n)
      num 0 8 / 2 ^ 32 % 2 ^ 9 = 0 ∧ num 0 8 / 2 ^ 32 % 2 ^ 9 ≠ 1) := by decide +kernel

/-- A migration of the supervisor's page to die 1, which has begun or not. -/
def moving (begun : Bool) : State := running.modIo fun io => { io with migr := [⟨0, 0x10000, 4096, 0, 1, 0, begun⟩] }

theorem test_witness_migrations :
    let m : Migr := ⟨0, 0x10000, 4096, 0, 1, 0, true⟩
    let told (s : State) := s.io.migr.find? fun m => m.ctx == 0 && m.va == 0x10000
    let tent : Entry := { moved with tent := true }
    told (moving true) = some m ∧ told (moving false) = some { m with begun := false } ∧ told base = none
    ∧ m.size = 2 ^ 12 ∧ m.va % m.size = 0 ∧ m.va < 2 ^ 57 ∧ m.new < 4 ∧ (moving true).yardMarked moved.key = false
    ∧ tent.key.toNat / 2 ^ 55 = 0 ∧ m.va ≤ tent.key.toNat % 2 ^ 55 * 4 ∧ tent.key.toNat % 2 ^ 55 * 4 < m.va + m.size
    ∧ ((moving true).dieAt 0).all.all (fun x => !x.tent) = true := by decide +kernel

theorem test_witness_copies :
    let leaf : BitVec 128 := 0x10007D
    physOk 0x100000 4096 = true ∧ physOk 0x200000 4096 = true ∧ 0x100000 + 4096 ≤ 0x200000 ∧ Memory.wf base.mem = true
    ∧ base.pageKey leaf = none ∧ base.hbmErr = [] := by decide +kernel

theorem test_witness_flue :
    let f : Flue := ⟨0, 0x10, 1, 0, 0, 0⟩
    let clean := { base with mem := Memory.writeN base.mem 0x18100 (leBytes 16 0x10005D) }
    let dirty (s : State) : Option Bool := match (s.xlate 4 0 0x10000 .none).2 with
      | .ok _ _ p _ => some (((s.xlate 4 0 0x10000 .none).1.pte p).getLsbD 5)
      | _ => none
    base.io.flue = none ∧ (base.modIo fun io => { io with flue := some f }).io.flue = some f ∧ f.left ≠ 0 ∧ f.ctx < 2 ^ 32
    ∧ dirty base = some true ∧ dirty clean = some false ∧ absent (base.xlate 4 0 0x11000 .none).2 = true := by decide +kernel

theorem test_witness_sectorErrors :
    let one : BitVec 544 := 1
    let both : SMap (BitVec 544) := put (put [] 5 one) 6 one
    find? base.hbmErr 5 = none ∧ errFails one = true ∧ errFails 0 = false ∧ find? (put [] 5 one) 5 = some one
    ∧ (∀ i < 16, 0 * 16 + i ≠ 5 → errFails (look (put [] 5 one) (0 * 16 + i) 0) = false) ∧ look (put [] 5 one) (2 ^ 50 + 0) 0 = 0
    ∧ one.toNat / 2 ^ 512 % 2 ^ 16 = 0 ∧ find? both 5 = some one ∧ errFails (look both 6 0) = true := by decide +kernel

theorem test_witness_paddocks :
    let l : SMap (BitVec 64) := put (put [] 3 0x8000000000000000) 63 1
    (l.map Prod.fst).Pairwise (· < ·) ∧ (l.all fun x => x.1 < 64) = true ∧ (2303 : Nat) < 2304 := by decide +kernel

/-! ### Single steps: results worked out by hand from the rules -/

/-- The instruction answers a next state of which this holds. -/
def after (i : Instr) (s : State) (p : State → Bool) : Bool :=
  match exec i s with
  | .next t => p t
  | _ => false

/-- The instruction's one write. -/
def wrote (i : Instr) (l : List (Nat × Word)) (d : Dest) (x : Word) : Bool :=
  after i (regs (issued i 0) l) fun t => t.me.pend.map (fun w => (w.dest, w.val.map fun y => y.setWidth 64)) == [(d, some x)]

-- R219, R227, R246: `nop` at the pc, with the marker that ends its group
theorem test_step_nop : (match step base with
    | .next t => (t.thr 0 0).pc == 0x10008 && (t.thr 0 0).groupLen == 1 && t.agenda == [.groupEnd 0 0]
    | _ => false) = true := by decide +kernel

-- R231: 0xFFFFFFFF + 1 wraps in 32 bits; the sum of two .i32 is sign-extended
theorem test_add_wraps : wrote (.add .n32 (r 1) (r 2) (r 3)) [(2, 0xFFFFFFFF), (3, 1)] (.x 1) 0 = true
  ∧ wrote (.add .i32 (r 1) (r 2) (r 3)) [(2, 0x7FFFFFFF), (3, 1)] (.x 1) 0xFFFFFFFF80000000 = true := by decide +kernel

-- R232: the quotient by zero is all ones, and DZ is set
theorem test_div_by_zero : wrote (.div .i32 (r 1) (r 2) (r 3)) [(2, 7)] (.x 1) 0xFFFFFFFFFFFFFFFF = true
  ∧ after (.div .i32 (r 1) (r 2) (r 3)) (regs (issued (.div .i32 (r 1) (r 2) (r 3)) 0) [(2, 7)]) (fun t => t.me.grpFlags == Flags.dz)
    = true := by decide +kernel

-- R232: the quotient truncates toward zero, and the remainder has the dividend's sign
theorem test_rem_negative : wrote (.div .i64 (r 1) (r 2) (r 3)) [(2, -7), (3, 2)] (.x 1) (-3) = true
  ∧ wrote (.rem .i64 (r 1) (r 2) (r 3)) [(2, -7), (3, 2)] (.x 1) (-1) = true := by decide +kernel

-- R233: the amount is taken modulo the width
theorem test_sra_modulo : wrote (.sra .i8 (r 1) (r 2) (r 3)) [(2, 0x80), (3, 9)] (.x 1) 0xFFFFFFFFFFFFFFC0 = true := by decide +kernel

-- R235: −1 has no leading zero in its 16 bits, and 1 has 15
theorem test_clz : wrote (.clz .n16 (r 1) (r 2)) [(2, 1)] (.x 1) 15 = true
  ∧ wrote (.clz .n16 (r 1) (r 2)) [(2, 0xFFFF)] (.x 1) 0 = true := by decide +kernel

-- R75: a source that is the destination is read before it is written, and x0 discards
theorem test_same_register : wrote (.sub .i64 (r 2) (r 2) (r 3)) [(2, 5), (3, 7)] (.x 2) (-2) = true
  ∧ wrote (.li (r 0) 9) [] .discard 9 = true := by decide +kernel

-- R240, R241: a backward branch ends its group, four bytes to an immediate; `jr` to an odd word is ALIGN
theorem test_branch : after (.br 0 (-2)) (issued (.br 0 (-2)) 0) (fun t => t.me.pc == 0xFFF8 && t.agenda == [.groupEnd 0 0]) = true
  ∧ after (.jr (r 2)) (regs (issued (.jr (r 2)) 0) [(2, 0x10002)]) (fun t => t.agenda == [.taskAbort 0 0 .double]) = true := by
  decide +kernel

-- R313, R316: eA + eB − 127 at once on the keeper's own core, at the other seven after this cycle's turns
theorem test_keeper_set : after (.skset (r 2) (r 3)) (regs (issued (.skset (r 2) (r 3)) 0) [(2, 130), (3, 125)]) (fun t =>
    t.myCore.skr == 128 && t.myCore.skg == 1 && t.agenda == [] && t.later.length == 7
      && t.later.head? == some (.scaleSetArrival 1 128)) = true := by decide +kernel

-- R333: TCAUSE, TVAL, TEPC and the pc at THA
theorem test_trap_entry : after (.trap 5) ((issued (.trap 5) 0).modIo fun io => { io with tha := put [] 0 0x2000 })
    (fun t => t.me.tcause == 0x15 && t.me.tval == 5 && t.me.tepc == 0x10008 && t.me.pc == 0x2000 && t.me.intrap) = true := by
  decide +kernel

-- R256: the bytes of a store to the local store, the lowest first, and a load that sign-extends
theorem test_local_store : after (.stLs .i16 (.x (r 1)) (r 2) 2)
    (regs (issued (.stLs .i16 (.x (r 1)) (r 2) 2) 0) [(1, 0x1234), (2, 0x100)])
    (fun t => Memory.readN t.myCore.ls 0x101 4 == [0, 0x34, 0x12, 0]) = true
  ∧ (let s := issued (.ldLs .i8 (.x (r 1)) (r 2) 0) 0
    after (.ldLs .i8 (.x (r 1)) (r 2) 0) (s.modMyCore fun c => { c with ls := Memory.writeN [] 0 [0x80] })
      (fun t => t.me.pend.map (fun w => w.val.map fun y => y.setWidth 64) == [some (0xFFFFFFFFFFFFFF80 : Word)])) = true := by
  decide +kernel

-- R106, R114: sums at a key add; a saturated sum stays at the end of its range
theorem test_combine : ((combine (update .add 5 0 false) (update .add 7 0 false)).map fun x => x.1.val) = some 12
  ∧ ((combine (update .addsI 0x7FFFFFFF 0 false) (update .addsI 1 0 false)).map fun x => x.1.val) = some 0x7FFFFFFF := by
  decide +kernel

-- R203: the examples of the text: 0x76 is 1.5, and 0.75 is 0x65
theorem test_tw8 : (roundTy .f32 .rne (valOf .tw8 0x76)).1 = 0x3FC00000 ∧ (roundTy .tw8 .rne (valOf .f32 0x3F400000)).1 = 0x65 := by
  decide +kernel

-- R344: (2 + 3·x)·(1 of degree 0) in h0 of degree 0: the product's coefficient is 2
theorem test_polynomial : after (.hmul .rne 0 (r 2) (r 3))
    (modded (piped (.hmul .rne 0 (r 2) (r 3)) [(2, 0x4000000000000000), (3, 0x4008000000000000)])
      fun t => { t with h := put [] 0 { HAcc.reset with c := put [] 0 0x3FF0000000000000 } })
    (fun t => look (look t.me.h 0 HAcc.reset).c 0 0 == 0x4000000000000000) = true := by decide +kernel

end Sys2Proof.Tests
end

section
/-! What the applies, the fault records, the aborts and the inserts leave of the I/O die. -/

namespace Sys2Proof.Machine

set_option Elab.async false

/-- The I/O die with the fields erased that an apply, a fault record, an abort or an insert may change: lifetime counts, what
has been signalled, translations and lost sectors, fault queues, barrier arrivals, and the pool with its queues. -/
def Io.steady (io : Io) : Io :=
  { io with
    life := [], msixSent := [], pba := 0, tcache := [], lostSectors := [], heldPosts := [], fqNum := [], sfqNum := 0, bars := []
    queues := [], pool := [], arrivals := 0, held := [], saved := [] }

/-- The part of the I/O die that the key slots and the command word of the mailbox belong to. -/
def State.steady (s : State) : Io := s.io.steady

theorem keySlots_of_steady {s t : State} (h : t.steady = s.steady) : t.io.keySlots = s.io.keySlots := by
  have hk : t.steady.keySlots = s.steady.keySlots := by rw [h]
  exact hk

theorem hcmd_of_steady {s t : State} (h : t.steady = s.steady) : t.io.hcmd = s.io.hcmd := by
  have hc : t.steady.hcmd = s.steady.hcmd := by rw [h]
  exact hc

section
variable (s : State)

/-! The small updates. -/

@[simp] theorem steady_modCore (n : Nat) (f : Core → Core) : (s.modCore n f).steady = s.steady := rfl
@[simp] theorem steady_modCluster (n : Nat) (f : Cluster → Cluster) : (s.modCluster n f).steady = s.steady := rfl
@[simp] theorem steady_modDie (n : Nat) (f : Die → Die) : (s.modDie n f).steady = s.steady := rfl
@[simp] theorem steady_modThr (n k : Nat) (f : Thread → Thread) : (s.modThr n k f).steady = s.steady := rfl
@[simp] theorem steady_push (l : List Ev) : (s.push l).steady = s.steady := rfl
@[simp] theorem steady_stop (f : Fault) : (s.stop f).steady = s.steady := rfl
@[simp] theorem steady_withMem (m : List Host.Cell) : State.steady { s with mem := m } = s.steady := rfl
@[simp] theorem steady_withHbmErr (m : SMap (BitVec 544)) : State.steady { s with hbmErr := m } = s.steady := rfl
@[simp] theorem steady_tick : s.tick.steady = s.steady := rfl
@[simp] theorem steady_setPoison (pa : Nat) (b : Bool) : (s.setPoison pa b).steady = s.steady := rfl
@[simp] theorem steady_lifeAdd (item n : Nat) : (s.lifeAdd item n).steady = s.steady := rfl
@[simp] theorem steady_modQueue (q : Nat) (f : Queue → Queue) : (s.modQueue q f).steady = s.steady := rfl
@[simp] theorem steady_mapRuns (f g : List Entry → List Entry) : (s.mapRuns f g).steady = s.steady := rfl
@[simp] theorem steady_dropReplicas (ctx va : Nat) : (s.dropReplicas ctx va).steady = s.steady := rfl
@[simp] theorem steady_dropCopies (n : Nat) : (s.dropCopies n).steady = s.steady := rfl
@[simp] theorem steady_zeroSums (n k : Nat) : (s.zeroSums n k).steady = s.steady := rfl
@[simp] theorem steady_retryMoves : s.retryMoves.steady = s.steady := rfl

/-- A change of the I/O die in fields that are not kept. -/
theorem steady_modIo {f : Io → Io} (h : ∀ io, (f io).steady = io.steady) : (s.modIo f).steady = s.steady := h s.io

/-- Updates one after another. -/
theorem steady_foldl {α : Type} {f : State → α → State} (h : ∀ s x, (f s x).steady = s.steady) (l : List α) :
    (l.foldl f s).steady = s.steady := by
  induction l generalizing s with
  | nil => rfl
  | cons x l ih => exact (ih (f s x)).trans (h s x)

/-! Home memory: writes, sector reads, translations. -/

@[simp] theorem steady_needPhys (pa n : Nat) : (s.needPhys pa n).steady = s.steady := by
  unfold State.needPhys
  split <;> rfl

@[simp] theorem steady_writePhys (pa : Nat) (bs : List Byte) : (s.writePhys pa bs).steady = s.steady := by
  unfold State.writePhys
  split <;> rfl

@[simp] theorem steady_writePhysNum (pa n v : Nat) : (s.writePhysNum pa n v).steady = s.steady := steady_writePhys s pa _

@[simp] theorem steady_writeLeaf (leaf : BitVec 128) (pa : Nat) (bs : List Byte) :
    (s.writeLeaf leaf pa bs).steady = s.steady := by
  unfold State.writeLeaf
  split <;> simp

@[simp] theorem steady_sendMsi (v : Nat) : (s.sendMsi v).steady = s.steady := by
  unfold State.sendMsi
  split <;> rfl

@[simp] theorem steady_foldError (sector : Nat) (d : BitVec 544) : (s.foldError sector d).steady = s.steady := by
  have flips (f : Nat → Bool) (pa : Nat) (l : List Nat) (t : State) : (l.foldl (fun s i =>
      if f i then s.setPoison (pa + 4 * i) (!s.poisoned (pa + 4 * i)) else s) t).steady = t.steady :=
    steady_foldl t (fun u i => by split <;> simp) l
  simp only [State.foldError, steady_withHbmErr, flips, steady_withMem]

@[simp] theorem steady_mend (sector : Nat) : (s.mend sector).1.steady = s.steady := by
  have poisons (l : List Nat) (t : State) :
      (l.foldl (fun s i => s.setPoison (sector * 64 + 4 * i) true) t).steady = t.steady :=
    steady_foldl t (fun _ _ => steady_setPoison ..) l
  unfold State.mend
  split
  · rfl
  · split
    · exact steady_foldError ..
    · dsimp only
      split
      · split
        · simp only [steady_withHbmErr, steady_lifeAdd]
        · simp only [steady_foldError, steady_lifeAdd]
      · simp only [steady_push, steady_lifeAdd, poisons, steady_foldError]

@[simp] theorem steady_passSector (sector : Nat) (c : Consumer) : (s.passSector sector c).steady = s.steady := by
  have hm := steady_mend s sector
  unfold State.passSector
  dsimp only
  split
  · exact (steady_modIo _ fun _ => rfl).trans hm
  · exact hm

@[simp] theorem steady_walkReads (va lvl node : Nat) : (s.walkReads va lvl node).steady = s.steady := by
  induction lvl generalizing s node with
  | zero => simp [State.walkReads]
  | succ l ih =>
    unfold State.walkReads
    dsimp only
    split <;> simp [ih]

@[simp] theorem steady_walkPass (ctx va : Nat) : (s.walkPass ctx va).steady = s.steady := by
  unfold State.walkPass
  dsimp only
  split <;> simp

@[simp] theorem steady_keepLeaf (die key : Nat) (c : Kept) : (s.keepLeaf die key c).steady = s.steady := by
  unfold State.keepLeaf
  split <;> rfl

@[simp] theorem steady_xlateNew (die ctx va : Nat) (need : Need) : (s.xlateNew die ctx va need).1.steady = s.steady := by
  unfold State.xlateNew
  dsimp only
  split
  · split <;> simp
  · simp

@[simp] theorem steady_xlate (die ctx va : Nat) (need : Need) : (s.xlate die ctx va need).1.steady = s.steady := by
  unfold State.xlate
  split
  · simp
  · dsimp only
    repeat' split
    all_goals simp

@[simp] theorem steady_setDirty (at' : Nat) : (s.setDirty at').steady = s.steady := by
  unfold State.setDirty
  dsimp only
  split <;> simp

/-! Fault records and wait lists. -/

@[simp] theorem steady_engPass (ctx va : Nat) : (s.engPass ctx va).steady = s.steady := by
  have hx := steady_xlate s ioDie ctx va .none
  unfold State.engPass
  split <;> simp_all

@[simp] theorem steady_engStore (ctx va v n : Nat) : (s.engStore ctx va v n).steady = s.steady := by
  induction n generalizing s with
  | zero => rfl
  | succ n ih =>
    unfold State.engStore
    dsimp only
    refine (ih _).trans ?_
    split
    next t _ _ _ _ h => simpa using congrArg (·.1.steady) h.symm
    next t _ _ h => simpa using congrArg (·.1.steady) h.symm

@[simp] theorem steady_postQueue (ctx base size : Nat) (words : List Nat) :
    (s.postQueue ctx base size words).1.steady = s.steady := by
  have stores (at' : Nat) (l : List (Nat × Nat)) (t : State) :
      (l.foldl (fun s (v, i) => s.engStore ctx (at' + 8 * i) v 2) t).steady = t.steady :=
    steady_foldl t (fun _ _ => steady_engStore _ _ _ _ _) l
  unfold State.postQueue
  dsimp only
  split
  · split <;> simp [stores]
  · simp

@[simp] theorem steady_writeSup (w0 key val : Nat) : (s.writeSup w0 key val).steady = s.steady := by
  have counted (t : State) : (t.modIo fun io => { io with sfqNum := io.sfqNum + 1 }).steady = t.steady :=
    steady_modIo t fun _ => rfl
  unfold State.writeSup
  split
  · rfl
  · dsimp only
    split
    · simp only [counted, steady_postQueue]
    · split <;> simp only [steady_sendMsi, counted, steady_postQueue]

@[simp] theorem steady_postSup (w0 key val : Nat) : (s.postSup w0 key val).steady = s.steady := by
  unfold State.postSup
  dsimp only
  split <;> simp

@[simp] theorem steady_postRefused (cause acc lvl die : Nat) (task : BitVec 40) (ctx va : Nat) (val : Word) :
    (s.postRefused cause acc lvl die task ctx va val).steady = s.steady := steady_postSup ..

@[simp] theorem steady_waitOn (die ctx va : Nat) (w : List Waiter) (w0 val : Nat) :
    (s.waitOn die ctx va w w0 val).steady = s.steady := by
  unfold State.waitOn
  dsimp only
  split
  · rfl
  · split <;> simp

@[simp] theorem steady_postMergeWords (ctx : Nat) (words : List Nat) :
    (s.postMergeWords ctx words).steady = s.steady := by
  unfold State.postMergeWords
  dsimp only
  split
  · rfl
  · split
    · split
      · rfl
      · simp
    · simp

@[simp] theorem steady_postMerge (e : Entry) (level cause : Nat) (old new : BitVec 128) (launch : BitVec 32) (core : Nat) :
    (s.postMerge e level cause old new launch core).steady = s.steady := by
  have counted (t : State) (f : Io → SMap Nat) : (t.modIo fun io => { io with fqNum := f io }).steady = t.steady :=
    steady_modIo t fun _ => rfl
  unfold State.postMerge
  dsimp only
  split
  · simp only [steady_push, steady_lifeAdd]
  · simp only [steady_push, counted, steady_postMergeWords, steady_lifeAdd]

@[simp] theorem steady_postUnit (e : Entry) (level cause : Nat) (old new : BitVec 128) :
    (s.postUnit e level cause old new).steady = s.steady := by
  unfold State.postUnit
  exact steady_postMerge ..

@[simp] theorem steady_sectorLost (sector : Nat) (c : Consumer) : (s.sectorLost sector c).steady = s.steady := by
  have post (t : State) (w0 key val : Nat) : (t.postSup w0 key val).steady = t.steady := steady_postSup ..
  cases c with
  | prefetch => rfl
  | core n fetch task => exact (steady_push ..).trans (post ..)
  | yard | window | get | flue | scrub | walk | engine => exact post ..

@[simp] theorem steady_sectorRead (sector : Nat) (c : Consumer) : (s.sectorRead sector c).1.steady = s.steady := by
  unfold State.sectorRead
  dsimp only
  split <;> simp

/-! Applies at home. -/

@[simp] theorem steady_applyHome (leaf : BitVec 128) (pa : Nat) (e : Entry) : (s.applyHome leaf pa e).steady = s.steady := by
  unfold State.applyHome
  dsimp only
  split <;> simp

@[simp] theorem steady_applyEntry (die : Nat) (e : Entry) : (s.applyEntry die e).steady = s.steady := by
  have hx := steady_xlate s die e.ctx e.va .wr
  unfold State.applyEntry
  split
  · simp
  · dsimp only
    split
    · simp
    · split
      · split <;> simp
      · simp
    · simp

@[simp] theorem steady_applyKey (die : Nat) (key : Word) (p : Entry → Bool) :
    (s.applyKey die key p).steady = s.steady := by
  unfold State.applyKey
  split
  · rfl
  · exact (steady_foldl _ (fun _ _ => steady_applyEntry ..) _).trans rfl

@[simp] theorem steady_applyFx (die : Nat) (e : Entry) : (s.applyFx die e).steady = s.steady := by
  unfold State.applyFx
  split <;> simp

/-! Inserts and aborts. -/

@[simp] theorem steady_unitEnd (r : Record) (act : CtrAct) : (s.unitEnd r act).steady = s.steady := by
  unfold State.unitEnd
  split <;> rfl

@[simp] theorem steady_insertHeld (r : Record) : (s.insertHeld r).steady = s.steady := by
  unfold State.insertHeld State.insertAs
  dsimp only
  split
  · rfl
  · split
    · simp
    · split <;> rfl

@[simp] theorem steady_applyHeld : s.applyHeld.steady = s.steady :=
  steady_foldl s (fun t _ => steady_foldl t (fun _ _ => steady_applyKey ..) _) _

@[simp] theorem steady_discardTask (t : BitVec 40) : (s.discardTask t).steady = s.steady :=
  (steady_retryMoves _).trans (steady_applyHeld _)

@[simp] theorem steady_withdrawBar (n k : Nat) : (s.withdrawBar n k).steady = s.steady := by
  unfold State.withdrawBar
  split
  · rfl
  next p _ _ => cases p <;> rfl

@[simp] theorem steady_freeLong (n k : Nat) : (s.freeLong n k).steady = s.steady := by
  unfold State.freeLong
  dsimp only
  split
  · rfl
  · split <;> rfl

@[simp] theorem steady_freeSlot (n k : Nat) : (s.freeSlot n k).steady = s.steady := steady_freeLong s n k

@[simp] theorem steady_abortTask (n k : Nat) : (s.abortTask n k).1.steady = s.steady := by simp [State.abortTask]

/-- An abort for a KEYERASE, the mate's copy with it (R38, R67). -/
@[simp] theorem steady_abort_keyErase (n k : Nat) : (s.abort n k .keyErase).steady = s.steady := by
  have he : (s.abortEnd n k .keyErase).steady = s.steady := by simp [State.abortEnd]
  unfold State.abort
  dsimp only
  split
  · rfl
  · split
    · split <;> simp [he]
    · exact he

@[simp] theorem steady_dropSaved (p : Saved → Bool) : (s.dropSaved p).steady = s.steady :=
  (steady_foldl _ (fun _ _ => steady_discardTask ..) _).trans rfl

@[simp] theorem steady_poolRemove (p : PoolEntry → Bool) : (s.poolRemove p).steady = s.steady :=
  (steady_foldl _ (fun _ _ => steady_modQueue ..) _).trans rfl

@[simp] theorem steady_abortSaved (task : BitVec 40) : (s.abortSaved task).1.steady = s.steady := by
  unfold State.abortSaved
  split
  · rfl
  · exact (steady_foldl _ (fun _ _ => steady_freeSlot ..) _).trans
      ((steady_poolRemove ..).trans (steady_dropSaved ..))

/-! KEYERASE (R38). -/

@[simp] theorem steady_eraseAborts (n : Nat) : (s.eraseAborts n).steady = s.steady := by
  unfold State.eraseAborts
  refine steady_foldl s (fun t task => ?_) _
  have hs := steady_abortSaved t (BitVec.ofNat 40 task)
  dsimp only
  split
  · split <;> simp
  · split <;> simp_all

@[simp] theorem steady_eraseApply (n : Nat) : (s.eraseApply n).steady = s.steady := by
  unfold State.eraseApply
  refine steady_foldl s (fun t d => ?_) _
  refine (steady_foldl _ (fun u e => ?_) _).trans (steady_foldl t (fun _ _ => steady_applyKey ..) _)
  split <;> simp

end

end Sys2Proof.Machine
end

section
/-! The commands of the hearth mailbox (R36 to R38): what each does once Dolzia is there. -/

namespace Sys2Proof.Machine

set_option Elab.async false

/-- A field that begins at bit 0. -/
theorem div_two_pow_zero (n : Nat) : n / 2 ^ 0 = n := Nat.div_one n

/-- Dolzia runs, and the mailbox holds the command of code `c` (R32, R36). -/
def State.holds (s : State) (c : Nat) : Prop :=
  s.power = true ∧ s.io.halted = false ∧ 5 ≤ s.io.bootStep.toNat ∧ s.io.hcmd.getLsbD 63 = true ∧ s.io.hcmd.toNat % 2 ^ 12 = c

theorem dolzia_iff (s : State) :
    s.dolzia = true ↔ s.power = true ∧ s.io.halted = false ∧ 5 ≤ s.io.bootStep.toNat := by
  simp only [State.dolzia, Bool.and_eq_true, Bool.not_eq_true', decide_eq_true_eq, and_assoc]

theorem dolzia_off_iff (s : State) :
    s.dolzia = false ↔ s.power = false ∨ s.io.halted = true ∨ s.io.bootStep.toNat < 5 := by
  simp only [State.dolzia, Bool.and_eq_false_iff, Bool.not_eq_false', decide_eq_false_iff_not, Nat.not_le, or_assoc]

theorem holds_iff (s : State) (c : Nat) : s.holds c ↔ (s.dolzia && s.hcmdBusy && s.hcmdCode == c) = true := by
  simp only [Bool.and_eq_true, beq_iff_eq, dolzia_iff, State.holds, State.hcmdBusy, State.hcmdCode, bitsOf,
    div_two_pow_zero, and_assoc]

theorem command_of_holds {s : State} {c : Nat} (h : s.holds c) (run : State → State) : s.command c run = .next (run s) :=
  if_pos ((holds_iff s c).mp h)

theorem command_gives {s t : State} {c : Nat} {run : State → State} (h : s.holds c) (hr : run s = t) :
    s.command c run = .next t := hr ▸ command_of_holds h run

theorem command_of_not_holds {s : State} {c : Nat} (h : ¬s.holds c) (run : State → State) : s.command c run = .next s :=
  if_neg fun hc => h ((holds_iff s c).mpr hc)

/-- An event is the mailbox's command of code `c`: it does nothing unless the mailbox holds that command. -/
def IsCommand (i : Instr) (c : Nat) : Prop := ∃ run, ∀ s, exec i s = s.command c run

theorem exec_of_not_holds {s : State} {i : Instr} {c : Nat} (hi : IsCommand i c) (h : ¬s.holds c) : exec i s = .next s := by
  obtain ⟨run, hr⟩ := hi
  exact (hr s).trans (command_of_not_holds h run)

theorem isCommand_hearth : ∀ x ∈ [(Instr.quote, 0x001), (.idcert, 0x002), (.keyxch, 0x010), (.keyimport, 0x011),
    (.keygen, 0x012), (.keyerase, 0x013), (.liferead, 0x020)], IsCommand x.1 x.2 := by
  simp only [List.forall_mem_cons, List.not_mem_nil, false_imp_iff, implies_true, and_true]
  exact ⟨⟨_, exec_quote⟩, ⟨_, exec_idcert⟩, ⟨_, exec_keyxch⟩, ⟨_, exec_keyimport⟩, ⟨_, exec_keygen⟩, ⟨_, exec_keyerase⟩,
    ⟨_, exec_liferead⟩⟩

/-- The command word of a command of code `c` that has ended with a status (R36). -/
def endWord (c status : Nat) : Word := BitVec.ofNat 64 (status * 2 ^ 32 + c)

theorem hcmdEnd_of_code {s : State} {c : Nat} (hc : s.io.hcmd.toNat % 2 ^ 12 = c) (status : Nat) :
    s.hcmdEnd status = s.modIo fun io => { io with hcmd := endWord c status } := by
  simp only [State.hcmdEnd, State.modIo, bitsOf, div_two_pow_zero, hc, endWord]

/-- The end of a command, in a state that still has its command word. -/
theorem hcmdEnd_eq {s t : State} {c : Nat} (h : s.holds c) (status : Nat) (ht : t.io.hcmd = s.io.hcmd := by rfl) :
    t.hcmdEnd status = t.modIo fun io => { io with hcmd := endWord c status } := by
  obtain ⟨-, -, -, -, hc⟩ := h
  exact hcmdEnd_of_code (ht ▸ hc) status

/-- The end of a command with a result. -/
theorem result_eq {s t : State} {c : Nat} (h : s.holds c) (bs : List Byte)
    (ht : t.io.hcmd = s.io.hcmd := by rfl) :
    t.result bs = t.modIo fun io =>
      { io with hcmdBuf := Memory.writeN io.hcmdBuf 0 (bs.take 0xF00), hcmd := endWord c 0 } := by
  unfold State.result
  exact hcmdEnd_eq h 0 ht

theorem quote_answers {s : State} (h : s.holds 0x001) : exec .quote s = .next (s.modIo fun io =>
    { io with
      hcmdBuf := Memory.writeN io.hcmdBuf 0 ((signature s.quoted ++ s.quoted).take 0xF00), hcmd := endWord 0x001 0 }) := by
  rw [exec_quote, execQuote]
  exact command_gives h (result_eq h _)

theorem idcert_answers {s : State} (h : s.holds 0x002) : exec .idcert s = .next (s.modIo fun io =>
    { io with hcmdBuf := Memory.writeN io.hcmdBuf 0 ((Config.certificate 0).take 0xF00), hcmd := endWord 0x002 0 }) := by
  rw [exec_idcert, execIdcert]
  exact command_gives h (result_eq h _)

theorem keyxch_answers {s : State} (h : s.holds 0x010) : exec .keyxch s = .next (s.modIo fun io =>
    { io with
      transport := some (BitVec.ofNat 256 (leNat (Crypto.x25519 s.bootPrivate (s.payload 0 32))))
      hcmdBuf := Memory.writeN io.hcmdBuf 0 ((s.bootPublic ++ Crypto.signEd identity s.bootPublic).take 0xF00)
      hcmd := endWord 0x010 0 }) := by
  rw [exec_keyxch, execKeyxch]
  exact command_gives h (result_eq h _)

/-! Filling a key slot (R37). -/

theorem fillSlot_refused {s : State} {c : Nat} (h : s.holds c) (run : State → Nat → State)
    (hn : s.payloadSlot = 0 ∨ s.payloadSlot < 4096 ∧ (find? s.io.keySlots s.payloadSlot).isSome = true) :
    s.fillSlot run = s.modIo fun io => { io with hcmd := endWord c 3 } := by
  rw [← hcmdEnd_eq h]
  simp only [State.fillSlot]
  split
  · rfl
  next h0 =>
    obtain ⟨hlt, hs⟩ := hn.resolve_left h0
    rw [if_neg (by omega), if_pos hs]

theorem fillSlot_bad {s : State} {c : Nat} (h : s.holds c) (run : State → Nat → State) (hn : 4096 ≤ s.payloadSlot) :
    s.fillSlot run = s.modIo fun io => { io with hcmd := endWord c 2 } := by
  rw [← hcmdEnd_eq h]
  simp only [State.fillSlot]
  rw [if_neg (by omega), if_pos hn]

/-- An event is the command of code `c` that fills an empty key slot. -/
def FillsSlot (i : Instr) (c : Nat) : Prop := ∃ run, ∀ s, exec i s = s.command c fun s => s.fillSlot run

theorem fillsSlot_hearth : ∀ x ∈ [(Instr.keyimport, 0x011), (.keygen, 0x012)], FillsSlot x.1 x.2 := by
  simp only [List.forall_mem_cons, List.not_mem_nil, false_imp_iff, implies_true, and_true]
  exact ⟨⟨_, exec_keyimport⟩, ⟨_, exec_keygen⟩⟩

theorem exec_fill_refused {s : State} {i : Instr} {c : Nat} (hi : FillsSlot i c) (h : s.holds c)
    (hn : s.payloadSlot = 0 ∨ s.payloadSlot < 4096 ∧ (find? s.io.keySlots s.payloadSlot).isSome = true) :
    exec i s = .next (s.modIo fun io => { io with hcmd := endWord c 3 }) := by
  obtain ⟨run, hr⟩ := hi
  exact (hr s).trans (command_gives h (fillSlot_refused h run hn))

theorem exec_fill_bad {s : State} {i : Instr} {c : Nat} (hi : FillsSlot i c) (h : s.holds c) (hn : 4096 ≤ s.payloadSlot) :
    exec i s = .next (s.modIo fun io => { io with hcmd := endWord c 2 }) := by
  obtain ⟨run, hr⟩ := hi
  exact (hr s).trans (command_gives h (fillSlot_bad h run hn))

theorem fillSlot_runs {s : State} (run : State → Nat → State) (h0 : 0 < s.payloadSlot) (hn : s.payloadSlot < 4096)
    (hs : (find? s.io.keySlots s.payloadSlot).isSome = false) : s.fillSlot run = run s s.payloadSlot := by
  simp only [State.fillSlot]
  rw [if_neg (by omega), if_neg (by omega), if_neg (by simp [hs])]

/-- The key that the payload of KEYIMPORT unwraps to under the transport key, if one has been agreed (R36, R37). -/
def State.importKey (s : State) : Option (List Byte) :=
  s.io.transport.bind fun k => Crypto.unwrap (leBytes 32 k.toNat) (s.payload 8 72)

/-- KEYIMPORT of a payload that does not unwrap. The payload is named `p` in the proof, so that no check of the cases evaluates
the cipher. -/
theorem keyimport_bad {s : State} (h : s.holds 0x011) (h0 : 0 < s.payloadSlot) (hn : s.payloadSlot < 4096)
    (hs : (find? s.io.keySlots s.payloadSlot).isSome = false) (hk : s.importKey = none) :
    exec .keyimport s = .next (s.modIo fun io => { io with hcmd := endWord 0x011 2 }) := by
  rw [exec_keyimport, execKeyimport, command_of_holds h, fillSlot_runs _ h0 hn hs, ← hcmdEnd_eq h]
  unfold State.importKey at hk
  obtain ⟨p, hp⟩ : ∃ p, s.payload 8 72 = p := ⟨_, rfl⟩
  rw [hp] at hk ⊢
  cases ht : s.io.transport with
  | none => rfl
  | some k =>
    rw [ht, Option.bind_some] at hk
    simp only [hk]

/-- KEYIMPORT into an empty slot. -/
theorem keyimport_fills {s : State} (h : s.holds 0x011) (h0 : 0 < s.payloadSlot) (hn : s.payloadSlot < 4096)
    (hs : (find? s.io.keySlots s.payloadSlot).isSome = false) {key : List Byte} (hk : s.importKey = some key) :
    exec .keyimport s = .next ((s.setSlot s.payloadSlot (BitVec.ofNat 512 (leNat key))).modIo fun io =>
          { io with hcmd := endWord 0x011 0 }) := by
  rw [exec_keyimport, execKeyimport, command_of_holds h, fillSlot_runs _ h0 hn hs, ← hcmdEnd_eq h]
  unfold State.importKey at hk
  obtain ⟨p, hp⟩ : ∃ p, s.payload 8 72 = p := ⟨_, rfl⟩
  rw [hp] at hk ⊢
  obtain ⟨k, ht, hu⟩ := Option.bind_eq_some_iff.mp hk
  simp only [ht, hu]

theorem keyimport_cases {s : State} (h : s.holds 0x011) (h0 : 0 < s.payloadSlot) (hn : s.payloadSlot < 4096)
    (hs : (find? s.io.keySlots s.payloadSlot).isSome = false) : match s.importKey with
    | none => exec .keyimport s = .next (s.modIo fun io => { io with hcmd := endWord 0x011 2 })
    | some key => exec .keyimport s = .next ((s.setSlot s.payloadSlot (BitVec.ofNat 512 (leNat key))).modIo fun io =>
        { io with hcmd := endWord 0x011 0 }) := by
  split
  next hk => exact keyimport_bad h h0 hn hs hk
  next key hk => exact keyimport_fills h h0 hn hs hk

/-- KEYGEN into an empty slot. -/
theorem keygen_empty {s : State} (h : s.holds 0x012) (h0 : 0 < s.payloadSlot) (hn : s.payloadSlot < 4096)
    (hs : (find? s.io.keySlots s.payloadSlot).isSome = false) :
    exec .keygen s = .next ((s.tick.setSlot s.payloadSlot (Config.hearthBytes (2 * s.fresh + 1))).modIo fun io =>
      { io with hcmd := endWord 0x012 0 }) := by
  rw [exec_keygen, execKeygen]
  exact command_gives h ((fillSlot_runs _ h0 hn hs).trans (hcmdEnd_eq h 0))

/-! KEYERASE (R38). -/

/-- Entries of a key slot's pages that KEYERASE waits for: tentative ones, and those that bear a read mark. -/
def State.eraseWaits (s : State) (n : Nat) : Bool :=
  [0, 1, 2, 3].any fun d => (s.dieAt d).all.any fun e => s.namesSlot n e.key && (e.tent || s.yardMarked e.key)

theorem eraseWaits_eq (s : State) (n : Nat) :
    (((List.range 4).flatMap fun d => s.slotEntries d n).any fun e => e.tent || s.yardMarked e.key) = s.eraseWaits n := by
  simp only [State.slotEntries, List.any_flatMap, List.any_filter, State.eraseWaits]
  rfl

/-- What KEYERASE leaves once nothing is waited for. -/
def State.erased (s : State) (n : Nat) : State :=
  ((((s.eraseApply n).dropCopies n).modIo fun io => { io with keySlots := del io.keySlots n }).hcmdEnd 0).retryMoves

theorem keyerase_slot {s : State} (h : s.holds 0x013) (h0 : 0 < s.payloadSlot) (hn : s.payloadSlot < 4096) :
    exec .keyerase s = .next (if (s.eraseAborts s.payloadSlot).eraseWaits s.payloadSlot then
        (s.eraseAborts s.payloadSlot).defer .keyerase
      else (s.eraseAborts s.payloadSlot).erased s.payloadSlot) := by
  rw [exec_keyerase, execKeyerase]
  refine command_gives h ?_
  dsimp only
  rw [if_neg (by omega), if_neg (by omega), eraseWaits_eq]
  rfl

theorem keyerase_waits {s : State} (h : s.holds 0x013) (h0 : 0 < s.payloadSlot) (hn : s.payloadSlot < 4096)
    (hw : (s.eraseAborts s.payloadSlot).eraseWaits s.payloadSlot = true) :
    exec .keyerase s = .next ((s.eraseAborts s.payloadSlot).defer .keyerase) := by
  rw [keyerase_slot h h0 hn, if_pos hw]

theorem keyerase_ends {s : State} (h : s.holds 0x013) (h0 : 0 < s.payloadSlot) (hn : s.payloadSlot < 4096)
    (hw : ¬(s.eraseAborts s.payloadSlot).eraseWaits s.payloadSlot = true) :
    exec .keyerase s = .next ((s.eraseAborts s.payloadSlot).erased s.payloadSlot) := by
  rw [keyerase_slot h h0 hn, if_neg hw]

theorem keyerase_zero {s : State} (h : s.holds 0x013) (h0 : s.payloadSlot = 0) :
    exec .keyerase s = .next (s.modIo fun io => { io with hcmd := endWord 0x013 3 }) := by
  rw [exec_keyerase, execKeyerase, ← hcmdEnd_eq h]
  refine command_gives h ?_
  dsimp only
  rw [if_pos h0]

theorem keyerase_bad {s : State} (h : s.holds 0x013) (hn : 4096 ≤ s.payloadSlot) :
    exec .keyerase s = .next (s.modIo fun io => { io with hcmd := endWord 0x013 2 }) := by
  rw [exec_keyerase, execKeyerase, ← hcmdEnd_eq h]
  refine command_gives h ?_
  dsimp only
  rw [if_neg (by omega), if_pos hn]

/-- KEYERASE empties its slot of the slots there were, whatever its aborts and applies bring about. -/
theorem erased_keySlots {s t : State} (ht : t.steady = s.steady) (n : Nat) :
    (t.erased n).io.keySlots = del s.io.keySlots n := by
  have hk : (t.eraseApply n).io.keySlots = s.io.keySlots := keySlots_of_steady ((steady_eraseApply t n).trans ht)
  rw [State.erased, ← hk]
  generalize t.eraseApply n = u
  rfl

theorem erased_hcmd {s t : State} {c : Nat} (h : s.holds c) (ht : t.steady = s.steady) (n : Nat) :
    (t.erased n).io.hcmd = endWord c 0 := by
  have hc : (t.eraseApply n).io.hcmd = s.io.hcmd := hcmd_of_steady ((steady_eraseApply t n).trans ht)
  rw [State.erased]
  generalize t.eraseApply n = u at hc ⊢
  rw [hcmdEnd_eq h 0 (by exact hc)]
  rfl

/-- Where no die holds anything there are no entries of a key slot's pages. -/
theorem slotEntries_empty {s : State} (hd : s.dies = []) (d n : Nat) : s.slotEntries d n = [] := by
  simp only [State.slotEntries, State.dieAt, hd]
  rfl

theorem eraseAborts_empty {s : State} (hd : s.dies = []) (n : Nat) : s.eraseAborts n = s := by
  simp only [State.eraseAborts, slotEntries_empty hd]
  rfl

theorem eraseApply_empty {s : State} (hd : s.dies = []) (n : Nat) : s.eraseApply n = s := by
  simp only [State.eraseApply, show List.range 4 = [0, 1, 2, 3] from rfl, List.foldl_cons, List.foldl_nil,
    slotEntries_empty hd, keysOf, List.map_nil]

theorem dropCopies_empty {s : State} (hd : s.dies = []) (n : Nat) : s.dropCopies n = s := by
  simp only [State.dropCopies, hd, List.map_nil]
  rw [← hd]

theorem push_nil (s : State) : s.push [] = s := by simp only [State.push, List.append_nil]

theorem retryMoves_empty {s : State} (hc : s.clusters = []) : s.retryMoves = s := by
  rw [State.retryMoves, hc]
  exact push_nil s

/-- KEYERASE in a package that holds no entries and no keys that wait. -/
theorem erased_empty {s : State} {c : Nat} (h : s.holds c) (hd : s.dies = []) (hcl : s.clusters = []) (n : Nat) :
    (s.eraseAborts n).erased n = s.modIo fun io => { io with keySlots := del io.keySlots n, hcmd := endWord c 0 } := by
  rw [State.erased, eraseAborts_empty hd, eraseApply_empty hd, dropCopies_empty hd, hcmdEnd_eq h 0 (by rfl)]
  exact retryMoves_empty hcl

/-- KEYERASE of a slot in its cases. -/
theorem keyerase_cases {s : State} (h : s.holds 0x013) (h0 : 0 < s.payloadSlot) (hn : s.payloadSlot < 4096) :
    if (s.eraseAborts s.payloadSlot).eraseWaits s.payloadSlot then
      exec .keyerase s = .next ((s.eraseAborts s.payloadSlot).defer .keyerase)
    else ∃ t, exec .keyerase s = .next t ∧ t.io.keySlots = del s.io.keySlots s.payloadSlot ∧ t.io.hcmd = endWord 0x013 0
      ∧ (s.dies = [] → s.clusters = [] → s.io.migr = [] →
        t = s.modIo fun io => { io with keySlots := del io.keySlots s.payloadSlot, hcmd := endWord 0x013 0 }) := by
  split
  next hw => exact keyerase_waits h h0 hn hw
  next hw =>
    exact ⟨_, keyerase_ends h h0 hn hw, erased_keySlots (steady_eraseAborts ..) _, erased_hcmd h (steady_eraseAborts ..) _,
      fun hd hc _ => erased_empty h hd hc _⟩

/-! LIFEREAD (R36). -/

theorem liferead_busy {s : State} (h : s.holds 0x020) (hr : s.io.redfishSection = some s.payloadSlot) :
    exec .liferead s = .next (s.modIo fun io => { io with hcmd := endWord 0x020 4 }) := by
  rw [exec_liferead, execLiferead, ← hcmdEnd_eq h]
  refine command_gives h ?_
  dsimp only
  rw [if_pos (by simp [hr])]

theorem liferead_answers {s : State} (h : s.holds 0x020) (hr : s.io.redfishSection ≠ some s.payloadSlot) :
    exec .liferead s = .next (s.modIo fun io =>
      { io with
        hcmdBuf := Memory.writeN io.hcmdBuf 0 ((Config.lifeSection s.payloadSlot io.life).take 0xF00)
        hcmd := endWord 0x020 0 }) := by
  rw [exec_liferead, execLiferead]
  refine command_gives h ?_
  dsimp only
  rw [if_neg (by simpa using hr), result_eq h]
  rfl

end Sys2Proof.Machine
end

section
/-! The host's windows (R27 to R31): what an access of the pool window or of a memory window does, case by case. -/

namespace Sys2Proof.Machine

set_option Elab.async false

/-! The pool window (R28, R29). -/

theorem poolCheck_eq (s : State) (a : HostAccess) (q : Nat) : s.poolCheck a q =
    if a.read then some 5
    else if a.size ≠ 64 ∨ a.data.length ≠ 64 then some 1
    else if a.offset % 64 ≠ 0 then some 2
    else if (s.queue q).v = false then some 4
    else if a.pasid.bind s.slotOf = some 0 ∧ a.priv = false then some 7
    else if a.pasid.bind s.slotOf ≠ some (s.queue q).ctx.toNat ∨ s.torn (s.queue q).ctx.toNat = true then some 3
    else if (s.queue q).limit ≤ (s.queue q).depth ∨ 262144 ≤ s.io.pool.length then some 6
    else none := by
  simp only [State.poolCheck, State.noRoom, Io.poolFull, Bool.or_eq_true, Bool.and_eq_true, Bool.not_eq_true', decide_eq_true_eq,
    beq_iff_eq, bne_iff_ne]

/-- A discard of cause `c` at queue `q`: SUBERR, and DROPS of a queue without room (R29, R54). -/
def State.discarded (s : State) (c q : Nat) : State := s.modIo fun io =>
  { io with
    suberrCount := BitVec.ofNat 16 (min (io.suberrCount.toNat + 1) 0xFFFF)
    suberrCause := BitVec.ofNat 4 c
    suberrQueue := BitVec.ofNat 12 q
    queues := if c = 6 then put io.queues q
        { look io.queues q Queue.reset with
          drops := BitVec.ofNat 16 (min ((look io.queues q Queue.reset).drops.toNat + 1) 0xFFFF) }
      else io.queues }

theorem discarded_eq (s : State) (c q : Nat) :
    s.discarded c q = if c = 6 then (s.subErr c q).dropInsert q else s.subErr c q := by
  by_cases h : c = 6
  · subst h; rfl
  · simp only [State.discarded, h, if_false]; rfl

section
variable {e : State} {a : HostAccess} (he : e.ev = .poolWindowAccess a)
include he

theorem poolWindow_unlinked (hl : e.linked = false) : exec .poolWindowAccess e = .next e := by
  rw [exec_poolWindowAccess, execPoolWindowAccess, he]
  simp only [hl, Bool.not_false, if_true]

theorem poolWindow_halted (hl : e.linked = true) (hh : e.io.halted = true) :
    exec .poolWindowAccess e = .next (e.turnAway a) := by
  rw [exec_poolWindowAccess, execPoolWindowAccess, he]
  simp only [hl, hh, Bool.not_true, Bool.false_eq_true, if_true, if_false]

theorem poolWindow_discards (hl : e.linked = true) (hh : e.io.halted = false) {c : Nat}
    (hc : e.poolCheck a (a.offset / 4096 % 4096) = some c) :
    let u := e.discarded c (a.offset / 4096 % 4096)
    exec .poolWindowAccess e = .next (if a.read then u.reply (List.replicate a.size 0xFF) false false else u) := by
  rw [exec_poolWindowAccess, execPoolWindowAccess, he]
  dsimp only
  rw [discarded_eq]
  simp only [hl, hh, hc, Bool.not_true, Bool.false_eq_true, if_false]

theorem poolWindow_places (hl : e.linked = true) (hh : e.io.halted = false)
    (hc : e.poolCheck a (a.offset / 4096 % 4096) = none) :
    exec .poolWindowAccess e = .next (e.poolPlace (a.offset / 4096 % 4096) (recordOf (leNat a.data))) := by
  rw [exec_poolWindowAccess, execPoolWindowAccess, he]
  simp only [hl, hh, hc, Bool.not_true, Bool.false_eq_true, if_false]

/-- POOL_WINDOW_ACCESS in its cases. -/
theorem poolWindow_cases :
    let ends (t : State) : Prop := exec .poolWindowAccess e = .next t
    let q := a.offset / 4096 % 4096
    if e.linked = false then ends e
    else if e.io.halted = true then ends (e.turnAway a)
    else match e.poolCheck a q with
    | some c => ends (if a.read then (e.discarded c q).reply (List.replicate a.size 0xFF) false false else e.discarded c q)
    | none => ends (e.poolPlace q (recordOf (leNat a.data))) := by
  intro ends q
  split
  next hl => exact poolWindow_unlinked he hl
  next hl =>
    have hl : e.linked = true := eq_true_of_ne_false hl
    split
    next hh => exact poolWindow_halted he hl hh
    next hh =>
      have hh : e.io.halted = false := eq_false_of_ne_true hh
      split
      next c hc => exact poolWindow_discards he hl hh hc
      next hc => exact poolWindow_places he hl hh hc

end

/-! The slot of a memory window's access, and the elements of a write (R27, R31). -/

theorem windowSlot_eq (s : State) (a : HostAccess) : s.windowSlot a = (match a.pasid with
    | some p => s.slotOf p
    | none => if s.io.mwdef = 0 then none else some s.io.mwdef.toNat).filter fun n =>
      (look s.io.ctxb n 0).getLsbD 63 && (look s.io.ctxb n 0).getLsbD 62 && (n != 0 || a.priv) :=
  Option.bind_guard _ _

/-- Bytes of the first element of `n` bytes at an address (R31). -/
def elementWidth (va n : Nat) : Nat := if va % 8 = 0 ∧ 8 ≤ n then 8 else 4

theorem elementWidth_le {va n : Nat} (h4 : n % 4 = 0) (h0 : n ≠ 0) : elementWidth va n ≤ n := by
  unfold elementWidth
  split <;> omega

theorem elementWidth_pos (va n : Nat) : 0 < elementWidth va n := by
  unfold elementWidth
  split <;> omega

theorem sub_elementWidth_mod {va n : Nat} (h4 : n % 4 = 0) : (n - elementWidth va n) % 4 = 0 := by
  unfold elementWidth
  split <;> omega

theorem windowElements_cons (n va : Nat) {l : List Byte} (hl : l ≠ []) : windowElements (n + 1) va l =
    (va, l.take (elementWidth va l.length)) :: windowElements n (va + elementWidth va l.length)
      (l.drop (elementWidth va l.length)) := by
  rw [windowElements, elementWidth]
  · simp only [Bool.and_eq_true, decide_eq_true_eq]
    split <;> rfl
  · exact hl

/-- The elements hold the bytes in their order. -/
theorem windowElements_flatten (n va : Nat) (l : List Byte) (h4 : l.length % 4 = 0) (hn : l.length ≤ n) :
    (windowElements n va l).flatMap Prod.snd = l := by
  induction n generalizing va l with
  | zero => rw [List.length_eq_zero_iff.mp (Nat.le_zero.mp hn)]; rfl
  | succ n ih =>
    by_cases hl : l = []
    · rw [hl]; rfl
    · have hw := elementWidth_pos va l.length
      rw [windowElements_cons n va hl, List.flatMap_cons, ih, List.take_append_drop]
      · rw [List.length_drop]; exact sub_elementWidth_mod h4
      · rw [List.length_drop]; omega

/-- Each element stands behind the bytes of those before it, and is as wide as what is left there allows. -/
theorem windowElements_place (n va : Nat) (l : List Byte) (h4 : l.length % 4 = 0) (hn : l.length ≤ n) (j : Nat)
    (x : Nat × List Byte) (hx : (windowElements n va l)[j]? = some x) :
    let at' := va + (((windowElements n va l).take j).flatMap Prod.snd).length
    x.1 = at' ∧ x.2.length = if at' % 8 = 0 ∧ at' + 8 ≤ va + l.length then 8 else 4 := by
  induction n generalizing va l j with
  | zero => simp [windowElements] at hx
  | succ n ih =>
    by_cases hl : l = []
    · simp [hl, windowElements] at hx
    · have h0 : l.length ≠ 0 := by simpa using hl
      have hw := elementWidth_pos va l.length
      have hle : elementWidth va l.length ≤ l.length := elementWidth_le h4 h0
      rw [windowElements_cons n va hl] at hx ⊢
      cases j with
      | zero =>
        cases hx
        refine ⟨rfl, ?_⟩
        rw [List.length_take_of_le hle, elementWidth]
        simp only [List.take_zero, List.flatMap_nil, List.length_nil, Nat.add_zero, Nat.add_le_add_iff_left]
      | succ j =>
        have hlen : (l.drop (elementWidth va l.length)).length = l.length - elementWidth va l.length := List.length_drop
        have hrest := ih (va + elementWidth va l.length) (l.drop (elementWidth va l.length))
          (hlen ▸ sub_elementWidth_mod h4) (by omega) j (by simpa using hx)
        simp only [List.take_succ_cons, List.flatMap_cons, List.length_append, List.length_take_of_le hle, ← Nat.add_assoc]
        rw [hlen, Nat.add_assoc va _ (l.length - _), Nat.add_sub_cancel' hle] at hrest
        exact hrest

/-! Misses of a memory window (R31, R166, R369). -/

section
variable (s : State) (m : LoadMiss)

theorem windowMiss_mapped {pa at' lvl : Nat} {leaf : BitVec 128} (hm : m.tr = .ok pa leaf at' lvl) :
    s.windowMiss m = some s := by rw [State.windowMiss, hm]

theorem windowMiss_refused {c lvl : Nat} {v : Word} (hm : m.tr = .refused c lvl v) :
    s.windowMiss m = some (s.postRefused c 5 lvl m.die noTask m.ctx m.va v) := by rw [State.windowMiss, hm]

theorem windowMiss_absent {lvl at' : Nat} {v : BitVec 128} (hm : m.tr = .absent lvl v at') :
    s.windowMiss m = if m.held = true ∨ s.waitRoom m.die m.ctx m.va = false then none
      else some (s.waitOn m.die m.ctx m.va [] (supWord 1 1 5 lvl m.die noTask) (v.toNat % 2 ^ 64)) := by
  simp only [State.windowMiss, hm, Bool.or_eq_true, Bool.not_eq_true', bitsOf, div_two_pow_zero]

end

/-! Writes of a memory window (R31). -/


section
variable {e : State} {a : HostAccess} (he : e.ev = .memoryWindowWrite a)
include he

theorem memoryWrite_off (h : e.linked = false ∨ e.io.halted = true) : exec .memoryWindowWrite e = .next e := by
  rw [exec_memoryWindowWrite, execMemoryWindowWrite, he]
  simp only [Bool.or_eq_true, Bool.not_eq_true', h, if_true]

theorem memoryWrite_part (h : ¬(e.linked = false ∨ e.io.halted = true)) (h4 : a.offset % 4 ≠ 0 ∨ a.data.length % 4 ≠ 0) :
    exec .memoryWindowWrite e = .next (e.subErr 1 0) := by
  rw [exec_memoryWindowWrite, execMemoryWindowWrite, he]
  simp only [Bool.or_eq_true, Bool.not_eq_true', h, decide_eq_true_eq, h4, if_true, if_false]

variable (h : ¬(e.linked = false ∨ e.io.halted = true)) (h4 : ¬(a.offset % 4 ≠ 0 ∨ a.data.length % 4 ≠ 0))
include h h4

theorem memoryWrite_noSlot (hs : e.windowSlot a = none) : exec .memoryWindowWrite e = .next e := by
  rw [exec_memoryWindowWrite, execMemoryWindowWrite, he]
  simp only [Bool.or_eq_true, Bool.not_eq_true', h, decide_eq_true_eq, h4, hs, if_false]

theorem memoryWrite_behind {ctx : Nat} (hs : e.windowSlot a = some ctx) (hb : e.windowLater = true) :
    exec .memoryWindowWrite e = .next (e.defer (.memoryWindowWrite a)) := by
  rw [exec_memoryWindowWrite, execMemoryWindowWrite, he]
  simp only [Bool.or_eq_true, Bool.not_eq_true', h, decide_eq_true_eq, h4, hs, hb, if_true, if_false]

variable {ctx : Nat} (hs : e.windowSlot a = some ctx) (hb : e.windowLater = false) {u : State}
include hs hb

theorem memoryWrite_absent {lvl at' : Nat} {pte : BitVec 128}
    (hx : e.xlate (e.route ctx (e.windowVa ctx a.offset)).home ctx (e.windowVa ctx a.offset) .wr = (u, .absent lvl pte at')) :
    let va := e.windowVa ctx a.offset
    let home := (e.route ctx va).home
    exec .memoryWindowWrite e = .next (if u.waitRoom home ctx va = false then u.defer (.memoryWindowWrite a)
      else u.waitOn home ctx va [] (supWord 1 1 5 lvl home noTask) (pte.toNat % 2 ^ 64)) := by
  rw [exec_memoryWindowWrite, execMemoryWindowWrite, he]
  simp only [Bool.or_eq_true, Bool.not_eq_true', h, decide_eq_true_eq, h4, hs, hb, hx,
    windowMiss_absent u ⟨_, _, _, _, false⟩ rfl, if_false, Bool.false_eq_true, false_or]
  split <;> rfl

theorem memoryWrite_refused {c lvl : Nat} {pte : Word}
    (hx : e.xlate (e.route ctx (e.windowVa ctx a.offset)).home ctx (e.windowVa ctx a.offset) .wr = (u, .refused c lvl pte)) :
    let va := e.windowVa ctx a.offset
    let home := (e.route ctx va).home
    exec .memoryWindowWrite e = .next (u.postRefused c 5 lvl home noTask ctx va pte) := by
  rw [exec_memoryWindowWrite, execMemoryWindowWrite, he]
  simp only [Bool.or_eq_true, Bool.not_eq_true', h, decide_eq_true_eq, h4, hs, hb, hx,
    windowMiss_refused u ⟨_, _, _, _, false⟩ rfl, if_false, Bool.false_eq_true]
  rw [Option.getD_some]

theorem memoryWrite_enters {pa at' lvl : Nat} {leaf : BitVec 128}
    (hx : e.xlate (e.route ctx (e.windowVa ctx a.offset)).home ctx (e.windowVa ctx a.offset) .wr = (u, .ok pa leaf at' lvl)) :
    let va := e.windowVa ctx a.offset
    exec .memoryWindowWrite e = .next ((windowElements a.data.length va a.data).foldl (fun t x =>
      t.yardTake (e.route ctx va).home { windowEntry ctx x.1 x.2 with ord := BitVec.ofNat 2 (leafOrd leaf) } 5) u) := by
  rw [exec_memoryWindowWrite, execMemoryWindowWrite, he]
  simp only [Bool.or_eq_true, Bool.not_eq_true', h, decide_eq_true_eq, h4, hs, hb, hx, if_false, Bool.false_eq_true]

end

/-- MEMORY_WINDOW_WRITE in its cases. -/
theorem memoryWrite_cases {e : State} {a : HostAccess} (he : e.ev = .memoryWindowWrite a) :
    let ends (t : State) : Prop := exec .memoryWindowWrite e = .next t
    if e.linked = false ∨ e.io.halted = true then ends e
    else if a.offset % 4 ≠ 0 ∨ a.data.length % 4 ≠ 0 then ends (e.subErr 1 0)
    else match e.windowSlot a with
    | none => ends e
    | some ctx =>
      let va := e.windowVa ctx a.offset
      let home := (e.route ctx va).home
      let moved := e.xlate home ctx va .wr
      let u := moved.1
      if e.windowLater = true then ends (e.defer (.memoryWindowWrite a))
      else match moved.2 with
      | .absent lvl pte _ => ends (if u.waitRoom home ctx va = false then u.defer (.memoryWindowWrite a)
          else u.waitOn home ctx va [] (supWord 1 1 5 lvl home noTask) (pte.toNat % 2 ^ 64))
      | .refused c lvl pte => ends (u.postRefused c 5 lvl home noTask ctx va pte)
      | .ok _ leaf _ _ => ∃ l : List (Nat × List Byte), l.flatMap Prod.snd = a.data
        ∧ (∀ j x, l[j]? = some x →
          let at' := va + ((l.take j).flatMap Prod.snd).length
          x.1 = at' ∧ x.2.length = if at' % 8 = 0 ∧ at' + 8 ≤ va + a.data.length then 8 else 4)
        ∧ ends (l.foldl (fun t x => t.yardTake home
            { windowEntry ctx x.1 x.2 with ord := BitVec.ofNat 2 (leafOrd leaf) } 5) u) := by
  intro ends
  split
  next h => exact memoryWrite_off he h
  next h =>
    split
    next h4 => exact memoryWrite_part he h h4
    next h4 =>
      split
      next hs => exact memoryWrite_noSlot he h h4 hs
      next ctx hs =>
        intro va home moved u
        split
        next hb => exact memoryWrite_behind he h h4 hs hb
        next hb =>
          have hb : e.windowLater = false := eq_false_of_ne_true hb
          have hx {r : Tr} (hr : moved.2 = r) : moved = (u, r) := Prod.ext rfl hr
          split
          next lvl pte at' hr => exact memoryWrite_absent he h h4 hs hb (hx hr)
          next c lvl pte hr => exact memoryWrite_refused he h h4 hs hb (hx hr)
          next pa leaf at' lvl hr =>
            have h4' : a.data.length % 4 = 0 := by omega
            exact ⟨windowElements a.data.length va a.data, windowElements_flatten _ _ _ h4' (Nat.le_refl _),
              windowElements_place _ _ _ h4' (Nat.le_refl _), memoryWrite_enters he h h4 hs hb (hx hr)⟩

/-! Reads of a memory window (R31). -/

/-- The doublewords that an access reads. -/
def State.windowReads (s : State) (ctx : Nat) (a : HostAccess) : State × Except LoadMiss (List (Nat × Dw) × Bool) :=
  s.windowDws ctx ((List.range a.size).map fun i => (s.windowVa ctx a.offset + i) / 8 * 8).eraseDups .window

section
variable {e : State} {a : HostAccess} (he : e.ev = .memoryWindowRead a)
include he

theorem memoryRead_unlinked (hl : e.linked = false) : exec .memoryWindowRead e = .next e := by
  rw [exec_memoryWindowRead, execMemoryWindowRead, he]
  simp only [hl, Bool.not_false, if_true]

variable (hl : e.linked = true)
include hl

theorem memoryRead_halted (hh : e.io.halted = true) : exec .memoryWindowRead e = .next (e.turnAway a) := by
  rw [exec_memoryWindowRead, execMemoryWindowRead, he]
  simp only [hl, hh, Bool.not_true, Bool.false_eq_true, if_true, if_false]

variable (hh : e.io.halted = false)
include hh

theorem memoryRead_noSlot (hs : e.windowSlot a = none) : exec .memoryWindowRead e = .next (e.turnAway a) := by
  rw [exec_memoryWindowRead, execMemoryWindowRead, he]
  simp only [hl, hh, hs, Bool.not_true, Bool.false_eq_true, if_false]

theorem memoryRead_behind {ctx : Nat} (hs : e.windowSlot a = some ctx) (hb : e.windowLater = true) :
    exec .memoryWindowRead e = .next (e.defer (.memoryWindowRead a)) := by
  rw [exec_memoryWindowRead, execMemoryWindowRead, he]
  simp only [hl, hh, hs, hb, Bool.not_true, Bool.false_eq_true, if_true, if_false]

variable {ctx : Nat} (hs : e.windowSlot a = some ctx) (hb : e.windowLater = false) {u : State}
include hs hb

theorem memoryRead_miss {m : LoadMiss} (hx : e.windowReads ctx a = (u, .error m)) :
    exec .memoryWindowRead e = .next (match u.windowMiss m with
      | some t => t.turnAway a
      | none => u.defer (.memoryWindowRead a)) := by
  rw [exec_memoryWindowRead, execMemoryWindowRead, he]
  unfold State.windowReads at hx
  simp only [hl, hh, hs, hb, hx, Bool.not_true, Bool.false_eq_true, if_false]
  split <;> simp only [*]

theorem memoryRead_mapped {m : LoadMiss} (hx : e.windowReads ctx a = (u, .error m)) {pa at' lvl : Nat} {leaf : BitVec 128}
    (hm : m.tr = .ok pa leaf at' lvl) : exec .memoryWindowRead e = .next (u.turnAway a) := by
  rw [memoryRead_miss he hl hh hs hb hx, windowMiss_mapped u m hm]

theorem memoryRead_refused {m : LoadMiss} (hx : e.windowReads ctx a = (u, .error m)) {c lvl : Nat} {pte : Word}
    (hm : m.tr = .refused c lvl pte) :
    exec .memoryWindowRead e = .next ((u.postRefused c 5 lvl m.die noTask m.ctx m.va pte).turnAway a) := by
  rw [memoryRead_miss he hl hh hs hb hx, windowMiss_refused u m hm]

theorem memoryRead_absent {m : LoadMiss} (hx : e.windowReads ctx a = (u, .error m)) {lvl at' : Nat} {pte : BitVec 128}
    (hm : m.tr = .absent lvl pte at') :
    exec .memoryWindowRead e = .next (if m.held = true ∨ u.waitRoom m.die m.ctx m.va = false then
        u.defer (.memoryWindowRead a)
      else (u.waitOn m.die m.ctx m.va [] (supWord 1 1 5 lvl m.die noTask) (pte.toNat % 2 ^ 64)).turnAway a) := by
  rw [memoryRead_miss he hl hh hs hb hx, windowMiss_absent u m hm]
  by_cases hw : m.held = true ∨ u.waitRoom m.die m.ctx m.va = false
  · rw [if_pos hw, if_pos hw]
  · rw [if_neg hw, if_neg hw]

theorem memoryRead_gives {ds : List (Nat × Dw)} {bad : Bool} (hx : e.windowReads ctx a = (u, .ok (ds, bad))) :
    let va := e.windowVa ctx a.offset
    exec .memoryWindowRead e = .next (u.reply ((List.range a.size).map fun i => BitVec.ofNat 8 (dwNum ds (va + i) 1).1)
      (bad || (List.range a.size).any fun i => (dwNum ds ((va + i) / 4 * 4) 4).2) false) := by
  have hany (va : Nat) : (((List.range a.size).map fun i => (va + i) / 4 * 4).eraseDups.any fun g => (dwNum ds g 4).2)
      = (List.range a.size).any fun i => (dwNum ds ((va + i) / 4 * 4) 4).2 := by
    rw [Bool.eq_iff_iff]
    simp only [List.any_eq_true, List.mem_eraseDups, List.mem_map]
    exact ⟨fun ⟨_, ⟨i, hi, hg⟩, hp⟩ => ⟨i, hi, hg ▸ hp⟩, fun ⟨i, hi, hp⟩ => ⟨_, ⟨i, hi, rfl⟩, hp⟩⟩
  rw [exec_memoryWindowRead, execMemoryWindowRead, he]
  unfold State.windowReads at hx
  simp only [hl, hh, hs, hb, hx, hany, Bool.not_true, Bool.false_eq_true, if_false]

end

/-- MEMORY_WINDOW_READ in its cases. -/
theorem memoryRead_cases {e : State} {a : HostAccess} (he : e.ev = .memoryWindowRead a) :
    let ends (t : State) : Prop := exec .memoryWindowRead e = .next t
    if e.linked = false then ends e
    else if e.io.halted = true then ends (e.turnAway a)
    else match e.windowSlot a with
    | none => ends (e.turnAway a)
    | some ctx =>
      let va := e.windowVa ctx a.offset
      let read := e.windowReads ctx a
      let u := read.1
      if e.windowLater = true then ends (e.defer (.memoryWindowRead a))
      else match read.2 with
      | .error m => ends (match m.tr with
        | .absent lvl pte _ =>
          if m.held = true ∨ u.waitRoom m.die m.ctx m.va = false then u.defer (.memoryWindowRead a)
          else (u.waitOn m.die m.ctx m.va [] (supWord 1 1 5 lvl m.die noTask) (pte.toNat % 2 ^ 64)).turnAway a
        | .refused c lvl pte => (u.postRefused c 5 lvl m.die noTask m.ctx m.va pte).turnAway a
        | .ok _ _ _ _ => u.turnAway a)
      | .ok (ds, bad) => ends (u.reply ((List.range a.size).map fun i => BitVec.ofNat 8 (dwNum ds (va + i) 1).1)
          (bad || (List.range a.size).any fun i => (dwNum ds ((va + i) / 4 * 4) 4).2) false) := by
  intro ends
  split
  next hl => exact memoryRead_unlinked he hl
  next hl =>
    have hl : e.linked = true := eq_true_of_ne_false hl
    split
    next hh => exact memoryRead_halted he hl hh
    next hh =>
      have hh : e.io.halted = false := eq_false_of_ne_true hh
      split
      next hs => exact memoryRead_noSlot he hl hh hs
      next ctx hs =>
        intro va read u
        split
        next hb => exact memoryRead_behind he hl hh hs hb
        next hb =>
          have hb : e.windowLater = false := eq_false_of_ne_true hb
          have hx {r} (hr : read.2 = r) : read = (u, r) := Prod.ext rfl hr
          split
          next m hr =>
            split
            next lvl pte at' hm => exact memoryRead_absent he hl hh hs hb (hx hr) hm
            next c lvl pte hm => exact memoryRead_refused he hl hh hs hb (hx hr) hm
            next pa leaf at' lvl hm => exact memoryRead_mapped he hl hh hs hb (hx hr) hm
          next ds bad hr => exact memoryRead_gives he hl hh hs hb (hx hr)

end Sys2Proof.Machine
end

section
/-! The watches and the host's registers (R4, R19, R21, R26 to R30, R36). -/

namespace Sys2Proof.Machine

set_option Elab.async false

/-! Watches (R30). -/

/-- EN of a watch. -/
theorem watch_disarmed_iff (w : BitVec 128) : w.getLsbD 63 = false ↔ w.toNat / 2 ^ 63 % 2 = 0 := by
  rw [BitVec.getLsbD, Nat.testBit_eq_decide_div_mod_eq, decide_eq_false_iff_not]
  omega

theorem sendMsi_eq (s : State) (v : Nat) : s.sendMsi v = s.modIo fun io =>
    if (look io.msix v msixReset).getLsbD 96 then { io with pba := io.pba ||| BitVec.ofNat 2048 (2 ^ v) }
    else { io with msixSent := io.msixSent ++ [v] } := by
  unfold State.sendMsi State.modIo
  dsimp only
  split <;> rfl

theorem fireAs_eq (s : State) (n : Nat) (can : Bool) : s.fireAs n can =
    let w := (look s.io.watch n 0).toNat
    if w / 2 ^ 63 % 2 = 0 then s
    else (s.modIo fun io => { io with watch := put io.watch n (BitVec.ofNat 128
      (w / 2 ^ 64 % 2 ^ 11 * 2 ^ 64 + 2 ^ 62 + can.toNat * 2 ^ 61 + w / 2 ^ 32 % 2 ^ 9 * 2 ^ 32 + w % 2 ^ 32)) }).sendMsi
      (w / 2 ^ 64 % 2 ^ 11) := by
  simp only [State.fireAs, Bool.not_eq_true', watch_disarmed_iff, bitsOf, div_two_pow_zero]

theorem sendMsi_tables (s : State) (v : Nat) :
    (s.sendMsi v).io.ctabBase = s.io.ctabBase ∧ (s.sendMsi v).io.ctabLen = s.io.ctabLen := by
  unfold State.sendMsi
  split <;> exact ⟨rfl, rfl⟩

theorem fireAs_tables (s : State) (n : Nat) (can : Bool) :
    (s.fireAs n can).io.ctabBase = s.io.ctabBase ∧ (s.fireAs n can).io.ctabLen = s.io.ctabLen := by
  rw [fireAs_eq]
  dsimp only
  split
  · exact ⟨rfl, rfl⟩
  · exact sendMsi_tables _ _

/-- A watch fires for what a change of this cycle has brought, if EN is written to 1; EN written to 0 withholds it. -/
def State.watchTaken (s : State) (n : Nat) (en : Bool) : State :=
  let t := s.modIo fun io => { io with watchDue := del io.watchDue n }
  match find? s.io.watchDue n with
  | some can => if en then t.fireAs n can else t
  | none => t

theorem watchTaken_tables (s : State) (n : Nat) (en : Bool) :
    (s.watchTaken n en).io.ctabBase = s.io.ctabBase ∧ (s.watchTaken n en).io.ctabLen = s.io.ctabLen := by
  unfold State.watchTaken
  dsimp only
  split
  · split
    · exact fireAs_tables _ _ _
    · exact ⟨rfl, rfl⟩
  · exact ⟨rfl, rfl⟩

/-- A write of a watch's low word keeps the fields that it writes when it is made again. -/
structure WritesWatch (en : Bool) (f : BitVec 128 → BitVec 128) : Prop where
  armed : ∀ w, en = true → (f w).getLsbD 63 = true
  ctx : ∀ w, (f (f w)).toNat / 2 ^ 32 % 2 ^ 9 = (f w).toNat / 2 ^ 32 % 2 ^ 9
  index : ∀ w, (f (f w)).toNat % 2 ^ 32 = (f w).toNat % 2 ^ 32

section
variable (s : State) (n : Nat) {en : Bool} {f : BitVec 128 → BitVec 128}

/-- The watch after the write. -/
def State.watchPut (s : State) (n : Nat) (en : Bool) (f : BitVec 128 → BitVec 128) : State :=
  (s.watchTaken n en).modIo fun io => { io with watch := put io.watch n (f (look io.watch n 0)) }

theorem watchSet_withheld (f : BitVec 128 → BitVec 128) : s.watchSet n false f = s.watchPut n false f := rfl

/-- EN written to 1 evaluates the watch, once the counter's page can be read. -/
theorem watchSet_arms (hf : WritesWatch true f) : s.watchSet n true f =
    let v := s.watchTaken n true
    let w := f (look v.io.watch n 0)
    let ctx := w.toNat / 2 ^ 32 % 2 ^ 9
    let k := w.toNat % 2 ^ 32
    let v := s.watchPut n true f
    match v.engTr ctx (v.ctrAt ctx k) with
    | .absent _ _ _ => v.push [.counterOperation ⟨BitVec.ofNat 9 ctx, BitVec.ofNat 32 k, .counted 0 0, noNode, 0⟩]
    | _ => if v.ctrExists ctx k && v.ctrSeen ctx k && watchDue (v.readCtr ctx k) then v.fireAs n (v.readCtr ctx k).can
      else v := by
  have hw : look (s.watchPut n true f).io.watch n 0 = f (look (s.watchTaken n true).io.watch n 0) := look_put_same ..
  have hfire : (s.watchPut n true f).fireWatch n =
      let w := f (look (s.watchTaken n true).io.watch n 0)
      let ctx := w.toNat / 2 ^ 32 % 2 ^ 9
      let k := w.toNat % 2 ^ 32
      let v := s.watchPut n true f
      if v.ctrExists ctx k && v.ctrSeen ctx k && watchDue (v.readCtr ctx k) then v.fireAs n (v.readCtr ctx k).can else v := by
    simp only [State.fireWatch, State.watchHolds, hw, hf.armed _ rfl, Bool.true_and, bitsOf, div_two_pow_zero]
    split <;> simp_all
  have hset : s.watchSet n true f =
      let v := s.watchPut n true f
      let w := f (look v.io.watch n 0)
      match v.engTr (w.toNat / 2 ^ 32 % 2 ^ 9) (v.ctrAt (w.toNat / 2 ^ 32 % 2 ^ 9) (w.toNat / 2 ^ 0 % 2 ^ 32)) with
      | .absent _ _ _ => v.push [.counterOperation ⟨BitVec.ofNat 9 (w.toNat / 2 ^ 32 % 2 ^ 9),
          BitVec.ofNat 32 (w.toNat / 2 ^ 0 % 2 ^ 32), .counted 0 0, noNode, 0⟩]
      | _ => v.fireWatch n := rfl
  rw [hset]
  dsimp only
  rw [hw, hf.ctx, div_two_pow_zero, hf.index, hfire]

/-- A write of a watch's low word, in the counter tables as they stand before it (R30). -/
theorem watchSet_eq (hf : WritesWatch en f) : s.watchSet n en f =
    let w := f (look (s.watchTaken n en).io.watch n 0)
    let ctx := w.toNat / 2 ^ 32 % 2 ^ 9
    let k := w.toNat % 2 ^ 32
    let v := s.watchPut n en f
    let c := v.readCtr ctx k
    if en = false then v
    else match v.engTr ctx ((look s.io.ctabBase ctx 0).toNat + 16 * k) with
    | .absent _ _ _ => v.push [.counterOperation ⟨BitVec.ofNat 9 ctx, BitVec.ofNat 32 k, .counted 0 0, noNode, 0⟩]
    | _ => if k < (look s.io.ctabLen ctx 0).toNat ∧ v.ctrSeen ctx k = true ∧ (c.count = c.target ∨ c.can = true) then
        v.fireAs n c.can
      else v := by
  cases en with
  | false => exact watchSet_withheld s n f
  | true =>
    obtain ⟨hbase, hlen⟩ := watchTaken_tables s n true
    have hb : (s.watchPut n true f).io.ctabBase = s.io.ctabBase := hbase
    have hl : (s.watchPut n true f).io.ctabLen = s.io.ctabLen := hlen
    rw [watchSet_arms s n hf]
    simp only [State.ctrAt, State.ctrExists, watchDue, hb, hl, Bool.and_eq_true, Bool.or_eq_true, decide_eq_true_eq, beq_iff_eq,
      and_assoc, Bool.true_eq_false, if_false]

end

theorem writesWatch_arm : WritesWatch true fun w => w ||| BitVec.ofNat 128 (2 ^ 63) where
  armed w _ := by
    rw [BitVec.getLsbD_or, BitVec.getLsbD_ofNat, Nat.testBit_two_pow_self]
    simp
  ctx w := by rw [BitVec.or_assoc, BitVec.or_self]
  index w := by rw [BitVec.or_assoc, BitVec.or_self]

/-- A field of one bit. -/
theorem mod_two_pow_one (n : Nat) : n % 2 ^ 1 = n % 2 := rfl

/-- A watch's low word as a write of the control window makes it (R30). -/
theorem watchWrite_toNat (w : BitVec 128) (v : Word) : (watchWrite w v).toNat = w.toNat / 2 ^ 64 % 2 ^ 11 * 2 ^ 64
    + v.toNat / 2 ^ 63 * 2 ^ 63 + (if v.getLsbD 62 then 0 else w.toNat / 2 ^ 62 % 2) * 2 ^ 62 + w.toNat / 2 ^ 61 % 2 * 2 ^ 61
    + v.toNat / 2 ^ 32 % 2 ^ 9 * 2 ^ 32 + v.toNat % 2 ^ 32 := by
  have hv := v.isLt
  have hf : (if v.getLsbD 62 = true then 0 else w.toNat / 2 ^ 62 % 2) < 2 := by split <;> omega
  simp only [watchWrite, bitsOf, mod_two_pow_one, BitVec.toNat_ofNat]
  omega

theorem watchWrite_eq (w : BitVec 128) (v : Word) : watchWrite w v = BitVec.ofNat 128 (w.toNat / 2 ^ 64 % 2 ^ 11 * 2 ^ 64
    + v.toNat / 2 ^ 63 * 2 ^ 63 + (if v.getLsbD 62 then 0 else w.toNat / 2 ^ 62 % 2) * 2 ^ 62 + w.toNat / 2 ^ 61 % 2 * 2 ^ 61
    + v.toNat / 2 ^ 32 % 2 ^ 9 * 2 ^ 32 + v.toNat % 2 ^ 32) := by
  rw [← watchWrite_toNat, BitVec.ofNat_toNat, BitVec.setWidth_eq]

theorem writesWatch_write (v : Word) : WritesWatch (v.getLsbD 63) fun w => watchWrite w v where
  armed w h := by
    have hv := v.isLt
    have hf : (if v.getLsbD 62 = true then 0 else w.toNat / 2 ^ 62 % 2) < 2 := by split <;> omega
    rw [BitVec.getLsbD, Nat.testBit_eq_decide_div_mod_eq, decide_eq_true_eq] at h ⊢
    rw [watchWrite_toNat]
    omega
  ctx w := by
    have hv := v.isLt
    have hf (w : BitVec 128) : (if v.getLsbD 62 = true then 0 else w.toNat / 2 ^ 62 % 2) < 2 := by split <;> omega
    have h1 := hf w
    have h2 := hf (watchWrite w v)
    rw [watchWrite_toNat, watchWrite_toNat w]
    omega
  index w := by
    rw [watchWrite_toNat, watchWrite_toNat w]
    omega

/-! The vectors (R30). -/

/-- A vector is written, and sent where it is unmasked with its pending bit set (log 13). -/
def State.msixPut (s : State) (n : Nat) (w : BitVec 128) : State :=
  let u := s.modIo fun io => { io with msix := put io.msix n w }
  if w.getLsbD 96 = false ∧ s.io.pba.getLsbD n = true then
    (u.modIo fun io => { io with pba := io.pba &&& ~~~(BitVec.ofNat 2048 (2 ^ n)) }).sendMsi n
  else u

theorem msixWrite_low (s : State) (n : Nat) (v : Word) : s.msixWrite n 0 v = s.msixPut n
    (BitVec.ofNat 128 ((look s.io.msix n msixReset).toNat / 2 ^ 64 * 2 ^ 64 + v.toNat)) := by
  have hold := (look s.io.msix n msixReset).isLt
  have hhigh : (look s.io.msix n msixReset).toNat / 2 ^ 64 % 2 ^ 64 = (look s.io.msix n msixReset).toNat / 2 ^ 64 := by omega
  unfold State.msixWrite State.msixPut bitsOf
  simp only [if_true, hhigh, Bool.and_eq_true, Bool.not_eq_true']
  rfl

theorem msixWrite_high (s : State) (n : Nat) (v : Word) : s.msixWrite n 1 v = s.msixPut n
    (BitVec.ofNat 128 (v.toNat * 2 ^ 64 + (look s.io.msix n msixReset).toNat % 2 ^ 64)) := by
  unfold State.msixWrite State.msixPut bitsOf
  simp only [Nat.one_ne_zero, if_false, div_two_pow_zero, Bool.and_eq_true, Bool.not_eq_true']
  rfl

/-! The command word (R36). -/

/-- The commands that R36 lists. -/
def hearthCommands : List (Nat × Ev) := [(0x001, .quote), (0x002, .idcert), (0x010, .keyxch), (0x011, .keyimport),
  (0x012, .keygen), (0x013, .keyerase), (0x020, .liferead)]

theorem hearthEvent_eq (cmd : Nat) : hearthEvent cmd = (hearthCommands.find? fun x => x.1 == cmd).map Prod.snd := by
  unfold hearthEvent
  repeat' split
  case isFalse =>
    rw [List.find?_eq_none.mpr, Option.map_none]
    simp only [hearthCommands, List.forall_mem_cons, List.not_mem_nil, beq_iff_eq, false_imp_iff, implies_true, and_true]
    omega
  all_goals subst_vars; rfl

/-- The command word while a command of code `cmd` has not ended (R36). -/
def beginWord (cmd : Nat) : Word := BitVec.ofNat 64 (2 ^ 63 + cmd)

theorem beginWord_toNat {cmd : Nat} (h : cmd < 2 ^ 12) : (beginWord cmd).toNat = 2 ^ 63 + cmd := by
  rw [beginWord, BitVec.toNat_ofNat, Nat.mod_eq_of_lt (by omega)]

/-- Dolzia begins the command that the mailbox holds; one that it may not begin, or that no table lists, ends at once. -/
theorem hcmdStart_of_busy (s : State) {cmd : Nat} (hb : s.io.hcmd.getLsbD 63 = true) (hc : s.io.hcmd.toNat % 2 ^ 12 = cmd) :
    s.hcmdStart =
      if s.dolzia = false then s
      else match hearthEvent cmd with
      | some e => if s.io.lifeBusy then s.modIo fun io => { io with hcmd := endWord cmd 4 } else s.push [e]
      | none => s.modIo fun io => { io with hcmd := endWord cmd 1 } := by
  have hcode : s.hcmdCode = cmd := by rw [State.hcmdCode, bitsOf, div_two_pow_zero, hc]
  rw [State.hcmdStart, hcode, hcmdEnd_of_code hc, hcmdEnd_of_code hc]
  cases hearthEvent cmd <;> simp only [State.hcmdBusy, hb, Bool.not_true, Bool.false_or, Bool.not_eq_true']

theorem hcmdWrite_busy (s : State) (v : Word) (h : s.io.hcmd.getLsbD 63 = true) : s.hcmdWrite v = s := if_pos h

section
variable {s : State} (v : Word) (h : s.io.hcmd.getLsbD 63 = false)
include h

/-- A command begins, if Dolzia runs and it is listed; its word is kept meanwhile. -/
theorem hcmdWrite_begins : s.hcmdWrite v =
    let t := s.modIo fun io => { io with hcmd := beginWord (v.toNat % 2 ^ 12) }
    let word (status : Nat) : State := s.modIo fun io => { io with hcmd := endWord (v.toNat % 2 ^ 12) status }
    if s.dolzia = false then t
    else match hearthEvent (v.toNat % 2 ^ 12) with
    | some e => if s.io.lifeBusy then word 4 else t.push [e]
    | none => word 1 := by
  have hw : (beginWord (v.toNat % 2 ^ 12)).toNat = 2 ^ 63 + v.toNat % 2 ^ 12 := beginWord_toNat (by omega)
  have hbusy : (beginWord (v.toNat % 2 ^ 12)).getLsbD 63 = true := by
    rw [BitVec.getLsbD, Nat.testBit_eq_decide_div_mod_eq, hw, decide_eq_true_eq]
    omega
  have hcode : (beginWord (v.toNat % 2 ^ 12)).toNat % 2 ^ 12 = v.toNat % 2 ^ 12 := by
    rw [hw]
    omega
  have hbits : bitsOf v.toNat 0 12 = v.toNat % 2 ^ 12 := by rw [bitsOf, div_two_pow_zero]
  rw [State.hcmdWrite, if_neg (by simpa [State.hcmdBusy] using h), hbits]
  exact hcmdStart_of_busy (s.modIo fun io => { io with hcmd := beginWord (v.toNat % 2 ^ 12) }) hbusy hcode

theorem hcmdWrite_waits (hd : s.dolzia = false) :
    s.hcmdWrite v = s.modIo fun io => { io with hcmd := beginWord (v.toNat % 2 ^ 12) } := by
  rw [hcmdWrite_begins v h]
  exact if_pos hd

theorem hcmdWrite_unlisted (hd : ¬s.dolzia = false) (hk : hearthCommands.find? (fun x => x.1 == v.toNat % 2 ^ 12) = none) :
    s.hcmdWrite v = s.modIo fun io => { io with hcmd := endWord (v.toNat % 2 ^ 12) 1 } := by
  rw [hcmdWrite_begins v h, hearthEvent_eq, hk]
  exact if_neg hd

theorem hcmdWrite_listed (hd : ¬s.dolzia = false) {x : Nat × Ev}
    (hk : hearthCommands.find? (fun x => x.1 == v.toNat % 2 ^ 12) = some x) :
    s.hcmdWrite v = if s.io.lifeBusy then s.modIo fun io => { io with hcmd := endWord (v.toNat % 2 ^ 12) 4 }
      else (s.modIo fun io => { io with hcmd := beginWord (v.toNat % 2 ^ 12) }).push [x.2] := by
  rw [hcmdWrite_begins v h, hearthEvent_eq, hk]
  exact if_neg hd

end

/-! Writes of the control window (R26 to R30, R36). -/

theorem payload_iff (off : Nat) : (hcmdAt ≤ off && off < 0x5000) = true ↔ 0x4100 ≤ off ∧ off < 0x5000 := by
  rw [hcmdAt, Bool.and_eq_true, decide_eq_true_eq, decide_eq_true_eq]

/-- Any 1 clears the field (R4). -/
theorem w1c_eq {w : Nat} (old : BitVec w) (v : Nat) : w1c old v = if v != 0 then 0 else old := by
  unfold w1c
  by_cases h : v = 0 <;> simp [h]

/-- The 8 bytes at an offset are a register's that a write reaches. -/
def controlWritten (off : Nat) : Bool :=
  off / 0x1000 == 1 || off / 0x1000 == 2 || (0x4100 ≤ off && off < 0x5000) || off / 0x8000 == 2
    || off == 0x18 || off == 0x20 || off == 0x4000

section
variable (s : State) (v : Word)

theorem controlWrite_nothing {off : Nat} (h : off % 8 ≠ 0 ∨ controlWritten off = false) : s.controlWrite off v = s := by
  simp only [controlWritten, Bool.or_eq_false_iff, Bool.and_eq_false_iff, beq_eq_false_iff_ne, decide_eq_false_iff_not] at h
  unfold State.controlWrite
  dsimp only
  by_cases h8 : off % 8 ≠ 0
  · rw [if_pos h8]
  · obtain ⟨⟨⟨⟨⟨⟨h1, h2⟩, h4⟩, hv⟩, hm⟩, hs⟩, hc⟩ := h.resolve_left h8
    rw [if_neg h8, if_neg hm, if_neg hs, if_neg h1, if_neg h2, if_neg hc, if_neg (by rw [payload_iff]; omega), if_neg hv]

theorem controlWrite_mwdef : s.controlWrite 0x18 v = s.modIo fun io => { io with mwdef := v.setWidth 9 } := rfl

theorem controlWrite_suberr : s.controlWrite 0x20 v = s.modIo fun io =>
    { io with suberrCount := if v.toNat / 2 ^ 48 % 2 ^ 16 != 0 then 0 else io.suberrCount } := by
  simp only [← w1c_eq]
  rfl

theorem controlWrite_ctxb {n : Nat} (hn : n < 512) : s.controlWrite (0x1000 + 8 * n) v =
    s.modIo fun io => { io with ctxb := put io.ctxb n (v &&& 0xFFFFFFFFFF000000) } := by
  unfold State.controlWrite
  dsimp only
  rw [if_neg (by omega), if_neg (by omega), if_neg (by omega), if_pos (by omega),
    show (0x1000 + 8 * n) / 8 % 512 = n by omega]

theorem controlWrite_watchLow {n : Nat} (hn : n < 256) : s.controlWrite (0x2000 + 16 * n) v =
    s.watchSet n (v.getLsbD 63) fun w => watchWrite w v := by
  unfold State.controlWrite
  dsimp only
  rw [if_neg (by omega), if_neg (by omega), if_neg (by omega), if_neg (by omega), if_pos (by omega), if_pos (by omega),
    show (0x2000 + 16 * n) / 16 % 256 = n by omega]

theorem controlWrite_watchHigh {n : Nat} (hn : n < 256) : s.controlWrite (0x2008 + 16 * n) v = s.modIo fun io =>
    { io with
      watch := put io.watch n (BitVec.ofNat 128 (v.toNat % 2 ^ 11 * 2 ^ 64 + (look io.watch n 0).toNat % 2 ^ 64)) } := by
  unfold State.controlWrite bitsOf
  dsimp only
  rw [if_neg (by omega), if_neg (by omega), if_neg (by omega), if_neg (by omega), if_pos (by omega), if_neg (by omega),
    show (0x2008 + 16 * n) / 16 % 256 = n by omega]
  simp only [div_two_pow_zero]

theorem controlWrite_payload {n : Nat} (hn : n < 480) : s.controlWrite (0x4100 + 8 * n) v = s.modIo fun io =>
    { io with hcmdBuf := Memory.writeN io.hcmdBuf (8 * n) (leBytes 8 v.toNat) } := by
  unfold State.controlWrite
  dsimp only
  rw [if_neg (by omega), if_neg (by omega), if_neg (by omega), if_neg (by omega), if_neg (by omega), if_neg (by omega),
    if_pos (by rw [payload_iff]; omega), show 0x4100 + 8 * n - hcmdAt = 8 * n by simp [hcmdAt]]

theorem controlWrite_vector {off n j : Nat} (hn : n < 2048) (hj : j < 2) (hoff : off = 0x10000 + 16 * n + 8 * j) :
    s.controlWrite off v = s.msixWrite n j v := by
  unfold State.controlWrite
  dsimp only
  rw [if_neg (by omega), if_neg (by omega), if_neg (by omega), if_neg (by omega), if_neg (by omega), if_neg (by omega),
    if_neg (by rw [payload_iff]; omega), if_pos (by omega), show off / 16 % 2048 = n by omega, show off / 8 % 2 = j by omega]

theorem controlWrite_command : s.controlWrite 0x4000 v = s.hcmdWrite v := rfl

end

/-! Reads of the control window (R26 to R30, R33, R35, R36). -/

/-- Half `j` of a register of 16 bytes. -/
def halfOf (w : BitVec 128) (j : Nat) : Word := BitVec.ofNat 64 (w.toNat / 2 ^ (64 * j) % 2 ^ 64)

section
variable (s : State)

theorem controlRead_ctxb {n : Nat} (hn : n < 512) : s.controlRead (0x1000 + 8 * n) = look s.io.ctxb n 0 := by
  unfold State.controlRead
  dsimp only
  rw [if_neg (by omega), if_neg (by omega), if_neg (by omega), if_neg (by omega), if_neg (by omega), if_neg (by omega),
    if_pos (by omega), show (0x1000 + 8 * n) / 8 % 512 = n by omega]

theorem controlRead_watch {n j : Nat} (hn : n < 256) (hj : j < 2) :
    s.controlRead (0x2000 + 16 * n + 8 * j) = halfOf (look s.io.watch n 0) j := by
  unfold State.controlRead
  dsimp only
  rw [if_neg (by omega), if_neg (by omega), if_neg (by omega), if_neg (by omega), if_neg (by omega), if_neg (by omega),
    if_neg (by omega), if_pos (by omega), show (0x2000 + 16 * n + 8 * j) / 16 % 256 = n by omega,
    show (0x2000 + 16 * n + 8 * j) / 8 % 2 = j by omega]
  rfl

theorem controlRead_payload {n : Nat} (hn : n < 480) :
    s.controlRead (0x4100 + 8 * n) = BitVec.ofNat 64 (leNat (Memory.readN s.io.hcmdBuf (8 * n) 8)) := by
  unfold State.controlRead
  dsimp only
  rw [if_neg (by omega), if_neg (by omega), if_neg (by omega), if_neg (by omega), if_neg (by omega), if_neg (by omega),
    if_neg (by omega), if_neg (by omega), if_neg (by omega), if_pos (by rw [payload_iff]; omega),
    show 0x4100 + 8 * n - hcmdAt = 8 * n by simp [hcmdAt], Memory.num]

theorem controlRead_vector {n j : Nat} (hn : n < 2048) (hj : j < 2) :
    s.controlRead (0x10000 + 16 * n + 8 * j) = halfOf (look s.io.msix n msixReset) j := by
  unfold State.controlRead
  dsimp only
  rw [if_neg (by omega), if_neg (by omega), if_neg (by omega), if_neg (by omega), if_neg (by omega), if_neg (by omega),
    if_neg (by omega), if_neg (by omega), if_neg (by omega), if_neg (by rw [payload_iff]; omega), if_pos (by omega),
    show (0x10000 + 16 * n + 8 * j) / 16 % 2048 = n by omega, show (0x10000 + 16 * n + 8 * j) / 8 % 2 = j by omega]
  rfl

theorem controlRead_pending {n : Nat} (hn : n < 32) :
    s.controlRead (0x18000 + 8 * n) = BitVec.ofNat 64 (s.io.pba.toNat / 2 ^ (64 * n) % 2 ^ 64) := by
  unfold State.controlRead
  dsimp only
  rw [if_neg (by omega), if_neg (by omega), if_neg (by omega), if_neg (by omega), if_neg (by omega), if_neg (by omega),
    if_neg (by omega), if_neg (by omega), if_neg (by omega), if_neg (by rw [payload_iff]; omega), if_neg (by omega),
    if_pos (by omega), show 8 * ((0x18000 + 8 * n) % 0x100) = 64 * n by omega, bitsOf]

theorem controlRead_nothing {off : Nat} (h : off % 8 ≠ 0 ∨ (0x28 ≤ off ∧ off < 0x1000) ∨ (0x3000 ≤ off ∧ off < 0x4000)
    ∨ (0x4008 ≤ off ∧ off < 0x4100) ∨ (0x5000 ≤ off ∧ off < 0x10000) ∨ 0x18100 ≤ off) : s.controlRead off = 0 := by
  unfold State.controlRead
  dsimp only
  by_cases h8 : off % 8 ≠ 0
  · rw [if_pos h8]
  · rw [if_neg h8, if_neg (by omega), if_neg (by omega), if_neg (by omega), if_neg (by omega), if_neg (by omega),
      if_neg (by omega), if_neg (by omega), if_neg (by omega), if_neg (by rw [payload_iff]; omega), if_neg (by omega),
      if_neg (by omega)]

end

/-! REGISTER_WRITE. -/

section
variable {e : State} {v : Word}

theorem registerWrite_off {off : Nat} (he : e.ev = .registerWrite (.bar0 off) v) (hl : e.linked = false) :
    exec .registerWrite e = .next e := by
  rw [exec_registerWrite, execRegisterWrite, he]
  simp only [hl, Bool.false_eq_true, if_false]

theorem registerWrite_control {off : Nat} (he : e.ev = .registerWrite (.bar0 off) v) (hl : e.linked = true) :
    exec .registerWrite e = .next (e.controlWrite off v) := by
  rw [exec_registerWrite, execRegisterWrite, he]
  simp only [hl, if_true]

theorem registerWrite_nothing {off : Nat} (he : e.ev = .registerWrite (.bar0 off) v)
    (h : off % 8 ≠ 0 ∨ controlWritten off = false) : exec .registerWrite e = .next e := by
  cases hl : e.linked with
  | false => exact registerWrite_off he hl
  | true => rw [registerWrite_control he hl, controlWrite_nothing e v h]

theorem registerWrite_route {n : Nat} (he : e.ev = .registerWrite (.route n) v) :
    exec .registerWrite e = .next (if e.power = true ∧ n < 1024 then
      e.modIo fun io => { io with route := put io.route n (v.setWidth 16 &&& 0xC0FF) } else e) := by
  rw [exec_registerWrite, execRegisterWrite, he]
  simp only [Bool.and_eq_true, decide_eq_true_eq]

theorem registerWrite_lnkst {n : Nat} (he : e.ev = .registerWrite (.lnkst n) v) :
    exec .registerWrite e = .next (if e.power = true ∧ n < 16 then e.modPort n fun p =>
      { p with
        replays := if v.toNat / 2 ^ 16 % 2 ^ 8 != 0 then 0 else p.replays
        errs := if v.toNat / 2 ^ 0 % 2 ^ 16 != 0 then 0 else p.errs } else e) := by
  rw [exec_registerWrite, execRegisterWrite, he]
  simp only [Bool.and_eq_true, decide_eq_true_eq, w1c_eq, bitsOf]

theorem watchArm_eq {n : Nat} (he : e.ev = .watchArm n) : exec .watchArm e = .next (if e.linked = true ∧ n < 256 then
    e.watchSet n true fun w => w ||| BitVec.ofNat 128 (2 ^ 63) else e) := by
  rw [exec_watchArm, execWatchArm, he]
  simp only [Bool.and_eq_true, decide_eq_true_eq]

end

/-- A write of the command word in its cases (R36). -/
theorem commandWord_cases {e : State} {v : Word} (he : e.ev = .registerWrite (.bar0 0x4000) v) (hl : e.linked = true) :
    let ends (t : State) : Prop := exec .registerWrite e = .next t
    let cmd := v.toNat % 2 ^ 12
    let word (w : Word) : State := e.modIo fun io => { io with hcmd := w }
    if e.io.hcmd.getLsbD 63 = true then ends e
    else if e.power = false ∨ e.io.halted = true ∨ e.io.bootStep.toNat < 5 then ends (word (beginWord cmd))
    else match hearthCommands.find? fun x => x.1 == cmd with
    | none => ends (word (endWord cmd 1))
    | some x => if e.io.lifeBusy then ends (word (endWord cmd 4)) else ends ((word (beginWord cmd)).push [x.2]) := by
  intro ends cmd word
  have hw {t : State} (ht : e.hcmdWrite v = t) : ends t := by
    rw [← ht, ← controlWrite_command]
    exact registerWrite_control he hl
  split
  next hb => exact hw (hcmdWrite_busy e v hb)
  next hb =>
    have hb : e.io.hcmd.getLsbD 63 = false := eq_false_of_ne_true hb
    split
    next hd => exact hw (hcmdWrite_waits v hb ((dolzia_off_iff e).mpr hd))
    next hd =>
      have hd : ¬e.dolzia = false := fun hoff => hd ((dolzia_off_iff e).mp hoff)
      split
      next hk => exact hw (hcmdWrite_unlisted v hb hd hk)
      next x hk =>
        have hx := hcmdWrite_listed v hb hd hk
        split
        next hl => exact hw (hx.trans (if_pos hl))
        next hl => exact hw (hx.trans (if_neg hl))

end Sys2Proof.Machine
end

section
/-! The host interface and the hearth mailbox, put together (R4, R19, R21, R26 to R31, R35 to R38, R54). -/

namespace Sys2Proof

open Machine

set_option Elab.async false

/-- Settles O56: the windows, the watches and the registers case by case, and each command of the mailbox from the one word
that it holds; KEYERASE keeps the key slots and the command word through its aborts and applies. -/
theorem hostAndHearth : Obligations.HostAndHearth := by
  unfold Obligations.HostAndHearth
  refine ⟨fun s => ?_, fun s => ?_⟩
  · intro io linked busy gives sends fires arms slotOf slot reach
    have hsends : sends = State.sendMsi := funext fun u => funext fun v => (sendMsi_eq u v).symm
    clear_value sends
    subst hsends
    have hfires : fires = State.fireAs := funext fun u => funext fun n => funext fun can => (fireAs_eq u n can).symm
    clear_value fires
    subst hfires
    have harms (x : Ev) {n : Nat} {en : Bool} {f : BitVec 128 → BitVec 128} (hf : WritesWatch en f) :
        arms { s with ev := x } n en f = State.watchSet { s with ev := x } n en f :=
      (watchSet_eq { s with ev := x } n hf).symm
    have hslot (a : HostAccess) : slot a = s.windowSlot a := (windowSlot_eq s a).symm
    refine ⟨fun a => ?_, fun a => ?_, fun a => ?_, fun n => ?_, fun r v => ?_, ?_⟩
    · intro e ends q qr mine cause
      have hcause : cause = e.poolCheck a q := (poolCheck_eq e a q).symm
      rw [hcause]
      exact poolWindow_cases (show e.ev = .poolWindowAccess a from rfl)
    · intro e ends held
      rw [hslot]
      exact memoryWrite_cases (show e.ev = .memoryWindowWrite a from rfl)
    · intro e ends held away
      rw [hslot]
      exact memoryRead_cases (show e.ev = .memoryWindowRead a from rfl)
    · intro e
      rw [harms _ writesWatch_arm]
      exact watchArm_eq rfl
    · intro e ends dest some1 vector
      refine ⟨?_, ?_, ?_⟩
      · rintro n rfl
        refine (registerWrite_route (show e.ev = .registerWrite (.route n) v from rfl)).trans ?_
        split <;> rfl
      · rintro n rfl
        refine (registerWrite_lnkst (show e.ev = .registerWrite (.lnkst n) v from rfl)).trans ?_
        split <;> rfl
      · rintro off rfl table
        refine ⟨?_, fun hl => ?_⟩
        · rintro (hl | h)
          · exact registerWrite_off rfl hl
          · exact registerWrite_nothing rfl h
        · have hw {t : State} (ht : e.controlWrite off v = t) : ends t := ht ▸ registerWrite_control rfl hl
          refine ⟨?_, ?_, ?_, ?_, ?_, ?_, ?_, ?_⟩
          · rintro rfl
            exact hw (controlWrite_mwdef e v)
          · rintro rfl
            exact hw (controlWrite_suberr e v)
          · rintro n hn rfl
            exact hw (controlWrite_ctxb e v hn)
          · rintro n hn rfl
            simp only [← watchWrite_eq]
            rw [harms _ (writesWatch_write v)]
            exact hw (controlWrite_watchLow e v hn)
          · rintro n hn rfl
            exact hw (controlWrite_watchHigh e v hn)
          · rintro n hn rfl
            exact hw (controlWrite_payload e v hn)
          · refine fun n hn => ⟨?_, ?_⟩
            · rintro rfl
              exact hw ((controlWrite_vector e v hn Nat.two_pos rfl).trans (msixWrite_low e n v))
            · rintro rfl
              exact hw ((controlWrite_vector e v hn Nat.one_lt_two (by omega)).trans (msixWrite_high e n v))
          · rintro rfl cmd word known
            have hbegin : word 1 0 = { io with hcmd := beginWord cmd } := by
              rw [beginWord, show 2 ^ 63 + cmd = 1 * 2 ^ 63 + 0 * 2 ^ 32 + cmd by omega]
            have hend (status : Nat) : word 0 status = { io with hcmd := endWord cmd status } := by
              rw [endWord, show status * 2 ^ 32 + cmd = 0 * 2 ^ 63 + status * 2 ^ 32 + cmd by omega]
            rw [hbegin, hend, hend]
            exact commandWord_cases (show e.ev = .registerWrite (.bar0 0x4000) v from rfl) hl
    · exact ⟨rfl, rfl, rfl, rfl, rfl, fun n => controlRead_ctxb s, fun n hn j => controlRead_watch s hn, rfl,
        fun n => controlRead_payload s, fun n hn j => controlRead_vector s hn, fun n => controlRead_pending s,
        fun off => controlRead_nothing s⟩
  · intro io held hcmd ends pay answers sign boot n full keeps
    have hn : n = s.payloadSlot := rfl
    clear_value n
    subst n
    refine ⟨fun x hx => exec_of_not_holds (isCommand_hearth x hx), quote_answers, idcert_answers, keyxch_answers,
      fun x hx h => ⟨exec_fill_refused (fillsSlot_hearth x hx) h, exec_fill_bad (fillsSlot_hearth x hx) h⟩,
      fun h0 hn hf => ⟨fun h => keyimport_cases h h0 hn hf, fun h => keygen_empty h h0 hn hf⟩,
      fun h => ⟨keyerase_zero h, keyerase_bad h, fun h0 hn => ?_⟩, fun h => ⟨liferead_busy h, liferead_answers h⟩⟩
    intro u named left
    have hleft : left = u.eraseWaits s.payloadSlot := by
      unfold State.eraseWaits
      rfl
    rw [hleft]
    exact keyerase_cases h h0 hn

end Sys2Proof
end
